-- ==== Sys2Proof/Word.lean ====
section
/-! DEFINITION. The word sizes of the IRZ-4C12 (00_scope.md, Conventions): plain names for bit vectors. -/

namespace Sys2Proof

/-- A byte. -/
abbrev Byte := BitVec 8
/-- A 16-bit quantity: unit identifiers (R26, R27), areas in 64 MiB units. -/
abbrev Half := BitVec 16
/-- A setup-space register word (R13). -/
abbrev Word := BitVec 32
/-- A 64-bit quantity: time base, stroke and step numbers, addresses in descriptors. -/
abbrev Dword := BitVec 64
/-- A 64-byte line of memory (R76), byte 0 least significant. -/
abbrev Line := BitVec 512

end Sys2Proof
end

