-- ==== Sys2Proof/Machine/Tab.lean ====
section
/-! DEFINITION. Sparse tables in one canonical form: keys strictly rising, no entry equal to the default. Memory, register
tables and the sets of the model are such tables, so that equal contents are equal data. -/

namespace Sys2Proof.Machine

/-- A sparse table: pairs of key and value, keys strictly rising. -/
abbrev Tab (α : Type) := List (Nat × α)

/-- The value at key `k`, `d` where the table lists none. -/
def Tab.get {α : Type} (d : α) : Tab α → Nat → α
  | [], _ => d
  | (j, v) :: r, k => if j = k then v else Tab.get d r k

/-- The table without key `k`. -/
def Tab.del {α : Type} (k : Nat) : Tab α → Tab α
  | [] => []
  | (j, w) :: r => if j = k then Tab.del k r else (j, w) :: Tab.del k r

/-- An entry placed before the first larger key. -/
def Tab.ins {α : Type} (k : Nat) (v : α) : Tab α → Tab α
  | [] => [(k, v)]
  | (j, w) :: r => if k < j then (k, v) :: (j, w) :: r else (j, w) :: Tab.ins k v r

/-- Store `v` at key `k`; storing the default removes the entry. -/
def Tab.put {α : Type} [DecidableEq α] (d : α) (t : Tab α) (k : Nat) (v : α) : Tab α :=
  if v = d then Tab.del k t else Tab.ins k v (Tab.del k t)

/-- Apply `f` to the value at key `k`. -/
def Tab.upd {α : Type} [DecidableEq α] (d : α) (t : Tab α) (k : Nat) (f : α → α) : Tab α :=
  Tab.put d t k (f (Tab.get d t k))

/-- Every key of the table lies above `k`. -/
def Tab.above {α : Type} (k : Nat) : Tab α → Bool
  | [] => true
  | (j, _) :: _ => decide (k < j)

/-- The canonical form: keys strictly rising, no entry equal to the default. -/
def Tab.wf {α : Type} [DecidableEq α] (d : α) : Tab α → Bool
  | [] => true
  | (j, v) :: r => decide (v ≠ d) && Tab.above j r && Tab.wf d r

/-- A set of numbers, strictly rising. -/
abbrev NSet := List Nat

/-- Add a number to a set. -/
def NSet.add : NSet → Nat → NSet
  | [], k => [k]
  | j :: r, k => if k < j then k :: j :: r else if k = j then j :: r else j :: NSet.add r k

/-- Remove a number from a set. -/
def NSet.del (t : NSet) (k : Nat) : NSet := t.filter (fun j => j != k)

end Sys2Proof.Machine
end

