-- ==== Sys2Proof/Machine/Bits.lean ====
section
/-! DEFINITION. Bit-field, sign-extension, byte-order and saturation helpers (01_six_levels.md, 04_memory_and_addresses.md). -/

namespace Sys2Proof.Machine

/-- Bits `[lo + len - 1 : lo]` of a bit vector, as a number. -/
def bits {n : Nat} (w : BitVec n) (lo len : Nat) : Nat := (w.toNat >>> lo) % 2 ^ len

/-- One bit of a bit vector. -/
def bit {n : Nat} (w : BitVec n) (i : Nat) : Bool := w.getLsbD i

/-- Bits `[lo + len - 1 : lo]` read as a two's complement number. -/
def sbits {n : Nat} (w : BitVec n) (lo len : Nat) : Int := (BitVec.ofNat len (bits w lo len)).toInt

/-- Some bit of `[lo + len - 1 : lo]` is 1: the test that a reserved field is not 0. -/
def anyBits {n : Nat} (w : BitVec n) (lo len : Nat) : Bool := bits w lo len != 0

/-- The number 1 or 0 of a flag. -/
def b2n (b : Bool) : Nat := if b then 1 else 0

/-- A 32-bit count that saturates at 0xFFFF_FFFF. -/
def satAdd (a : Word) (n : Nat) : Word :=
  if a.toNat + n < 2 ^ 32 then BitVec.ofNat 32 (a.toNat + n) else BitVec.ofNat 32 (2 ^ 32 - 1)

/-- A number clamped to `w` bits: the saturating fields of records. -/
def satTo (w n : Nat) : Nat := if n < 2 ^ w then n else 2 ^ w - 1

/-- Round `a` up to a multiple of `b`, in units of `b`. -/
def ceilDiv (a b : Nat) : Nat := (a + b - 1) / b

/-- Assemble a payload from (byte offset, value) fields: each value is placed at its byte, little-endian. -/
def packBytes : List (Nat × Nat) → Nat
  | [] => 0
  | (off, v) :: r => v * 2 ^ (8 * off) ||| packBytes r

/-- The little-endian number of a list of bytes. -/
def leNat : List Byte → Nat
  | [] => 0
  | b :: r => b.toNat + 256 * leNat r

/-- The first `n` bytes of a number, little-endian. -/
def natBytes : Nat → Nat → List Byte
  | 0, _ => []
  | n + 1, v => BitVec.ofNat 8 v :: natBytes n (v / 256)

/-- The `i`-th 32-bit word of a line, word 0 least significant. -/
def lineWord {n : Nat} (l : BitVec n) (i : Nat) : Word := BitVec.ofNat 32 (l.toNat >>> (32 * i))

/-- Clear the bits of `v` that are 1 in `w` within `mask`: a W1C write (R13). -/
def w1c (v w mask : Nat) : Nat := v - (v &&& (w &&& mask))

/-- Bits `[high:low]` of `v` replaced by those of `w` where `mask` is 1: an RW write that leaves reserved bits 0 (R13, R14). -/
def rwMask (w mask : Nat) : Nat := w &&& mask

/-- Test of one bit of a number. -/
def nbit (v i : Nat) : Bool := v.testBit i

/-- The elements of a list whose index satisfies a test. -/
def idxFilter {α : Type} (p : Nat → Bool) : Nat → List α → List α
  | _, [] => []
  | i, a :: r => if p i then a :: idxFilter p (i + 1) r else idxFilter p (i + 1) r

/-- The first number below `n` counted from `i` on that satisfies `p`. -/
def firstFrom (p : Nat → Bool) : Nat → Nat → Option Nat
  | 0, _ => none
  | n + 1, i => if p i then some i else firstFrom p n (i + 1)

end Sys2Proof.Machine
end

