-- ==== Sys2Proof/Machine/StateDp.lean ====
section
/-! DEFINITION. The state of the package's data path as plain data: memory (ch. 04), event recorder (ch. 17), faults (ch. 18),
interrupts (ch. 05), per-partition step and contract state (ch. 03, 11) and the units of the clusters and dies. -/

namespace Sys2Proof.Machine

/-- An error a line of package memory holds until it is rewritten or corrected (R102, R103). -/
inductive Ecc where
  | none | ce | ue
  deriving DecidableEq, Repr

/-- Memory, its layout and its block at 0x1080 (R84–R112, R116). -/
structure Mem where
  /-- Package memory by physical key (R84, R88, R89): HBM, SRAM, accumulators, reduction buffers, the inkwell area. -/
  cells : List Host.Cell
  /-- Host memory and the slow tier behind the CXL port, by host physical address (R107). -/
  host : List Host.Cell
  /-- Host lines that read as CXL poison (R105, R107, R121), by host physical line number. -/
  poison : List Nat
  /-- Lines of package memory with an ECC error, by physical line number (R102–R106). -/
  marks : Tab Ecc
  /-- HBM_LAYOUT.LOCAL_GIB and ILV_64M (R87), MEM_STAT.LAYOUT. -/
  localGib : BitVec 8
  ilv : BitVec 16
  layoutOn : Bool
  /-- INKWELL.INK_64M. -/
  ink : BitVec 5
  /-- AREA_STAGE, AREA_ACC, AREA_EMBER: base in [31:16], size in [15:0], 64 MiB units (R89, R90). -/
  areaStage : BitVec 32
  areaAcc : BitVec 32
  areaEmber : BitVec 32
  /-- MEM_STAT.CFGREJ, UE, UNMAPPED. -/
  cfgRej : Bool
  ue : Bool
  unmapped : Bool
  /-- CE_CNT, UE_CNT, UNMAP_CNT. -/
  ceCnt : BitVec 32
  ueCnt : BitVec 32
  unmapCnt : BitVec 32
  /-- UE_ADDR: address in [47:0], requester's unit identifier in [63:48] (R103). -/
  ueAddr : BitVec 64
  /-- HDM_MAP (R116). -/
  hdmBase : BitVec 16
  hdmSize : BitVec 16
  /-- XT table of R112, 128 entries. -/
  xt : Tab (BitVec 64)
  /-- The inclusive snoop filter of R116: lines of the host window the host may cache, oldest first. -/
  snoop : List Nat
  /-- Lines back-invalidated from the host since reset (R116); the model's own count. -/
  backInv : Nat
  /-- Residency counts of the staging area's 1 MiB blocks, at 2^16 · stack + block of the local view (R307). -/
  staged : Tab Nat
  /-- Regions and stacks isolated for a self-test, whose addresses are unmapped (R463): bit 16d + g, bit j. -/
  isoRegions : BitVec 64
  isoStacks : BitVec 12
  deriving DecidableEq, Repr

/-- One histogram quantity (R413). -/
structure Hist where
  bins : Tab (BitVec 16) := []
  max : BitVec 64 := 0
  maxStroke : BitVec 64 := 0
  maxUnit : BitVec 16 := 0
  samples : BitVec 32 := 0
  sum : BitVec 64 := 0
  deriving DecidableEq, Repr

/-- The event recorder, trace rings and their registers (R406–R427). Records are 64 bytes, events 32. -/
structure Log where
  ready : Bool
  hperiod : BitVec 16
  fillLog2 : BitVec 4
  irqSev : BitVec 2
  holdSev : BitVec 2
  head : BitVec 32
  cursor : BitVec 32
  mark : BitVec 32
  /-- The main ring of 4,096 slots (R408) and the hold ring of 512 (R411), with the slots not yet acknowledged. -/
  ring : Tab (BitVec 512)
  hold : Tab (BitVec 512)
  held : List Nat
  ovldF : Bool
  hdropF : Bool
  ovld : BitVec 32
  hdrop : BitVec 32
  supp : BitVec 32
  /-- Rate table (R426): in force, and as written for the next bucket; one entry per code. -/
  rate : Tab (BitVec 8)
  rateNext : Tab (BitVec 8)
  /-- Code counts (R427). -/
  counts : Tab (BitVec 32)
  /-- Records entered and suppressed per code in the present bucket, and the bucket's start (R409). -/
  inBucket : Tab Nat
  suppressed : Tab Nat
  bucket : BitVec 64
  /-- Vector 82: time of the last firing, and a condition waiting for the 100 µs spacing (R412). -/
  irqLast : Option (BitVec 64)
  irqWait : Bool
  /-- Histogram quantities 0–5 (R413). -/
  hist : Tab Hist
  /-- Trace rings, newest event first, at most 64, by unit identifier (R414), and each unit's event count. -/
  rings : Tab (List (BitVec 256))
  eseq : Tab (BitVec 16)
  trSel : BitVec 16
  snap : List (BitVec 256)
  snapTs : BitVec 64
  snapBad : Bool
  classes : BitVec 7
  spillPorts : Bool
  spill : Bool
  freeze : Bool
  auto : Bool
  frozen : Bool
  /-- Spill queues per stack, oldest first (R417), inkwell write positions (line, wraps) and TR_SPILLDROP. -/
  spillQ : Tab (List (BitVec 256))
  spillDrop : BitVec 32
  inkOff : BitVec 19
  inkStack : BitVec 4
  inkLine : Tab (BitVec 24)
  inkWraps : Tab (BitVec 8)
  /-- The package's RTAG counter for line-carrying packets (R415). -/
  rtag : BitVec 32
  deriving DecidableEq, Repr

/-- R407: the default rates that are not 0. -/
def defaultRates : Tab (BitVec 8) :=
  [(0x13, 32), (0x14, 32), (0x20, 8), (0x21, 8), (0x22, 8), (0x27, 8), (0x28, 16), (0x32, 8)]

/-- Interrupts: the MSI-X table, pending bits and spacing (R118, R140, R145). -/
structure Irq where
  /-- The MSI-X capability's Enable and Function Mask, in configuration space (R145). -/
  enable : Bool
  fmask : Bool
  /-- MSI-X table words, word 4v + i of vector v: address low, address high, data, control. -/
  table : Tab (BitVec 32)
  pba : List Nat
  /-- Time at which each vector last fired (plus one; 0: never), and the time a waiting request fires at (plus one). -/
  last : Tab Nat
  waiting : Tab Nat
  /-- Messages sent, newest first: vector numbers. -/
  sent : List Nat
  deriving DecidableEq, Repr

/-- A tally being received from the SRCDIR neighbour: lines by offset (R432). -/
abbrev Tally := Tab (BitVec 512)

/-- A recovery in progress (R429): fault class, report number, and the stroke-table entry of a class 8 fault. -/
structure Recov where
  cls : Nat
  report : Nat
  entry : Nat
  deriving DecidableEq, Repr

/-- Faults and recovery (R428–R445). -/
structure Fr where
  multi : Bool
  newRep : Bool
  regen : Bool
  restoring : Bool
  replay : Bool
  hold : Bool
  spare : Bool
  restore : Bool
  last : BitVec 32
  count : BitVec 32
  /-- The report table of 12 entries of 64 bytes (R444). -/
  reports : Tab (BitVec 512)
  rbase : BitVec 16
  rsplit : BitVec 16
  xbase : BitVec 22
  xstride : BitVec 16
  recpt : BitVec 64
  /-- Step of the recovery point named. -/
  recStep : BitVec 64
  resume : BitVec 64
  /-- RECOVER has come; the launch is held from the next stroke boundary (R435). -/
  pendHold : Bool
  replayCnt : BitVec 32
  rollbackCnt : BitVec 32
  restoredCnt : BitVec 32
  /-- Faults whose recovery is not complete (R429). -/
  open_ : List Recov
  /-- Entries of completed class 8 recoveries (R429, last sentence). -/
  stalls : List Nat
  fenced : Bool
  /-- The stroke in progress was voided, its cause (R407 VOID), and what the stroke has performed that makes it not
  replayable (R430). -/
  voided : Bool
  voidCause : Nat
  tainted : Bool
  /-- The package's own latest two tallies by parity, and the neighbour's tallies held for it by parity, complete and
  incoming (R432). -/
  ownTally : Tab Tally
  /-- PREV of the step line that the close of each own tally wrote, by parity; 0 where the tally came from the holder (R281, R284). -/
  prevs : Tab Nat
  heldTally : Tab Tally
  inTally : Tab Tally
  /-- Lines of the incoming tallies that have arrived, by parity. -/
  inGot : Tab (List Nat)
  /-- Fault reports sent to the management controller, newest first (R444). -/
  toMgmt : List (BitVec 512)
  /-- A class 11 fault has stopped the job: its report number, until the launches have ended (R8, R444). -/
  jobStop : Option (BitVec 32)
  /-- Lines of a restore still awaited, by stack; key 12 for the tally (R436, R440). -/
  awaited : Tab Nat
  deriving DecidableEq, Repr

/-- The gate of a pass (R277). -/
inductive Gate where
  | opened | clear | set
  deriving DecidableEq, Repr

/-- Per-partition contract and step state (R83, R273, R290). -/
structure Part where
  seedSet : Bool := false
  covered : Bool := false
  hostWr : Bool := false
  window : Bool := false
  winvCnt : BitVec 32 := 0
  winvFirst : BitVec 32 := 0
  hostWrCnt : BitVec 32 := 0
  seed : BitVec 128 := 0
  step : BitVec 64 := 0
  gate : Gate := .opened
  blot : Bool := false
  torn : Bool := false
  floor : Bool := false
  cfgRej : Bool := false
  lineBad : Bool := false
  lsInit : BitVec 8 := 0x10
  lsMax : BitVec 8 := 0x18
  lsMin : BitVec 8 := 0x00
  grow : BitVec 5 := 0x0B
  lineAddr : BitVec 48 := 0
  lineEn : Bool := false
  ls : BitVec 8 := 0x10
  clean : BitVec 32 := 0
  skip : BitVec 32 := 0
  lastSkip : BitVec 64 := 0
  lateBlot : BitVec 32 := 0
  early : BitVec 32 := 0
  /-- The blot flag at S+0 of the present stroke (R276). -/
  blotS0 : Bool := false
  /-- The pass held a vote; the flag at S+0 of its last vote stroke; the source of the first raise after it (R276). -/
  voted : Bool := false
  blotAtVote : Bool := false
  lateSrc : Nat := 0
  lateUnit : BitVec 16 := 0
  /-- Source and unit of the first raise in the present stroke. -/
  strokeSrc : Nat := 0
  strokeUnit : BitVec 16 := 0
  /-- A vote value delivered in the present stroke, latched at its end (R277). -/
  voteIn : Option Bool := none
  /-- A Blotter of the pass wrote persistent state (R285), issued an ungated UPD (R432), or wrote back (R435). -/
  wrote : Bool := false
  ungated : Bool := false
  /-- Ember sequence number (R310), the value the host last wrote (R314), the step of the latest seal (R312), and whether the pass
  executed an ungated SEAL (R310). -/
  eseq : BitVec 64 := 0
  eseqHost : BitVec 64 := 0
  sealStep : BitVec 64 := 0
  sealed : Bool := false
  /-- The step line was defined at acceptance for the running launch (R282). -/
  lineOk : Bool := false
  deriving DecidableEq, Repr

/-- The sticky arithmetic counters of a unit (R195, R215, R241, R268, R315, R367). -/
structure Sticky where
  nan : BitVec 32 := 0
  inf : BitVec 32 := 0
  ill : BitVec 32 := 0
  nanw : BitVec 32 := 0
  ovfw : BitVec 32 := 0
  oor : BitVec 32 := 0
  invop : BitVec 32 := 0
  drop : BitVec 32 := 0
  badix : BitVec 32 := 0
  deriving DecidableEq, Repr

/-- What every stream-running unit holds (R16, R151–R152, R180–R182, R195). -/
structure Unit where
  /-- Index of the next instruction within the segment. -/
  idx : Nat := 0
  /-- Credit counters (R180). -/
  cnt : Tab (BitVec 16) := []
  /-- The counter and count a WAIT is blocked on (R181). -/
  blocked : Option (Nat × Nat) := none
  /-- The unit has reported done for the stroke. -/
  done : Bool := false
  /-- CAUSE bits of the present stroke (R53). -/
  cause : BitVec 6 := 0
  /-- A late segment fetch is outstanding (R152). -/
  fetchLate : Bool := false
  /-- The segment of the next entry is in the buffer (R152). -/
  fetched : Bool := false
  /-- The unit dispatches nothing: a FENCE or an OPEN waits for acknowledgements (R98, R312). -/
  held : Bool := false
  /-- A Slant instruction waits for an access the host link or a die edge holds (R117, R227, R379). -/
  awaitExt : Bool := false
  /-- Disabled by ENGINE_CTL: at once, or when the launch that uses it ends (R142). -/
  disabled : Bool := false
  deferred : Bool := false
  sticky : Sticky := {}
  /-- ENTRY in [15:0], OPC in [23:16], INDEX in [39:24] of the first invalid instruction since launch (R179, R196, R270). -/
  illFirst : BitVec 40 := 0
  /-- The unit's measuring counters by register offset in its block (RC, outside the contract). -/
  perf : Tab (BitVec 32) := []
  deriving DecidableEq, Repr

/-- One stationary buffer of the matrix array (R184, R193). -/
structure MxBuf where
  loaded : Bool := false
  /-- Format code, accumulation width, last active row and column of the LOADW. -/
  fmt : Nat := 0
  accw : Bool := false
  kr : Nat := 0
  nc : Nat := 0
  /-- The column records 0 to NC and their scale records, as little-endian numbers (R172, R174). -/
  recs : List Nat := []
  scales : List Nat := []
  deriving DecidableEq, Repr

/-- What an MMA leaves for a chained one (R190): FMT, ACCW, A16, REUSE and TAPS as one number, where its words ended, and its final
words with their scale words. -/
structure MmaPrev where
  key : Nat
  feedEnd : Nat
  scaleEnd : Nat
  words : Nat
  scaleWords : Nat
  deriving DecidableEq, Repr

/-- The matrix array of a cluster. -/
structure Mxa where
  buf0 : MxBuf := {}
  buf1 : MxBuf := {}
  prev : Option MmaPrev := none
  deriving DecidableEq, Repr

/-- The index registers E0, ES, TID of a TFE channel or of Brush (R235, R253). -/
structure IdxRegs where
  e0 : BitVec 64 := 0
  es : BitVec 64 := 0
  tid : BitVec 32 := 0
  deriving DecidableEq, Repr

/-- Brush, the tile vector engine (R246–R254). -/
structure Brush where
  /-- Tile registers by number; lane l in bits [32l + 31:32l]. -/
  tiles : Tab (BitVec 8192) := []
  x : Tab (BitVec 64) := []
  pvl : BitVec 16 := 256
  fill : BitVec 32 := 0
  idx : IdxRegs := {}
  /-- The loops in progress, innermost first: first body index, last body index, iterations left. -/
  loops : List (Nat × Nat × Nat) := []
  deriving DecidableEq, Repr

/-- One digest slot of a DGU (R419–R421). -/
structure DgSlot where
  opened : Bool := false
  tag : BitVec 32 := 0
  h : BitVec 128 := 0
  n : BitVec 64 := 0
  nelem : BitVec 64 := 0
  nnan : BitVec 32 := 0
  ninf : BitVec 32 := 0
  nzero : BitVec 32 := 0
  sum : BitVec 32 := 0
  sumsq : BitVec 32 := 0
  amax : Option (BitVec 32) := none
  mn : Option (BitVec 32) := none
  mx : Option (BitVec 32) := none
  deriving DecidableEq, Repr

/-- One program slot of a Blotter (R296): LEN, whether its second half has been executed, its micro-ops. LEN 0: empty. -/
structure UpSlot where
  len : Nat := 0
  half1 : Bool := false
  ops : List (BitVec 32) := []
  deriving DecidableEq, Repr

/-- A UPD in flight between commands (R303, R308, R309), with what it took of the unit's registers at its issue. -/
structure UpRun where
  w : BitVec 512
  prog : List (BitVec 32)
  k : Tab (BitVec 32)
  e0 : BitVec 62
  tid : BitVec 32
  xdelta : BitVec 48
  emBase : BitVec 36
  /-- Chunks of 64 elements that have entered the program, and the gradients read ahead for the chunks after them (R308). -/
  next : Nat
  grads : List (List (BitVec 32))
  /-- The time it parked at, while it is parked (R308). -/
  since : Option (BitVec 64)
  /-- Lines written, by view offset, whose write-back waits for the host link (R309). -/
  back : List (Nat × BitVec 512)
  deriving DecidableEq, Repr

/-- An update unit, Blotter (R293–R317). -/
structure Upu where
  /-- Program slots 0–3, constants K0–K15, E0, TID, XDELTA, EM_BASE (R293). -/
  slots : Tab UpSlot := []
  k : Tab (BitVec 32) := []
  e0 : BitVec 62 := 0
  tid : BitVec 32 := 0
  xdelta : BitVec 48 := 0
  emBase : BitVec 36 := 0
  /-- Operations in flight, oldest first. -/
  ops : List UpRun := []
  /-- OPEN and SEAL of the pass have issued; the slot is open; lines sent; a line was dropped in the pass (R310–R312). -/
  openIssued : Bool := false
  sealIssued : Bool := false
  opened : Bool := false
  emberLines : Nat := 0
  edrop : Bool := false
  /-- UP_STAT.EDROP. -/
  edropF : Bool := false
  deriving DecidableEq, Repr

/-- One tree (slab and shard) of a reduce-scatter at this member (R353–R355). -/
structure FlTree where
  /-- Lanes held: the node lane, then one for each partial in pass order. -/
  lanes : List Nat := []
  /-- Lines received of each partial, and the partials complete, by position in pass order. -/
  got : Tab Nat := []
  full : List Nat := []
  /-- Partials combined so far. -/
  combined : Nat := 0
  /-- The lane the receiver of this member's value has granted. -/
  grant : Option Nat := none
  /-- Time at which this member's value was ready to go. -/
  readyAt : Option Nat := none
  done : Bool := false
  deriving DecidableEq, Repr

/-- A Flue operation in flight (R347, R348). -/
structure FlOp where
  cg : Nat
  oseq : Nat
  word : BitVec 512
  /-- Queue and sequence number of a host-issued collective (R366). -/
  host : Option (Nat × Nat) := none
  /-- Bytes of a rank block, this Flue's first byte of each, and its bytes of each (R366). -/
  stride : Nat
  off : Nat := 0
  count : Nat
  /-- Lines of SRC read at issue. -/
  data : List (BitVec 512) := []
  /-- Reduce-scatter: trees by tree order, and the first that has not taken its lanes. -/
  trees : Tab FlTree := []
  next : Nat := 0
  /-- Packets with lines it has sent (R348). -/
  rtags : List (BitVec 32) := []
  /-- Lines received by source rank (or block), and the sources whose last packet has come. -/
  got : Tab Nat := []
  last : List Nat := []
  /-- Dispatch: counts by source, bases and kept rows by receiver, destinations and placements by entry; entries dispatched,
  dropped and with a bad index (R359–R362). -/
  counts : Tab (Option Nat) := []
  bases : Tab (Option (Nat × Nat)) := []
  idx : List Nat := []
  place : List Nat := []
  sent : Nat := 0
  drop : Nat := 0
  bad : Nat := 0
  /-- Side-band or vote: passes whose bit has come up, the OR so far, the value delivered (R356, R358). -/
  ups : List Nat := []
  bit : Bool := false
  flag : Option Bool := none
  /-- Nanoseconds its partials have waited for grants (R355, R413). -/
  grantNs : Nat := 0
  deriving DecidableEq, Repr

/-- A collective engine, Flue (R345–R368). -/
structure Cle where
  /-- Operation sequence numbers by CG (R347). -/
  oseq : Tab (BitVec 64) := []
  /-- Operations in flight, oldest first. -/
  ops : List FlOp := []
  /-- FL_STAT.SBLAST. -/
  sblast : Bool := false
  deriving DecidableEq, Repr

/-- What a voided stroke returns to: the state of S+0 (R430, R195, R284). -/
structure Snap where
  units : Tab Unit := []
  mxa : Tab Mxa := []
  brush : Tab Brush := []
  idx : Tab IdxRegs := []
  dgu : Tab DgSlot := []
  upu : Tab Upu := []
  cle : Tab Cle := []
  part : Tab Part := []
  staged : Tab Nat := []
  deriving DecidableEq, Repr

/-- The self-test result log (R466, R467): entries written, its 64 slots of 32 bytes, and the correctable errors of the last 24 h by
stack, row and time. -/
structure RLog where
  head : BitVec 32
  slots : Tab (BitVec 256)
  ces : List (Nat × BitVec 64 × BitVec 64)
  deriving DecidableEq, Repr

/-- The data path of the package. -/
structure Dp where
  mem : Mem
  log : Log
  irq : Irq
  fr : Fr
  /-- Every unit by its identifier (R26, R27). -/
  units : Tab Unit
  /-- Matrix arrays and Brushes by linear cluster index; TFE index registers by cluster; DGU slots at 4·cluster + slot. -/
  mxa : Tab Mxa
  brush : Tab Brush
  idx : Tab IdxRegs
  dgu : Tab DgSlot
  /-- Update units at 3·die + index, collective engines by die. -/
  upu : Tab Upu
  cle : Tab Cle
  /-- Contract and step state of partitions 0–3. -/
  part : Tab Part
  snap : Snap
  rlog : RLog
  /-- Lines sent and received by each edge end since the last read, by 2 · die + edge (R371, R381). -/
  edgeTx : Tab (BitVec 32)
  edgeRx : Tab (BitVec 32)
  deriving DecidableEq, Repr

end Sys2Proof.Machine
end

