-- ==== Sys2Proof/Syntax.lean ====
section
/-! DEFINITION. The commands the package takes, one constructor per row of the opcode table, and the shapes their operands have. -/

namespace Sys2Proof

/-- A packet: header slot and data lines (R327). -/
structure Packet where
  hdr : BitVec 512
  lines : List (BitVec 512)
  deriving DecidableEq, Repr

/-- A flit: control slot and the 32 data slots (R322). -/
structure Flit where
  ctl : BitVec 512
  slots : List (BitVec 512)
  deriving DecidableEq, Repr

/-- Host memory as the host left it before a command: a store of `len` bytes, or a line that reads as poison (R121, R130). -/
structure HostStore where
  addr : BitVec 64
  len : Nat
  data : Nat
  poison : Bool
  deriving DecidableEq, Repr

/-- What a patrol read finds in a line (R106). -/
inductive Found where
  | good | correctable | uncorrectable
  deriving DecidableEq, Repr

/-- An access that reaches a cluster from outside it (R218). -/
inductive Inbound where
  /-- A read of the line at the address. -/
  | read (addr : BitVec 48)
  /-- A write of the line at the address. -/
  | write (addr : BitVec 48) (line : BitVec 512)
  deriving DecidableEq, Repr

/-- Activity of one 2 µs interval (R385): for each region the counts of array cycles, array cycles of CLASS 3, tile instructions,
cluster line accesses and router line hops, and its arrays free of work; line hops of each die's fabric; HBM lines of each stack; and
the power measured at the input over the last 10 µs, W. -/
structure PowerObs where
  region : List (List Nat)
  free : List Nat
  fabric : List Nat
  hbm : List Nat
  meas : Nat
  deriving DecidableEq, Repr

/-- What a self-test found failing (R466): KIND, ADDR and BITS of a log entry. -/
structure Finding where
  kind : Fin 5
  addr : BitVec 64
  bits : BitVec 64
  deriving DecidableEq, Repr

/-- A PLDM firmware-update request (R454): begin a transfer of some length, bytes of the image at an offset, or cancel. -/
inductive FwOp where
  | begin_ (len : Nat)
  | data (off : Nat) (bytes : List Byte)
  | cancel
  deriving DecidableEq, Repr

/-- An IDE_KM request (R113): program a key of a stream, start or stop using the keys. -/
inductive IdeOp where
  | program (stream : Nat) (key : BitVec 256)
  | go
  | stop
  deriving DecidableEq, Repr

/-- An MCTP control request (R479). -/
inductive MctpOp where
  | setEid (eid : BitVec 8)
  | getEid
  | messageTypes
  | negotiateUnit (n : Nat)
  | other
  /-- A Thouri message whose CMD is reserved or is one only the PMC sends (R481). -/
  | reservedCmd (cmd : BitVec 8) (tag : BitVec 16)
  deriving DecidableEq, Repr

/-- What triggers a reset (R486): a RESET message with its payload, a pin, or VIN coming back. -/
inductive ResetSrc where
  | message (tag : BitVec 16) (pl : List Byte)
  | pin
  | vin
  deriving DecidableEq, Repr

/-- A read of a setup register: its offset, and whether it is the 64-bit read (R13, R36). -/
structure RegRead where
  off : BitVec 16
  wide : Bool
  deriving DecidableEq, Repr

/-- Ports that fail at one instant: the port named, and those with it (R339). -/
structure FailedPorts where
  port : Fin 24
  also : List (Fin 24)
  deriving DecidableEq, Repr

/-- How a failed port's retraining ended, and the asymmetry it measured, ps (R321, R342). -/
structure Retrained where
  good : Bool
  asym : BitVec 32
  deriving DecidableEq, Repr

/-- A port whose lanes have trained, and the asymmetry it measured, ps (R321, R343). -/
structure TrainedPort where
  port : Fin 24
  asym : BitVec 32
  deriving DecidableEq, Repr

/-- A slot at an edge end: the end 2 · die + edge, the module, and its place in the module's retry buffer (R370, R374). -/
structure EdgeSlot where
  e : Fin 8
  m : Fin 16
  k : Fin 64
  deriving DecidableEq, Repr

/-- What a slot arrives with: a CRC that is right, and the module's forwarded clock (R374). -/
structure SlotCheck where
  crcOk : Bool
  clkOk : Bool
  deriving DecidableEq, Repr

/-- CXL.cache and CXL.mem enabled (R114). -/
structure CxlEnables where
  cache : Bool
  mem : Bool
  deriving DecidableEq, Repr

/-- Message control of the MSI-X capability (R145). -/
structure MsixControl where
  enable : Bool
  fmask : Bool
  deriving DecidableEq, Repr

/-- The commands. -/

inductive Instr where
  /-- TIME_BASE_START (R34): When the reference clock becomes stable after power-on reset, the time base starts counting from 0. -/
  | timeBaseStart
  /-- TB_LO_READ (R36): A 32-bit read of TB_LO latches the upper half of the time base into TB_HI. -/
  | tbLoRead (wide : Bool)
  /-- READ_CLEAR_REGISTER (R13): A read of an RC register returns its value and then clears it, for the current selection only where a selection applies. -/
  | readClearRegister (a : RegRead)
  /-- REGISTER_WRITE (R13): A write to a setup-space register that has no row of its own takes effect by its access type (RW, W1C, WO), or is ignored and sets CFGREJ where the owning rule says so. -/
  | registerWrite (off : BitVec 16) (v : BitVec 32)
  /-- TIME_SYMBOL_SEND (R325): Every 1,024 ns each port inserts a TIME control symbol ahead of data in the next flit. -/
  | timeSymbolSend (p : Fin 24)
  /-- TIME_SYMBOL_RECEIVE (R36): A received time mark gives the round trip to the parent, and the package trims its time-base rate toward the parent's time. -/
  | timeSymbolReceive (p : Fin 24) (txT echoT : BitVec 64) (holdPs : BitVec 32)
  /-- HOLDOVER_TIMEOUT (R38): After 10 ms in HOLDOVER the package enters FAULT and reports a time fault. -/
  | holdoverTimeout
  /-- POD_OFFSET_MEASURE (R41): Every 1 ms a package with an inter-pod link measures the neighbour pod's offset, publishes it in POD_SKEW and writes a PODOFS record. -/
  | podOffsetMeasure (p : Fin 24) (skew : BitVec 32)
  /-- UNIT_DONE (R97): A unit reports done for the stroke once its stream has finished and its writes are performed; when all units and children are in, the package sends its merged done marker. -/
  | unitDone (u : BitVec 16) (cause : BitVec 6)
  /-- DONE_MARKER_RECEIVE (R53): A DONE control symbol from a child is merged; at the root, once done has arrived from every child, the start time T is computed and go is sent. -/
  | doneMarkerReceive (p : Fin 24) (m : BitVec 128)
  /-- GO_MARKER_RECEIVE (R54): A GO symbol is checked, forwarded to the children and scheduled for T; a corrupt marker is retried and a repeated one is ignored. -/
  | goMarkerReceive (p : Fin 24) (m : BitVec 128)
  /-- STROKE_START (R50): When the time base reaches T, every unit starts the stroke, and the period, stretch, frequency and per-stroke state take effect. -/
  | strokeStart
  /-- STROKE_CFG (R46): A management message sets the stroke period and close window from a named stroke; it is refused with BUSY while a script is launched. -/
  | strokeCfg (tag : BitVec 16) (pl : List Byte)
  /-- HOST_MEM_READ (R100): A host CXL.mem read returns a whole line; an uncorrectable error returns poison without voiding the stroke. -/
  | hostMemRead (a : BitVec 48)
  /-- HOST_MEM_WRITE (R82): A host CXL.mem write is performed, and a write into the tracked set of a launch is counted and clears COVERED. -/
  | hostMemWrite (a : BitVec 48) (v : BitVec 512) (be : BitVec 64)
  /-- HDM_COMMIT (R116): A commit of the HDM decoder maps the host window, or fails with Error Not Committed. -/
  | hdmCommit (skip size : BitVec 64)
  /-- ADD_WRITE (R99): The HBM controller indivisibly reads the target line, adds the widened addends and writes the line back. -/
  | addWrite (u : BitVec 16) (fmt : Fin 3) (a : BitVec 64) (v : BitVec 512)
  /-- PATROL_READ (R106): A patrol read in an idle controller cycle checks a line, so that every line is read once per 24 h. -/
  | patrolRead (j : Fin 12) (o : BitVec 36) (f : Found)
  /-- DOORBELL_SNOOP (R115): A snoop of a doorbell line makes the device re-read it and begin fetching descriptors within 2 µs. -/
  | doorbellSnoop (q : Fin 81) (st : List HostStore)
  /-- DOORBELL_POLL (R115): Every 100 µs the device re-reads the doorbell line of every enabled queue. -/
  | doorbellPoll (st : List HostStore)
  /-- DESCRIPTOR_FETCH (R122): A fetched descriptor is queued in ring order and started when its ordering conditions allow. -/
  | descriptorFetch (q : Fin 81)
  /-- NOP_DESCRIPTOR (R124): A NOP descriptor completes with no effect. -/
  | nopDescriptor (q : Fin 81) (seq : Nat)
  /-- FENCE_DESCRIPTOR (R126): FENCE starts once its own queue and queue WQ have completed the required descriptors. -/
  | fenceDescriptor (q : Fin 81) (seq : Nat)
  /-- BARRIER (R127): BARRIER joins a rendezvous under BID, and all participants complete together once every one has started. -/
  | barrier (q : Fin 81) (seq : Nat)
  /-- SIGNAL (R128): SIGNAL writes DATA to HOST_ADDR at HOST scope once earlier descriptors have completed. -/
  | signal (q : Fin 81) (seq : Nat)
  /-- COPY_IN (R129): COPY_IN checks its arguments and moves bytes from host memory into package memory. -/
  | copyIn (q : Fin 81) (seq : Nat)
  /-- COPY_OUT (R129): COPY_OUT moves bytes from package memory to host memory, poisoning lines that hold uncorrectable errors. -/
  | copyOut (q : Fin 81) (seq : Nat)
  /-- FILL (R129): FILL writes a 64-bit pattern over a range of package memory. -/
  | fill (q : Fin 81) (seq : Nat)
  /-- LOAD_SCRIPT (R160): LOAD_SCRIPT reads and checks a script image and replaces the slot content in one step, or refuses it. -/
  | loadScript (q : Fin 81) (seq : Nat)
  /-- LAUNCH (R131): LAUNCH checks the launch, sets the seed, step and contract state, and starts the script at its START stroke. -/
  | launch (q : Fin 81) (seq : Nat)
  /-- ZERO_FILL_DONE (R164): Completion of zero-fill clearing lets the units of the first stroke begin. -/
  | zeroFillDone (p : Fin 4)
  /-- STOP (R132): STOP ends the partition's launch at the next step close (MODE 0) or at the next stroke boundary (MODE 1). -/
  | stop (q : Fin 81) (seq : Nat)
  /-- CG_OPEN (R133): CG_OPEN binds a communication queue to its CG after checking the placement size. -/
  | cgOpen (q : Fin 81) (seq : Nat)
  /-- CG_CLOSE (R133): CG_CLOSE unbinds the CG and ends any COLLECTIVE in flight on it. -/
  | cgClose (q : Fin 81) (seq : Nat)
  /-- COLLECTIVE (R134): COLLECTIVE runs a host-issued operation on all four Flues once no launch runs on the package. -/
  | collective (q : Fin 81) (seq : Nat)
  /-- QUEUE_CTL (R135): QUEUE_CTL requests the enabling or disabling of a queue at the next stroke boundary. -/
  | queueCtl (q : Fin 81) (seq : Nat)
  /-- QUEUE_CTL_APPLY (R141): At the boundary the queue disable or enable takes effect, fetched descriptors complete DISABLED and rendezvous are abandoned. -/
  | queueCtlApply
  /-- ENGINE_CTL (R135): ENGINE_CTL requests the enabling or disabling of a unit at the next stroke boundary. -/
  | engineCtl (q : Fin 81) (seq : Nat)
  /-- ENGINE_CTL_APPLY (R142): At the boundary the unit is fenced and power-gated, or deferred until its launch ends. -/
  | engineCtlApply
  /-- PART_SET (R136): PART_SET defines or deletes a partition's dies and compute queues. -/
  | partSet (q : Fin 81) (seq : Nat)
  /-- WAKE_LAT (R137): WAKE_LAT sets a partition's tolerable wake latency and returns the deepest permitted state. -/
  | wakeLat (q : Fin 81) (seq : Nat)
  /-- COMPLETION_WRITE (R138): A completion record is written when ring space is free, held until CQ_HEAD releases a slot otherwise. -/
  | completionWrite (q : Fin 81)
  /-- MSIX_HOLDOFF_EXPIRY (R140): When HOLDOFF_US has passed, the waiting requests for a vector fire as one message. -/
  | msixHoldoffExpiry (v : Fin 84)
  /-- MQRESUME (R120): Writing 1 to HP_CTL.MQRESUME clears the management queue's error bits and restarts its fetching. -/
  | mqresume
  /-- QRESET (R143): Writing 1 to HP_CTL.QRESET clears EN on every queue and discards fetched descriptors, unless a script is launched. -/
  | qreset
  /-- QUEUE_ENABLE (R144): Setting QCFG.EN enables a queue, or is refused with BADCFG or CFGREJ. -/
  | queueEnable (q : Fin 81) (cfg : BitVec 32)
  /-- VIRAL (R117): A viral indication voids the stroke, sets HP_STAT.VIRAL and reports a host-link fault. -/
  | viral
  /-- HOST_LINK_DOWN_TIMEOUT (R117): After the host link has been down for 100 ms, the device reports a host-link fault. -/
  | hostLinkDownTimeout
  /-- PERST_N (R487): PERST_N resets the CXL link, configuration space, HDM decoder and IDE keys only. -/
  | perstN (asserted : Bool)
  /-- SEGMENT_FETCH_DONE (R152): Completion of a late segment fetch lets the unit start its segment. -/
  | segmentFetchDone (u : BitVec 16)
  /-- NOP (R177): A unit NOP instruction, or a final fragment, executes with no effect. -/
  | nop (u : BitVec 16) (w : BitVec 512)
  /-- WAIT (R181): WAIT blocks dispatch until a credit counter holds COUNT, then subtracts it. -/
  | wait (u : BitVec 16) (w : BitVec 512)
  /-- CREDIT_ARRIVAL (R180): A credit adds to a unit's counter, saturating, and may satisfy a blocked WAIT. -/
  | creditArrival (u : BitVec 16) (ctr : Fin 16) (n : BitVec 16) (src : BitVec 16)
  /-- POST (R182): POST adds COUNT to a counter of a unit of the same cluster once earlier work is performed. -/
  | post (u : BitVec 16) (w : BitVec 512)
  /-- FENCE (R98): A unit FENCE orders the unit's earlier writes at the named scope before its later writes. -/
  | fence (u : BitVec 16) (w : BitVec 512)
  /-- LOADW (R184): LOADW loads a stationary block into one of the array's two buffers. -/
  | loadw (c : Fin 512) (w : BitVec 128)
  /-- MMA (R185): MMA streams a command over a stationary buffer and writes or accumulates result rows. -/
  | mma (c : Fin 512) (w : BitVec 128)
  /-- ABCAST (R186): ABCAST copies one accumulator row into a range of rows. -/
  | abcast (c : Fin 512) (w : BitVec 128)
  /-- CNTST (R187): CNTST writes the array's NAN, INF and ILL counters to an SRAM line. -/
  | cntst (c : Fin 512) (w : BitVec 128)
  /-- COPY (R224): A Slant COPY moves rows of lines between reachable addresses. -/
  | copy (c : Fin 512) (ch : Fin 8) (w : BitVec 256)
  /-- SKEW (R229): SKEW writes skewed feed words or scale words into the cluster's SRAM. -/
  | skew (c : Fin 512) (ch : Fin 8) (w : BitVec 256)
  /-- FILL_LINES (R225): A Slant FILL writes a pattern to every aligned 8 bytes of each destination row. -/
  | fillLines (c : Fin 512) (ch : Fin 8) (w : BitVec 256)
  /-- ADDW (R226): ADDW sends source lines as add-writes into the accumulation area. -/
  | addw (c : Fin 512) (ch : Fin 8) (w : BitVec 256)
  /-- PUT (R227): PUT sends lines to a cluster of the package that holds a rank of a CG. -/
  | put (c : Fin 512) (ch : Fin 8) (w : BitVec 256)
  /-- PUT_RECEIVE (R227): A received PUT packet has its lines checked against the receiving channel's windows for the carried entry, and they are performed or suppressed. -/
  | putReceive (k : Packet) (ch : Fin 8)
  /-- INBOUND_ACCESS (R218): An access arriving from outside a cluster is performed by the receiving Slant channel under its claims and windows. -/
  | inboundAccess (c : Fin 512) (ch : Fin 8) (src : BitVec 16) (acc : Inbound)
  /-- STALLED_UNIT_TIMEOUT (R227): A unit that has waited 100 ms for an acknowledgement, a staging block or a Flue exchange is reported as a stalled-unit fault. -/
  | stalledUnitTimeout (u : BitVec 16)
  /-- TRANS (R236): TRANS transposes elements bit for bit within the cluster. -/
  | trans (c : Fin 512) (w : BitVec 256)
  /-- CONV (R237): CONV converts elements between formats under CVC. -/
  | conv (c : Fin 512) (w : BitVec 256)
  /-- QMX (R238): QMX quantises rows into an MX element format with block scales. -/
  | qmx (c : Fin 512) (w : BitVec 256)
  /-- TFE_IDX (R235): The TFE's IDX loads E0, ES and TID for later conversions. -/
  | tfeIdx (c : Fin 512) (w : BitVec 256)
  /-- SETVL (R249): SETVL sets Brush's present vector length and, optionally, its fill value. -/
  | setvl (c : Fin 512) (w : BitVec 64)
  /-- SETX (R253): SETX writes an immediate into a scalar register. -/
  | setx (c : Fin 512) (w : BitVec 64)
  /-- ADDX (R253): ADDX adds a signed immediate to a scalar register. -/
  | addx (c : Fin 512) (w : BitVec 64)
  /-- TVE_IDX (R253): Brush's IDX loads E0, ES and TID from scalar registers. -/
  | tveIdx (c : Fin 512) (w : BitVec 64)
  /-- LOOP (R254): LOOP repeats the following BODY instructions COUNT times. -/
  | loop (c : Fin 512) (w : BitVec 64)
  /-- LD (R256): LD loads a tile's active rows from SRAM or the accumulator bank. -/
  | ld (c : Fin 512) (w : BitVec 64)
  /-- ST (R257): ST writes a tile's active lanes to memory, converting under CVC. -/
  | st (c : Fin 512) (w : BitVec 64)
  /-- FOP (R259): FOP performs FP32 lane arithmetic. -/
  | fop (c : Fin 512) (w : BitVec 64)
  /-- FUN (R263): FUN applies a special function to each active lane. -/
  | fun_ (c : Fin 512) (w : BitVec 64)
  /-- CMP (R260): CMP writes a comparison mask per lane. -/
  | cmp (c : Fin 512) (w : BitVec 64)
  /-- SEL (R260): SEL selects between two tiles by a mask. -/
  | sel (c : Fin 512) (w : BitVec 64)
  /-- IOP (R260): IOP performs 32-bit integer lane operations. -/
  | iop (c : Fin 512) (w : BitVec 64)
  /-- MOVI (R260): MOVI writes an immediate or a lane index into each active lane. -/
  | movi (c : Fin 512) (w : BitVec 64)
  /-- CVT (R261): CVT converts lanes in register under CVC. -/
  | cvt (c : Fin 512) (w : BitVec 64)
  /-- RED (R267): RED reduces each group of lanes through the canonical tree. -/
  | red (c : Fin 512) (w : BitVec 64)
  /-- PERM (R265): PERM writes each lane from a source lane named by an index tile. -/
  | perm (c : Fin 512) (w : BitVec 64)
  /-- PFIX (R266): PFIX applies a fixed permutation to the lanes. -/
  | pfix (c : Fin 512) (w : BitVec 64)
  /-- RAND (R262): RAND writes each lane's counter-generator word. -/
  | rand (c : Fin 512) (w : BitVec 64)
  /-- STEP_CLOSE (R272): At the end of the last body entry, the device applies the loss-scale rule, advances s, clears the blot flag and gate, writes the step line and may end the launch. -/
  | stepClose (p : Fin 4)
  /-- PROG (R296): PROG loads half of a Blotter program slot. -/
  | prog (j : Fin 12) (w : BitVec 512)
  /-- CLD (R299): CLD loads Blotter constants from a line, optionally indexed by step. -/
  | cld (j : Fin 12) (w : BitVec 512)
  /-- ARGS (R300): ARGS sets E0, TID, XDELTA and EM_BASE. -/
  | args (j : Fin 12) (w : BitVec 512)
  /-- UPD (R302): UPD runs the element program and writes master, moment and working copy, or only takes its gradient under a SET gate. -/
  | upd (j : Fin 12) (w : BitVec 512)
  /-- STAT (R304): STAT runs the program and writes row and column sums of register 6. -/
  | stat (j : Fin 12) (w : BitVec 512)
  /-- TAKE (R301): TAKE reads accumulation-area lines and leaves zeros in them. -/
  | take (j : Fin 12) (w : BitVec 512)
  /-- OPEN (R312): OPEN sends a zero seal line to the current ember slot. -/
  | open_ (j : Fin 12) (w : BitVec 512)
  /-- SEAL (R312): SEAL waits for every ember line of the pass to be acknowledged and then sends the seal line. -/
  | seal (j : Fin 12) (w : BitVec 512)
  /-- STAGING_BLOCK_RESIDENT (R307): A staging block whose count reaches 16,384 becomes resident and releases a parked operation. -/
  | stagingBlockResident (j : Fin 12) (blk : Nat)
  /-- EMBER_RECEIVE (R311): A received EMBER packet is written into the ember region, or dropped when it is not from the SRCDIR neighbour. -/
  | emberReceive (k : Packet)
  /-- TALLY_RECEIVE (R432): A received tally packet is stored in the always-on domain and replaces the old tally once complete. -/
  | tallyReceive (k : Packet)
  /-- FLIT_RECEIVE (R324): A received flit is checked and its slots are delivered, or it is discarded with a NAK. -/
  | flitReceive (p : Fin 24) (fecOk : Bool) (fixed : Nat) (f : Flit)
  /-- NAK_RECEIVE (R324): A NAK makes the sender replay from ACK + 1. -/
  | nakReceive (p : Fin 24) (ack : BitVec 12)
  /-- PACKET_RECEIVE (R334): A complete packet is routed, forwarded, delivered or dropped. -/
  | packetReceive (p : Fin 24)
  /-- ACK_RECEIVE (R328): An ACK packet completes performance at POD scope for a PUT or EMBER packet and may release a credit. -/
  | ackReceive (k : Packet)
  /-- CREDIT_PACKET_RECEIVE (R328): A CREDIT packet adds a credit to the named unit's counter. -/
  | creditPacketReceive (k : Packet)
  /-- IDENT_SEND (R325): Every 1 ms each port sends an IDENT symbol. -/
  | identSend (p : Fin 24)
  /-- IDENT_RECEIVE (R319): A received IDENT is compared with the expected neighbour. -/
  | identReceive (p : Fin 24) (pod : BitVec 8) (pkg : BitVec 12) (far : BitVec 8)
  /-- PORT_FAIL (R339): A failure condition on a LIVE port makes it FAILED, writes a record and reports a link fault. -/
  | portFail (x : FailedPorts) (cond : Fin 5)
  /-- PORT_RETRAIN (R342): Every 100 ms a FAILED port retrains, and on success returns to LIVE at the next boundary. -/
  | portRetrain (p : Fin 24) (r : Retrained)
  /-- WAKE_SYMBOL (R343): A WAKE symbol returns a LOCK port to LIVE within 20 µs. -/
  | wakeSymbol (p : Fin 24)
  /-- COLD_SYMBOL (R343): A COLD symbol lets the port enter DOWN rather than FAILED when the far end stops. -/
  | coldSymbol (p : Fin 24)
  /-- PLACE (R336): A placement sets coordinates, neighbours, roles, ember directions, CGs and remaps, or is refused. -/
  | place (tag : BitVec 16) (pl : List Byte)
  /-- ROUTE_WR (R335): ROUTE_WR writes bytes into a routing table's shadow bank. -/
  | routeWr (tag : BitVec 16) (pl : List Byte)
  /-- REMAP_WR (R338): REMAP_WR writes one remap entry to its shadow. -/
  | remapWr (tag : BitVec 16) (pl : List Byte)
  /-- COMMIT (R335): COMMIT schedules the routing or remap bank swap for a named stroke, or is refused with BUSY. -/
  | commit (tag : BitVec 16) (pl : List Byte)
  /-- ROUTING_BANK_SWAP (R335): At S+0 of the committed stroke, the active and shadow banks swap. -/
  | routingBankSwap
  /-- TREE (R441): A TREE message changes the time role, parent and hops, and the package resends its latest done marker to its new parent. -/
  | tree (tag : BitVec 16) (pl : List Byte)
  /-- AG (R357): AG all-gathers each rank's block to every member. -/
  | ag (d : Fin 4) (w : BitVec 512)
  /-- RS (R352): RS reduce-scatters shards through the canonical tree to their owners. -/
  | rs (d : Fin 4) (w : BitVec 512)
  /-- BCAST (R357): BCAST writes the root's block to every member. -/
  | bcast (d : Fin 4) (w : BitVec 512)
  /-- A2A (R359): A2A dispatches tokens to ranks with a fixed capacity per source. -/
  | a2a (d : Fin 4) (w : BitVec 512)
  /-- A2AV (R360): A2AV exchanges counts first and then dispatches tokens into sized receive rows. -/
  | a2av (d : Fin 4) (w : BitVec 512)
  /-- A2AR (R361): A2AR returns processed rows to the members that sent them. -/
  | a2ar (d : Fin 4) (w : BitVec 512)
  /-- VOTE (R358): VOTE exchanges each member's blot bit and delivers the OR to the gate. -/
  | vote (d : Fin 4) (w : BitVec 512)
  /-- GRANT_PACKET (R355): A received GRANT lets the sender send its partial into the named lane. -/
  | grantPacket (d : Fin 4) (k : Packet)
  /-- PART_PACKET (R355): A received partial is held in its lane and combined in pass order. -/
  | partPacket (d : Fin 4) (k : Packet)
  /-- BLOCK_PACKET (R357): A received BLOCK packet is written into DST for an all-gather or broadcast. -/
  | blockPacket (d : Fin 4) (k : Packet)
  /-- ROW_PACKET (R359): A received ROW packet is written into a receive row of a dispatch or return. -/
  | rowPacket (d : Fin 4) (k : Packet)
  /-- COUNTS_PACKET (R360): A received COUNTS packet gives a source's count, from which the receiver computes base and kept. -/
  | countsPacket (d : Fin 4) (k : Packet)
  /-- BASES_PACKET (R360): A received BASES packet gives the sender its base and kept rows for a receiver. -/
  | basesPacket (d : Fin 4) (k : Packet)
  /-- FLAG_PACKET (R356): A received FLAG packet advances the up-then-down side-band or vote exchange. -/
  | flagPacket (d : Fin 4) (k : Packet)
  /-- FLUE_OP_COMPLETE (R348): A Flue operation completes once its lines are performed, its packets acknowledged and its side-band delivered, and it sends its credit. -/
  | flueOpComplete (d : Fin 4) (cg : Fin 64) (oseq : BitVec 64)
  /-- EDGE_SLOT_RECEIVE (R374): An edge slot with a CRC error is rejected and replayed. -/
  | edgeSlotReceive (a : EdgeSlot) (r : SlotCheck)
  /-- EDGE_TRAINING_DONE (R376): An edge finishes training, and it goes LIVE only when both training words match with 16 modules. -/
  | edgeTrainingDone (p : Fin 4) (w0 w1 : BitVec 32)
  /-- FORCED_RESET (R377): After an edge training failure, the package performs a full package reset and may enter DEFECT. -/
  | forcedReset
  /-- DIE_CLOCK_LOSS (R379): A die clock loss or edge fault voids the stroke, fences the package and reports a package fault. -/
  | dieClockLoss (d : Fin 4)
  /-- POWER_ESTIMATE (R385): Every 2 µs the Damper estimates power, applies the envelope and clamp, sets filler and charges energy counters. -/
  | powerEstimate (o : PowerObs)
  /-- COEFFICIENT_TRIM (R386): Every 100 ms the Damper scales its coefficients by the measured-to-estimated energy ratio. -/
  | coefficientTrim (uj : Nat)
  /-- FORECAST (R394): The PMC sends a power-forecast message every 64 strokes and when P or the stretch changes. -/
  | forecast
  /-- DROOP_RESPONSE (R396): A supply below target stretches the region's clock and records the droop. -/
  | droopResponse (r : Fin 64) (below : Nat)
  /-- THERMAL_SAMPLE (R397): Every 2 µs the junction sensors steer the budget and may start an emergency. -/
  | thermalSample (tj : List Nat) (coolant : Nat)
  /-- IDLE_GLOW_ENTRY (R400): After 10 µs idle, a partition enters Glow. -/
  | idleGlowEntry (p : Fin 4)
  /-- IDLE_BANKED_ENTRY (R400): After a further 1 ms idle, a partition enters Banked. -/
  | idleBankedEntry (p : Fin 4)
  /-- COLD_ENTRY (R400): After 100 ms Banked with consent, the package enters Cold. -/
  | coldEntry
  /-- WAKE_COMPLETE (R401): A woken partition becomes Lit after its state's wake time. -/
  | wakeComplete (p : Fin 4)
  /-- POWER_CFG (R481): POWER_CFG sets the cap, ramp, floor, Cold consent and self-test budget. -/
  | powerCfg (tag : BitVec 16) (pl : List Byte)
  /-- RATE_BUCKET_END (R409): At the end of each 1 ms bucket, RATESUM records are written for codes that were suppressed. -/
  | rateBucketEnd
  /-- EV_HACK (R411): A write to EV_HACK acknowledges the held record with that SEQ and frees its slot. -/
  | evHack (v : BitVec 32)
  /-- EV_IRQ_SPACING (R412): At the end of its 100 µs spacing, vector 82 fires for the conditions that arose within it. -/
  | evIrqSpacing
  /-- TR_SEL (R416): A write to TR_SEL snapshots the named unit's trace ring. -/
  | trSel (v : BitVec 32)
  /-- TRACE_FREEZE (R416): Setting TR_CTL.FREEZE freezes every ring and spill stream and writes TRFREEZE. -/
  | traceFreeze
  /-- TRACE_RESUME (R416): Writing 1 to TR_STAT.AUTO with FREEZE clear resumes the rings. -/
  | traceResume
  /-- SPILL_PAD (R417): An event that has waited 1 µs for a partner is padded and written to the inkwell area. -/
  | spillPad (j : Fin 12)
  /-- DOPEN (R420): DOPEN opens or restarts a digest slot. -/
  | dopen (c : Fin 512) (w : BitVec 256)
  /-- DFEED (R420): DFEED feeds lines into a digest's hash and statistics. -/
  | dfeed (c : Fin 512) (w : BitVec 256)
  /-- DCLOSE (R421): DCLOSE writes the digest line, closes the slot and may send a DIGEST record. -/
  | dclose (c : Fin 512) (w : BitVec 256)
  /-- REPLAY (R430): A replayable voided stroke is run again on the voiding package alone. -/
  | replay
  /-- RECOVER (R435): RECOVER holds the launch, restores, zeroes and regenerates state, and resumes at the named stroke. -/
  | recover (tag : BitVec 16) (pl : List Byte)
  /-- RECOV_RD_RECEIVE (R436): A holder answers a RECOV_RD with RECOV_DATA lines of the slot or tally. -/
  | recovRdReceive (k : Packet)
  /-- RECOV_DATA_RECEIVE (R436): A received RECOV_DATA line is written to the local view or the slow tier. -/
  | recovDataReceive (k : Packet)
  /-- SEAL_READ (R481): SEAL_READ returns a held seal line or tally lines. -/
  | sealRead (tag : BitVec 16) (pl : List Byte)
  /-- HOLD_READ (R481): HOLD_READ returns up to 16 held records. -/
  | holdRead (tag : BitVec 16) (pl : List Byte)
  /-- HOLD_ACK (R481): HOLD_ACK acknowledges a held record, as a write to EV_HACK does. -/
  | holdAck (tag : BitVec 16) (pl : List Byte)
  /-- STATUS (R481): STATUS returns the package's status words. -/
  | status (tag : BitVec 16) (pl : List Byte)
  /-- MCTP_CONTROL (R479): An MCTP control message, such as Set Endpoint ID, is answered. -/
  | mctpControl (op : MctpOp)
  /-- LIFECYCLE_NONCE (R449): LIFECYCLE byte 0 = 0 fetches a one-use nonce. -/
  | lifecycleNonce (tag : BitVec 16)
  /-- LIFECYCLE_TRANSITION (R447): A transition request with a token is checked and becomes pending, or is refused. -/
  | lifecycleTransition (tag : BitVec 16) (pl : List Byte)
  /-- KEY_REVOKE (R455): A signed revoke message revokes a key slot. -/
  | keyRevoke (tag : BitVec 16) (pl : List Byte)
  /-- INSPECT_EXIT (R447): A request returns the package from INSPECT to FIELD. -/
  | inspectExit (tag : BitVec 16)
  /-- PROVISION (R447): PROVISION moves TEST to FIELD and generates the identity key. -/
  | provision (tag : BitVec 16) (pl : List Byte)
  /-- FIRMWARE_TRANSFER_COMPLETE (R454): Completion of a PLDM image transfer checks the image in the inactive bank. -/
  | firmwareTransferComplete
  /-- FIRMWARE_ACTIVATE (R454): Activation marks the checked bank active for the next reset. -/
  | firmwareActivate
  /-- GET_VERSION (R456): SPDM GET_VERSION is answered. -/
  | getVersion
  /-- GET_CAPABILITIES (R456): SPDM GET_CAPABILITIES is answered. -/
  | getCapabilities (version : Nat)
  /-- NEGOTIATE_ALGORITHMS (R456): SPDM NEGOTIATE_ALGORITHMS is answered. -/
  | negotiateAlgorithms
  /-- GET_DIGESTS (R456): SPDM GET_DIGESTS is answered. -/
  | getDigests
  /-- GET_CERTIFICATE (R456): SPDM GET_CERTIFICATE returns the slot 0 chain. -/
  | getCertificate (slot off len : Nat)
  /-- CHALLENGE (R456): SPDM CHALLENGE is answered, or refused where no identity key exists. -/
  | challenge (slot : Nat)
  /-- GET_MEASUREMENTS (R457): SPDM GET_MEASUREMENTS returns the fixed measurement indices. -/
  | getMeasurements (index : Nat) (signed : Bool)
  /-- KEY_EXCHANGE (R456): SPDM KEY_EXCHANGE starts a session. -/
  | keyExchange (doe : Bool)
  /-- FINISH (R456): SPDM FINISH completes session setup. -/
  | finish (session : Nat)
  /-- KEY_UPDATE (R456): SPDM KEY_UPDATE updates session keys. -/
  | keyUpdate (session : Nat)
  /-- HEARTBEAT (R456): SPDM HEARTBEAT keeps a session alive. -/
  | heartbeat (session : Nat)
  /-- END_SESSION (R456): SPDM END_SESSION ends a session. -/
  | endSession (session : Nat)
  /-- CHUNK_GET (R456): SPDM CHUNK_GET returns a chunk of a large response. -/
  | chunkGet (n : Nat)
  /-- LOGIC (R458): SELFTEST LOGIC tests a region's logic, under isolation. -/
  | logic (q : Fin 81) (seq : Nat)
  /-- SCANDUMP (R458): SELFTEST SCANDUMP shifts out a region's scan chains and logs differing flops. -/
  | scandump (q : Fin 81) (seq : Nat)
  /-- SRAM_T (R458): SELFTEST SRAM_T runs a transparent march on a region's SRAM. -/
  | sramT (q : Fin 81) (seq : Nat)
  /-- SRAM_M (R458): SELFTEST SRAM_M runs a destructive full march on a region. -/
  | sramM (q : Fin 81) (seq : Nat)
  /-- HBM_MARCH (R458): SELFTEST HBM_MARCH tests a whole stack destructively. -/
  | hbmMarch (q : Fin 81) (seq : Nat)
  /-- HBM_ROW (R458): SELFTEST HBM_ROW tests the rows of a stack's open log entries. -/
  | hbmRow (q : Fin 81) (seq : Nat)
  /-- PORT_LOOP (R458): SELFTEST PORT_LOOP tests a torus port that is not live. -/
  | portLoop (q : Fin 81) (seq : Nat)
  /-- REPAIR (R468): SELFTEST REPAIR repairs the target's open log entries with spares. -/
  | repair (q : Fin 81) (seq : Nat)
  /-- SELFTEST_PASS (R461): In a service stroke naming the region, a test pass powers up, works and returns to retention. -/
  | selftestPass (r : Fin 64)
  /-- SELFTEST_END (R464): When a test ends, the block is re-initialised and SELFTEST completes with its result. -/
  | selftestEnd (u : BitVec 16) (found : List Finding)
  /-- VIN_EXCURSION (R472): A VIN outside the operating window sets VIN_LO or VIN_HI, or becomes input loss. -/
  | vinExcursion (v i : BitVec 16) (us : Nat)
  /-- OVERCURRENT_TRIP (R473): Input current beyond the protection limits trips the hot-swap controller. -/
  | overcurrentTrip (i : BitVec 16) (us : Nat)
  /-- INPUT_LOSS (R474): On input loss the PMC sends POWER_LOSS during hold-up, and then the package goes dark. -/
  | inputLoss (v : BitVec 16)
  /-- PWR_EN (R485): Asserting PWR_EN raises the rails and starts training toward READY. -/
  | pwrEn
  /-- BRINGUP_READY (R485): When training completes, the CAPT becomes valid and PGOOD rises. -/
  | bringupReady
  /-- REFERENCE_LOSS (R478): A reference stopped for 1 µs is a clock loss on every die; the time base falls back to an internal oscillator. -/
  | referenceLoss
  /-- THERMAL_CUT (R488): A junction at 125 °C makes the carrier remove the main rails. -/
  | thermalCut
  /-- POWER_ON_RESET (R486): A VIN cycle, FULL_RST_N, or RESET byte 1 resets the dies and the always-on domain. -/
  | powerOnReset (src : ResetSrc) (slot : BitVec 6)
  /-- PACKAGE_RESET (R486): PKG_RST_N or RESET byte 0 resets the dies and keeps the always-on domain. -/
  | packageReset (src : ResetSrc) (slot : BitVec 6)
  /-- REENABLE (R380): RESET byte 2 re-enables a package from DEFECT or from a fence through a package reset. -/
  | reenable (tag : BitVec 16) (pl : List Byte) (slot : BitVec 6)
  /-- SENSOR_UPDATE (R484): Every 100 ms the PMC updates its PLDM sensors and sends events for threshold crossings. -/
  | sensorUpdate (power current ce : Nat)
  /-- PORT_TRAINING_DONE (R321): A torus port finishes lane training and goes LIVE, after placement, after a wake from Cold, or when the far end begins training again after COLD. -/
  | portTrainingDone (x : TrainedPort)
  /-- HOST_LINK_DOWN (R117): The CXL link leaves L0 outside a power state; HP_ERR.LINK_DOWN is set, vector 81 fires, and completions and external traffic wait. -/
  | hostLinkDown
  /-- HOST_LINK_UP (R117): The CXL link trains back to L0, HP_STAT speed and width are set, and waiting completions and external traffic resume. -/
  | hostLinkUp (speed width : BitVec 8)
  /-- IDE_INTEGRITY_FAIL (R143): The CXL IDE integrity check fails, which sets HP_ERR.IDE_FAIL and fires vector 81. -/
  | ideIntegrityFail
  /-- CXL_CONFIG_WRITE (R114): The host enables CXL.cache or CXL.mem in configuration space, which sets CACHE_EN or MEM_EN and can make HP_STAT.QREADY 1. -/
  | cxlConfigWrite (cxl : CxlEnables) (msix : MsixControl)
  /-- IDE_KM_REQUEST (R113): An IDE_KM message inside an SPDM session on the DOE mailbox programs or activates CXL IDE keys. -/
  | ideKmRequest (session : Nat) (op : IdeOp)
  /-- PLDM_FIRMWARE_UPDATE (R454): PLDM firmware-update commands and data from the management controller begin and carry the image transfer into the inactive bank. -/
  | pldmFirmwareUpdate (op : FwOp)
  /-- I3C_DYNAMIC_ADDRESS (R479): SETDASA or ENTDAA on the I3C bus assigns the PMC its dynamic address. -/
  | i3cDynamicAddress (addr : BitVec 7)
  /-- DROOP_END (R396): A region's supply returns within its target band, so the clock period returns toward nominal and a DROOPEND record with the stretched cycles is written. -/
  | droopEnd (r : Fin 64) (cycles : Nat)
  /-- PWR_EN_DEASSERTED (R485): The controller drives PWR_EN low, the main rails fall and the package goes dark without POWER_LOSS. -/
  | pwrEnDeasserted
  /-- SELFTEST_DEFERRED_START (R465): A waiting self-test is decided at S+10 µs of its service stroke, or, without a launch, powers up once the budget or the ramp spacing allows. -/
  | selftestDeferredStart (u : BitVec 16)
  /-- SUSPECT_DECLARATION (R428): The management controller declares a package suspect, and the package is fenced as a class 10 fault. -/
  | suspectDeclaration
  /-- MANAGEMENT_WAKE (R401): A management request wakes a partition from Glow, Banked or Cold. -/
  | managementWake (p : Fin 4)
  deriving DecidableEq, Repr

end Sys2Proof
end

