-- ==== Sys2Proof/Machine/StateSys.lean ====
section
/-! DEFINITION. The state of the time base and strokes (ch. 02), host port and queues (ch. 05), scripts and launches (ch. 06) and
the torus (ch. 13) as plain data. -/

namespace Sys2Proof.Machine

/-- TB_STAT.LOCK (R37). -/
inductive Lock where
  | free | acquire | locked | holdover | fault
  deriving DecidableEq, Repr

/-- TB_STAT.ROLE (R60). -/
inductive Role where
  | member | root | backup | masterRoot
  deriving DecidableEq, Repr

/-- A STROKE_CFG request waiting for its stroke (R46). -/
structure StrokeReq where
  stroke : BitVec 64
  period : BitVec 12
  down : BitVec 16
  cw : BitVec 16
  deriving DecidableEq, Repr

/-- The time base and the stroke block (R34–R60). -/
structure Clk where
  /-- The reference is stable and the time base counts (R34). -/
  running : Bool
  tb : BitVec 64
  /-- Time base at which HOLDOVER began (R38). -/
  holdAt : BitVec 64
  lock : Lock
  stepped : Bool
  /-- The package has acquired lock since reset (R35). -/
  acquired : Bool
  role : Role
  hops : BitVec 8
  upPort : BitVec 5
  /-- Direction of the time parent, 7 at the root (R481 TREE). -/
  upDir : BitVec 3
  trim : BitVec 32
  ofs : BitVec 32
  stroke : BitVec 64
  sstart : BitVec 64
  k : BitVec 6
  period : BitVec 12
  downNs : BitVec 16
  cwNs : BitVec 16
  lateCnt : BitVec 32
  stretchCnt : BitVec 32
  podSkew : BitVec 32
  lateMax : BitVec 32
  /-- A stroke has started, so the stroke number is the pod's (R48). -/
  joined : Bool
  /-- Directions whose neighbour is known as a child in the tree, and the done markers of the present stroke by direction. -/
  kids : List Nat
  kidDone : Tab (BitVec 128)
  /-- Done markers of the next stroke, by direction, of children that have started it (R441). -/
  kidNext : Tab (BitVec 128)
  /-- Merged marker of the package's own units so far, and the marker sent. -/
  own : BitVec 128
  /-- Latest done time after S of the package's units in the present stroke, ns (R413 SLACK). -/
  doneNs : BitVec 64
  sent : Option (BitVec 128)
  lastSent : BitVec 128
  /-- The go marker scheduled and its time of arrival (R54). -/
  go : Option (BitVec 128)
  goAt : BitVec 64
  req : Option StrokeReq
  /-- Stretch request of this package for the next stroke (R57). -/
  reqK : BitVec 6
  deriving DecidableEq, Repr

/-- A fetched descriptor: sequence number, its 512 bits, and whether it has started (R122). -/
structure Desc where
  seq : Nat
  d : BitVec 512
  started : Bool
  deriving DecidableEq, Repr

/-- A completion that waits for ring space (R138). -/
structure Cqe where
  seq : Nat
  tag : BitVec 16
  typ : BitVec 8
  irq : Bool
  status : BitVec 8
  detail : BitVec 32
  value : BitVec 64
  deferred : Bool
  deriving DecidableEq, Repr

/-- One queue: its entry of R144 and what the device keeps for it (R118–R122). -/
structure Queue where
  sqBase : BitVec 64 := 0
  cqBase : BitVec 64 := 0
  holdoff : BitVec 8 := 0
  vector : BitVec 8 := 0
  en : Bool := false
  log2 : BitVec 5 := 4
  fetchErr : Bool := false
  badCfg : Bool := false
  overrun : Bool := false
  /-- Fetching has stopped under R120 or R121, until the queue resumes. -/
  stopped : Bool := false
  ctlOff : Bool := false
  /-- SQ_TAIL and CQ_HEAD as last read from the doorbell line. -/
  tail : BitVec 32 := 0
  cqHead : BitVec 32 := 0
  /-- Descriptors fetched, which is the next sequence number. -/
  fetch : Nat := 0
  fetched : List Desc := []
  /-- Completions not yet written, oldest first, and records written since the enable. -/
  comps : List Cqe := []
  cqTail : Nat := 0
  /-- Descriptors completed without a gap from 0, and those completed beyond. -/
  doneCnt : Nat := 0
  doneSet : List Nat := []
  deriving DecidableEq, Repr

/-- A rendezvous of BARRIER (R127): barrier number, mask, and the queues waiting with their sequence numbers. -/
structure Rdv where
  bid : Nat
  mask : BitVec 81
  joined : List (Nat × Nat)
  deriving DecidableEq, Repr

/-- A control that waits for the next stroke boundary (R135): queue 80's sequence, target, enable. -/
structure Ctl where
  seq : Nat
  target : Nat
  enable : Bool
  deriving DecidableEq, Repr

/-- A host-issued collective in flight (R134, R366): queue, sequence number. -/
structure HostOp where
  q : Nat
  seq : Nat
  deriving DecidableEq, Repr

/-- The selection registers of the register blocks (R196, R243, R244, R270, R290, R317, R368, R425) and UP_STAT.CFGREJ. -/
structure Sels where
  mx : BitVec 9
  sd : BitVec 9
  sdCh : BitVec 3
  tf : BitVec 9
  tv : BitVec 9
  ts : BitVec 2
  upPart : BitVec 2
  upStack : BitVec 4
  upCfgRej : Bool
  flCg : BitVec 6
  flDie : BitVec 2
  dg : BitVec 9
  deriving DecidableEq, Repr

/-- The host port (R113–R145). -/
structure Hp where
  viral : Bool
  cfgRej : Bool
  ide : Bool
  memEn : Bool
  cacheEn : Bool
  degraded : Bool
  speed : BitVec 8
  width : BitVec 8
  dbBase : BitVec 64
  /-- Error Not Committed of the HDM decoder (R116). -/
  hdmErr : Bool
  errIde : Bool
  errViral : Bool
  errDown : Bool
  errQ : Bool
  queues : Tab Queue
  rdvs : List Rdv
  qctl : List Ctl
  ectl : List Ctl
  hostOps : List HostOp
  /-- Latched upper halves of register pairs by the offset of the low word (R36). -/
  latch : Tab (BitVec 32)
  sels : Sels
  deriving DecidableEq, Repr

/-- A script image: its length in bytes and its bytes as a little-endian number (R146). -/
structure Image where
  len : Nat
  data : Nat
  deriving DecidableEq, Repr

/-- A STOP that waits (R132): queue, sequence number, mode. -/
structure StopReq where
  q : Nat
  seq : Nat
  mode1 : Bool
  deriving DecidableEq, Repr

/-- A running launch (R131, R147). -/
structure Launch where
  slot : Fin 8
  q : Nat
  seq : Nat
  step0 : BitVec 64
  steps : BitVec 64
  start : BitVec 64
  /-- S+0 of the START stroke has come. -/
  began : Bool
  entry : Nat
  /-- The step close of the pass that ends has been performed (R272). -/
  closed : Bool := false
  /-- The launch restores from the lost package's holder (R440). -/
  restore : Bool := false
  stops : List StopReq
  /-- Zero-fill clearing is not complete (R164). -/
  zeroing : Bool
  /-- Entries still to regenerate, first one in force (R437). -/
  regen : List Nat := []
  deriving DecidableEq, Repr

/-- A partition (R136, R137): dies, compute queues, tolerable wake latency, and its launch. -/
structure Partition where
  dies : BitVec 4 := 0
  qmask : BitVec 16 := 0
  lat : BitVec 32 := 2
  launch : Option Launch := none
  deriving DecidableEq, Repr

/-- Scripts and partitions (R146–R165). -/
structure Scr where
  slots : Tab (Option Image)
  lastRef : BitVec 32
  parts : Tab Partition
  deriving DecidableEq, Repr

/-- LK_STAT.STATE (R344). -/
inductive PortState where
  | down | training | live | lock | failed | miswired | unused
  deriving DecidableEq, Repr

/-- A packet or control symbol a port has still to carry to its far end: slots left to send, and the SEQ of the latest unacknowledged
flit that carries one of them. -/
structure OutItem where
  ctrl : Bool
  pkt : Packet
  left : Nat
  lastSeq : Option Nat
  resent : Bool := false
  /-- Direction and class a passing packet arrived in (R332). -/
  arrived : Option (Nat × Nat) := none
  deriving DecidableEq, Repr

/-- A torus port (R318–R344). -/
structure Port where
  state : PortState := .down
  /-- Training after a failure has succeeded, so the port returns to LIVE at the next boundary (R342). -/
  ready : Bool := false
  /-- Times of failures within the last hour, newest first; the port stays FAILED after three (R342). -/
  fails : List (BitVec 64) := []
  stuck : Bool := false
  /-- The far end announced Cold, and COLD went out to it, since the port last trained (R343). -/
  coldSeen : Bool := false
  coldSent : Bool := false
  fecce : BitVec 32 := 0
  badflit : BitVec 32 := 0
  retry : BitVec 32 := 0
  failCnt : BitVec 32 := 0
  dup : BitVec 32 := 0
  drop : BitVec 32 := 0
  /-- Receiver: next expected SEQ, NAK owed; credits to return per 2·VC + class. -/
  rxSeq : BitVec 12 := 0
  nakOwed : Bool := false
  owed : Tab Nat := []
  /-- Sender: next SEQ, flits sent and not acknowledged (oldest first), times the oldest was replayed. -/
  txSeq : BitVec 12 := 0
  unacked : List Flit := []
  replays : Nat := 0
  /-- Slots in use of the far end's 256 per 2·VC + class (R331). -/
  used : Tab Nat := []
  out : List OutItem := []
  /-- R330: the weighted VC in service, and the slots it may still send in its turn. -/
  rrVc : Nat := 0
  rrLeft : Nat := 0
  /-- R343: a port in LOCK has sent WAKE. -/
  wakeSent : Bool := false
  /-- Open incoming packets by 2·VC + class: header, lines so far (R323). -/
  opened : Tab (Option Packet) := []
  /-- Complete packets received, not yet processed, oldest first; and control symbols. -/
  inbox : List Packet := []
  symbols : List (BitVec 512) := []
  /-- Packets at the head of `inbox` that a link now failed delivered: the fresh link owes no credit for them (R331). -/
  uncredited : Nat := 0
  /-- Last TIME mark received: its TX_T and the time of receipt; one-way asymmetry measured at training, ps. -/
  markTx : BitVec 64 := 0
  markAt : BitVec 64 := 0
  marked : Bool := false
  /-- The last TIME symbol sent (R325). -/
  timeSent : BitVec 512 := 0
  asym : BitVec 32 := 0
  /-- Flits replayed in the present stroke (R413 REPLAY). -/
  replayed : Nat := 0
  deriving DecidableEq, Repr

/-- A packet sent and not acknowledged: its RTAG and the unit that waits for its ACK (R97, R328). -/
structure Await where
  rtag : BitVec 32
  unit : Nat
  /-- Index of the instruction it belongs to (R223). -/
  idx : Nat := 0
  deriving DecidableEq, Repr

/-- What a unit does once its earlier packets are acknowledged. -/
inductive Act where
  /-- A CREDIT packet: TAG, destination package, destination pod (R223, R328). -/
  | remote (tag pkg pod : Nat)
  /-- A credit to a unit of this package: unit, counter, count (R182, R222). -/
  | credit (dst ctr n : Nat)
  /-- A FENCE of scope POD or HOST, or an OPEN, lets the unit go on (R98, R221, R312). -/
  | release
  /-- An ember slot's seal line goes out: stack, slot offset, the line (R312). -/
  | seal (j : Nat) (off : Nat) (line : BitVec 512)
  deriving DecidableEq, Repr

/-- An act of a unit that waits for the RTAGs named (R223). -/
structure Later where
  unit : Nat
  after : List (BitVec 32)
  act : Act
  deriving DecidableEq, Repr

/-- The torus, routing tables and placement (R318–R344). -/
structure Torus where
  ports : Tab Port
  sel : BitVec 5
  vcw : BitVec 16
  /-- Routing banks: the active one and the shadow, package and pod tables (R333, R335). -/
  bank : Bool
  pkgTab : Tab (BitVec 8)
  podTab : Tab (BitVec 8)
  pkgShadow : Tab (BitVec 8)
  podShadow : Tab (BitVec 8)
  /-- Remap table and its shadow (R338). -/
  remap : Tab (BitVec 64)
  remapShadow : Tab (BitVec 64)
  /-- A pending commit: stroke, routing banks, remap (R335). -/
  commit : Option (BitVec 64 × Bool × Bool)
  refused : Bool
  placed : Bool
  vcwRej : Bool
  coord : BitVec 32
  shape : BitVec 32
  neigh : Tab (BitVec 32)
  /-- CG table of R338 and the CGs open (R133). -/
  cgs : Tab (BitVec 256)
  cgOpen : List Nat
  /-- UP_EMBCFG [6:0] as placed (R310). -/
  embCfg : BitVec 7
  /-- HSEQ counters by 16·direction + 2·VC + class; delivered HSEQs in the window and the highest + 1 (R329). -/
  hseq : Tab (BitVec 24)
  seen : Tab (List Nat)
  top : Tab Nat
  /-- Packets delivered to this package that a typed command has still to act on. -/
  inbox : List Packet
  /-- Packets for a direction with no live port and no ALT, by direction, plane and arrival (R341). -/
  waiting : Tab (List Packet)
  /-- Rotation counters of failed ports (R340). -/
  rot : Tab Nat
  awaits : List Await
  /-- Acts that wait for acknowledgements, oldest first. -/
  later : List Later
  deriving DecidableEq, Repr

end Sys2Proof.Machine
end

