-- ==== Sys2Proof/Machine/Script.lean ====
section
/-! DEFINITION. Reading a script image (06_scripts.md, R146–R155): header, tables, streams, segments, windows and bank claims. -/

namespace Sys2Proof.Machine

/-- The little-endian number in `n` bytes from offset `off`; bytes past the image read 0. -/
def Image.at (g : Image) (off n : Nat) : Nat := (g.data >>> (8 * off)) % 2 ^ (8 * n)

/-- R146: header fields. -/
def Image.dies (g : Image) : Nat := g.at 0x44 1
def Image.phases (g : Image) : Nat := g.at 0x46 2
def Image.pUs (g : Image) : Nat := g.at 0x48 2
def Image.cwNs (g : Image) : Nat := g.at 0x4C 4
def Image.pro (g : Image) : Nat := g.at 0x50 2
def Image.body (g : Image) : Nat := g.at 0x52 2
def Image.nStreams (g : Image) : Nat := g.at 0x54 2
def Image.nCg (g : Image) : Nat := g.at 0x56 2
def Image.localGib (g : Image) : Nat := g.at 0x58 1
def Image.ember (g : Image) : Nat := g.at 0x5A 2
def Image.acc (g : Image) : Nat := g.at 0x5C 2
def Image.stage (g : Image) : Nat := g.at 0x5E 2
def Image.ivBase (g : Image) : Nat := g.at 0x60 2
def Image.ivSize (g : Image) : Nat := g.at 0x62 2
def Image.nZero (g : Image) : Nat := g.at 0x64 2
def Image.nExt (g : Image) : Nat := g.at 0x66 2
def Image.phaseOff (g : Image) : Nat := g.at 0x68 4
def Image.strokeOff (g : Image) : Nat := g.at 0x6C 4
def Image.cgOff (g : Image) : Nat := g.at 0x70 4
def Image.zeroOff (g : Image) : Nat := g.at 0x74 4
def Image.extOff (g : Image) : Nat := g.at 0x78 4
def Image.streamOff (g : Image) : Nat := g.at 0x7C 4

/-- R147: stroke-table entries in all. -/
def Image.entries (g : Image) : Nat := g.pro + g.body

/-- R148: phase-table entry `i`, 16 bytes. -/
def Image.phase (g : Image) (i : Nat) : Nat := g.at (g.phaseOff + 16 * i) 16

/-- R149: stroke-table entry `e`, 32 bytes. -/
def Image.stroke (g : Image) (e : Nat) : BitVec 256 := BitVec.ofNat 256 (g.at (g.strokeOff + 32 * e) 32)

/-- The phase of stroke-table entry `e`. -/
def Image.phaseOf (g : Image) (e : Nat) : Nat := bits (g.stroke e) 0 16

/-- R150: the CG, zero-fill and external tables. -/
def Image.cg (g : Image) (i : Nat) : Nat × Nat := (g.at (g.cgOff + 16 * i) 1, g.at (g.cgOff + 16 * i + 4) 4)
def Image.zero (g : Image) (i : Nat) : Nat × Nat := (g.at (g.zeroOff + 16 * i) 8, g.at (g.zeroOff + 16 * i + 8) 8)

/-- An external entry: base, length, kind, WR. -/
structure ExtEntry where
  base : Nat
  len : Nat
  kind : Nat
  wr : Nat
  deriving DecidableEq, Repr

def Image.ext (g : Image) (i : Nat) : ExtEntry :=
  let o := g.extOff + 16 * i
  ⟨g.at o 8, g.at (o + 8) 6, g.at (o + 14) 1, g.at (o + 15) 1⟩

/-- R151: the header of a stream. -/
structure Stream where
  unit : Nat
  nWin : Nat
  segOff : Nat
  winOff : Nat
  claimOff : Nat
  codeOff : Nat
  codeBytes : Nat
  rsv : Nat
  deriving DecidableEq, Repr

def Image.stream (g : Image) (i : Nat) : Stream :=
  let o := g.streamOff + 32 * i
  ⟨g.at o 2, g.at (o + 2) 2, g.at (o + 4) 4, g.at (o + 8) 4, g.at (o + 12) 4, g.at (o + 16) 4, g.at (o + 20) 4, g.at (o + 24) 8⟩

/-- Every stream of the image, in order. -/
def Image.streams (g : Image) : List Stream := (List.range g.nStreams).map g.stream

/-- The stream of a unit, if the script gives it one. -/
def Image.streamOf (g : Image) (u : Nat) : Option Stream := g.streams.find? (fun t => t.unit == u)

/-- R151: the segment of entry `e`: offset from CODE_OFF and bytes. -/
def Image.seg (g : Image) (t : Stream) (e : Nat) : Nat × Nat := (g.at (t.segOff + 8 * e) 4, g.at (t.segOff + 8 * e + 4) 4)

/-- R152: the unit has work in entry `e`. -/
def Image.works (g : Image) (u e : Nat) : Bool :=
  match g.streamOf u with
  | none => false
  | some t => (g.seg t e).2 != 0

/-- R153: one write window: base, first entry, last entry, lines, reserved bits. -/
structure Win where
  base : Nat
  first : Nat
  last : Nat
  lines : Nat
  rsv : Nat
  deriving DecidableEq, Repr

def Image.win (g : Image) (t : Stream) (i : Nat) : Win :=
  let w : BitVec 128 := BitVec.ofNat 128 (g.at (t.winOff + 16 * i) 16)
  ⟨bits w 0 48, bits w 48 16, bits w 64 16, bits w 80 32, bits w 112 16⟩

def Image.wins (g : Image) (t : Stream) : List Win := (List.range t.nWin).map (g.win t)

/-- A window holds the line at address `a` in entry `e` (R77, R153). -/
def Win.holds (w : Win) (e a : Nat) : Bool :=
  decide (w.first ≤ e) && decide (e ≤ w.last) && decide (w.base ≤ a) && decide (a < w.base + 64 * w.lines)

/-- R77: address `a` lies in a window of unit `u` for entry `e`. -/
def Image.inWindow (g : Image) (u e a : Nat) : Bool :=
  match g.streamOf u with
  | none => false
  | some t => (g.wins t).any (fun w => w.holds e a)

/-- A line lies in some window of the script, in any entry (R491). -/
def Image.inAnyWindow (g : Image) (a : Nat) : Bool :=
  g.streams.any (fun t => (g.wins t).any (fun w => decide (w.base ≤ a) && decide (a < w.base + 64 * w.lines)))

/-- A line lies in a zero-fill range (R491). -/
def Image.inZero (g : Image) (a : Nat) : Bool :=
  (List.range g.nZero).any (fun i => decide ((g.zero i).1 ≤ a) && decide (a < (g.zero i).1 + (g.zero i).2))

/-- R154: the claim record of unit `u` in phase `ph`, 640 bits; 0 without a stream. -/
def Image.claims (g : Image) (u ph : Nat) : Nat :=
  match g.streamOf u with
  | none => 0
  | some t => if t.claimOff = 0 then 0 else g.at (t.claimOff + 80 * ph) 80

/-- R154: unit `u` claims some slot of bank `b` (accumulator bank when `acc`) in the phase of entry `e`. -/
def Image.claimed (g : Image) (u e : Nat) (acc : Bool) (b : Nat) : Bool :=
  (g.claims u (g.phaseOf e) >>> (16 * b + if acc then 512 else 0)) % 2 ^ 16 != 0

/-- R162: a script uses a unit when its stream has a non-empty segment, a window or a non-zero claim. -/
def Image.uses (g : Image) (u : Nat) : Bool :=
  match g.streamOf u with
  | none => false
  | some t =>
    decide (t.nWin > 0) || (List.range g.entries).any (fun e => (g.seg t e).2 != 0) ||
      (List.range g.phases).any (fun ph => g.claims u ph != 0)

/-- R26: the unit identifier of a cluster unit: linear cluster index, UNIT, SUB. -/
def cuid (i unit sub : Nat) : Nat := (i / 128) * 0x4000 + ((i / 8) % 16) * 0x200 + (i % 8) * 0x40 + unit * 8 + sub

/-- Identifier of Slant channel `ch` of cluster `c`. -/
def sdUid (c ch : Nat) : Nat := cuid c 3 ch

/-- R27: the unit identifier of a die-level block: die, CLASS, INDEX. -/
def duid (d cls index : Nat) : Nat := d * 0x4000 + 0x2000 + cls * 0x100 + index

/-- The die of a unit identifier. -/
def uidDie (u : Nat) : Nat := u / 0x4000

/-- Linear cluster index of a cluster unit's identifier. -/
def uidCluster (u : Nat) : Nat := (u / 0x4000) * 128 + ((u / 0x200) % 16) * 8 + (u / 0x40) % 8

/-- R26: a cluster unit's identifier that exists. -/
def isClusterUnit (u : Nat) : Bool :=
  decide (u < 0x10000) && (u / 0x2000) % 2 == 0 && decide ((u / 8) % 8 ≤ 4) && ((u / 8) % 8 == 3 || u % 8 == 0)

/-- R27: a cle or a upu. -/
def isDieUnit (u : Nat) : Bool :=
  decide (u < 0x10000) && (u / 0x2000) % 2 == 1 &&
    (((u / 0x100) % 32 == 0 && u % 0x100 == 0) || ((u / 0x100) % 32 == 1 && decide (u % 0x100 ≤ 2)))

/-- A unit that runs a stream (R151). -/
def isStreamUnit (u : Nat) : Bool := isClusterUnit u || isDieUnit u

/-- R318: the unit identifier of torus port `p`. -/
def portUid (p : Nat) : Nat := duid (p / 6) 3 (p % 6)

/-- The host port's identifier (R103) and the PMC's. -/
def hostUid : Nat := 0x2700
def pmcUid : Nat := 0x2800

end Sys2Proof.Machine
end

