-- ==== Sys2Proof/Decode.lean ====
section
/-! DEFINITION. From words to commands. The opcode table gives its rows no bits, so `decodeTableWord` reads none; a unit's instruction
word in a script names its command by its opcode byte (R177, R178, R220, R234, R251, R295, R349, R420), which `decodeUnit` reads. -/

namespace Sys2Proof.Machine

/-- The kind of a unit: 0 mxa, 1 tve, 2 tfe, 3 sde, 4 dgu (R26); 5 cle, 6 upu (R27). -/
def unitKind (u : Nat) : Nat := if (u / 0x2000) % 2 = 1 then 5 + (u / 0x100) % 32 else (u / 8) % 8

/-- Bytes of one instruction of a unit (R177, R219, R250, R294, R349). -/
def instrBytes (u : Nat) : Nat :=
  if (u / 0x2000) % 2 = 1 then 64
  else match (u / 8) % 8 with
    | 0 => 16 | 1 => 8 | _ => 32

/-- The opcodes of a unit that name an instruction other than NOP; every other byte is reserved (R178, R220, R234, R251, R295, R349,
R420). -/
def unitOpcodes : Nat → List Nat
  | 0 => [1, 2, 3, 0x10, 0x11, 0x12, 0x13]
  | 1 => [1, 2, 3, 4, 5, 6, 7, 8, 0x10, 0x11, 0x20, 0x21, 0x22, 0x23, 0x24, 0x25, 0x26, 0x27, 0x28, 0x29, 0x2A]
  | 2 => [1, 2, 3, 0x10, 0x11, 0x12, 0x13]
  | 3 => [1, 2, 3, 0x10, 0x11, 0x12, 0x13, 0x14]
  | 4 => [1, 2, 3, 0x10, 0x11, 0x12]
  | 5 => [3, 0x10, 0x11, 0x12, 0x13, 0x14, 0x15, 0x16]
  | 6 => [3, 0x10, 0x11, 0x12, 0x13, 0x14, 0x15, 0x16, 0x17]
  | _ => []

/-- The opcode a word gives a unit of kind `k`: its byte [7:0], or 0, NOP, where that byte is reserved. -/
def unitOpcode (k w : Nat) : Nat := if (unitOpcodes k).contains (w % 256) then w % 256 else 0

end Sys2Proof.Machine

namespace Sys2Proof
open Machine

/-- The command of an array's word (R178). -/
def decodeMxa (c : Fin 512) (w : Nat) : Nat → Option Instr
  | 0x10 => some (.loadw c (BitVec.ofNat 128 w)) | 0x11 => some (.mma c (BitVec.ofNat 128 w))
  | 0x12 => some (.abcast c (BitVec.ofNat 128 w)) | 0x13 => some (.cntst c (BitVec.ofNat 128 w)) | _ => none

/-- The command of a Brush word (R251). -/
def decodeTve (c : Fin 512) (w : Nat) : Nat → Option Instr
  | 0x04 => some (.setvl c (BitVec.ofNat 64 w)) | 0x05 => some (.setx c (BitVec.ofNat 64 w))
  | 0x06 => some (.addx c (BitVec.ofNat 64 w)) | 0x07 => some (.loop c (BitVec.ofNat 64 w))
  | 0x08 => some (.tveIdx c (BitVec.ofNat 64 w)) | 0x10 => some (.ld c (BitVec.ofNat 64 w))
  | 0x11 => some (.st c (BitVec.ofNat 64 w)) | 0x20 => some (.fop c (BitVec.ofNat 64 w))
  | 0x21 => some (.fun_ c (BitVec.ofNat 64 w)) | 0x22 => some (.cmp c (BitVec.ofNat 64 w))
  | 0x23 => some (.sel c (BitVec.ofNat 64 w)) | 0x24 => some (.iop c (BitVec.ofNat 64 w))
  | 0x25 => some (.cvt c (BitVec.ofNat 64 w)) | 0x26 => some (.red c (BitVec.ofNat 64 w))
  | 0x27 => some (.perm c (BitVec.ofNat 64 w)) | 0x28 => some (.pfix c (BitVec.ofNat 64 w))
  | 0x29 => some (.rand c (BitVec.ofNat 64 w)) | 0x2A => some (.movi c (BitVec.ofNat 64 w)) | _ => none

/-- The command of a TFE word (R234). -/
def decodeTfe (c : Fin 512) (w : Nat) : Nat → Option Instr
  | 0x10 => some (.trans c (BitVec.ofNat 256 w)) | 0x11 => some (.conv c (BitVec.ofNat 256 w))
  | 0x12 => some (.qmx c (BitVec.ofNat 256 w)) | 0x13 => some (.tfeIdx c (BitVec.ofNat 256 w)) | _ => none

/-- The command of a Slant channel's word (R220). -/
def decodeSde (c : Fin 512) (ch : Fin 8) (w : Nat) : Nat → Option Instr
  | 0x10 => some (.copy c ch (BitVec.ofNat 256 w)) | 0x11 => some (.skew c ch (BitVec.ofNat 256 w))
  | 0x12 => some (.fillLines c ch (BitVec.ofNat 256 w)) | 0x13 => some (.addw c ch (BitVec.ofNat 256 w))
  | 0x14 => some (.put c ch (BitVec.ofNat 256 w)) | _ => none

/-- The command of a digest unit's word (R420). -/
def decodeDgu (c : Fin 512) (w : Nat) : Nat → Option Instr
  | 0x10 => some (.dopen c (BitVec.ofNat 256 w)) | 0x11 => some (.dfeed c (BitVec.ofNat 256 w))
  | 0x12 => some (.dclose c (BitVec.ofNat 256 w)) | _ => none

/-- The command of a Flue word (R349). -/
def decodeCle (d : Fin 4) (w : BitVec 512) : Nat → Option Instr
  | 0x10 => some (.ag d w) | 0x11 => some (.rs d w) | 0x12 => some (.bcast d w) | 0x13 => some (.a2a d w)
  | 0x14 => some (.a2av d w) | 0x15 => some (.a2ar d w) | 0x16 => some (.vote d w) | _ => none

/-- The command of a Blotter word (R295). -/
def decodeUpu (j : Fin 12) (w : BitVec 512) : Nat → Option Instr
  | 0x10 => some (.prog j w) | 0x11 => some (.cld j w) | 0x12 => some (.args j w) | 0x13 => some (.upd j w)
  | 0x14 => some (.stat j w) | 0x15 => some (.take j w) | 0x16 => some (.open_ j w) | 0x17 => some (.seal j w) | _ => none

/-- The command a whole instruction word gives unit `u`; a reserved opcode is a NOP (R178, R220, R234, R251, R295, R349, R420). -/
def decodeUnit (u : BitVec 16) (w : BitVec 512) : Instr :=
  let c : Fin 512 := Fin.ofNat 512 (uidCluster u.toNat)
  let d : Fin 4 := Fin.ofNat 4 (uidDie u.toNat)
  let k := unitKind u.toNat
  let o := unitOpcode k w.toNat
  if o = 1 then .wait u w else if o = 2 then .post u w else if o = 3 then .fence u w
  else
    (match k with
      | 0 => decodeMxa c w.toNat o
      | 1 => decodeTve c w.toNat o
      | 2 => decodeTfe c w.toNat o
      | 3 => decodeSde c (Fin.ofNat 8 u.toNat) w.toNat o
      | 4 => decodeDgu c w.toNat o
      | 5 => decodeCle d w o
      | _ => decodeUpu (Fin.ofNat 12 (3 * d.val + u.toNat % 256)) w o).getD (.nop u w)

/-- The command a word spells by the table's bits: the table gives none, so none. -/
def decodeTableWord (_nbits _w : Nat) : Option Instr := none

end Sys2Proof
end

