-- ==== Sys2Proof/Machine/Float.lean ====
section
/-! DEFINITION. Number formats, conversion and exact arithmetic (08_number_formats.md, R197–R215). A value is held exactly, as a
sign, a magnitude and a power of two, and is rounded once, into its target. -/

namespace Sys2Proof.Machine

/-- A value: NaN (payloads never propagate, R202), an infinity, or the finite value ±m × 2^e. -/
inductive Fp where
  | nan
  | inf (neg : Bool)
  | fin (neg : Bool) (m : Nat) (e : Int)
  deriving DecidableEq, Repr

/-- The storage formats of R204, in code order. -/
inductive Fmt where
  | bf16 | fp16 | e4m3 | e5m2 | e2m1 | e2m3 | e3m2 | fp32 | e8m0 | int32 | uint32
  deriving DecidableEq, Repr

/-- R204: the format a 4-bit code names; 11–15 are reserved. -/
def Fmt.ofCode : Nat → Option Fmt
  | 0 => some .bf16 | 1 => some .fp16 | 2 => some .e4m3 | 3 => some .e5m2 | 4 => some .e2m1 | 5 => some .e2m3
  | 6 => some .e3m2 | 7 => some .fp32 | 8 => some .e8m0 | 9 => some .int32 | 10 => some .uint32
  | _ => none

/-- Element bits of a format (R204). -/
def Fmt.width : Fmt → Nat
  | .bf16 => 16 | .fp16 => 16 | .e4m3 => 8 | .e5m2 => 8 | .e2m1 => 4 | .e2m3 => 6 | .e3m2 => 6
  | .fp32 => 32 | .e8m0 => 8 | .int32 => 32 | .uint32 => 32

/-- Fraction bits of a floating format (R198–R200). -/
def Fmt.frac : Fmt → Nat
  | .bf16 => 7 | .fp16 => 10 | .e4m3 => 3 | .e5m2 => 2 | .e2m1 => 1 | .e2m3 => 3 | .e3m2 => 2
  | .fp32 => 23 | .e8m0 => 0 | .int32 => 0 | .uint32 => 0

/-- Exponent bias (R198–R200). -/
def Fmt.bias : Fmt → Int
  | .bf16 => 127 | .fp16 => 15 | .e4m3 => 7 | .e5m2 => 15 | .e2m1 => 1 | .e2m3 => 1 | .e3m2 => 3
  | .fp32 => 127 | .e8m0 => 127 | .int32 => 0 | .uint32 => 0

/-- The encoding of the largest finite value, sign clear (R198–R200). -/
def Fmt.maxMag : Fmt → Nat
  | .bf16 => 0x7F7F | .fp16 => 0x7BFF | .e4m3 => 0x7E | .e5m2 => 0x7B | .e2m1 => 0x7 | .e2m3 => 0x1F | .e3m2 => 0x1F
  | .fp32 => 0x7F7FFFFF | .e8m0 => 254 | .int32 => 0x7FFFFFFF | .uint32 => 0xFFFFFFFF

/-- The canonical NaN of R202; 0 for a format without one. -/
def Fmt.nanBits : Fmt → Nat
  | .bf16 => 0x7FC0 | .fp16 => 0x7E00 | .e4m3 => 0x7F | .e5m2 => 0x7E | .fp32 => 0x7FC00000 | .e8m0 => 0xFF
  | _ => 0

/-- An OCP Microscaling element format: its elements carry no infinity and no NaN (R200). -/
def Fmt.isMx : Fmt → Bool
  | .e2m1 => true | .e2m3 => true | .e3m2 => true | _ => false

/-- An integer format. -/
def Fmt.isInt : Fmt → Bool
  | .int32 => true | .uint32 => true | _ => false

/-- A format with infinities (R198, R199). -/
def Fmt.hasInf : Fmt → Bool
  | .bf16 => true | .fp16 => true | .e5m2 => true | .fp32 => true | _ => false

/-- Rounding modes of R205. -/
inductive Rnd where
  | rne | rz | sr
  deriving DecidableEq, Repr

/-- The conversion control field of R205. -/
structure Cvc where
  rnd : Rnd
  sat : Bool
  deriving DecidableEq, Repr

/-- R205: RND 3 and bit [3] make the instruction invalid. -/
def Cvc.ofBits (n : Nat) : Option Cvc :=
  if n ≥ 8 then none
  else match n % 4 with
    | 0 => some ⟨.rne, n ≥ 4⟩
    | 1 => some ⟨.rz, n ≥ 4⟩
    | 2 => some ⟨.sr, n ≥ 4⟩
    | _ => none

/-- Round to nearest even, giving infinities: the fixed rounding of sites without a CVC. -/
def Cvc.nearest : Cvc := ⟨.rne, false⟩

/-- R198–R200, R202, R210: the exact value an encoding stands for. -/
def Fmt.decode (f : Fmt) (w : Nat) : Fp :=
  match f with
  | .int32 => if w < 2 ^ 31 then .fin false w 0 else .fin true (2 ^ 32 - w) 0
  | .uint32 => .fin false w 0
  | .e8m0 => if w = 0xFF then .nan else .fin false 1 (Int.ofNat w - 127)
  | _ =>
    let neg := w.testBit (f.width - 1)
    let mag := w % 2 ^ (f.width - 1)
    if f.hasInf && mag == f.maxMag + 1 then .inf neg
    else if mag > f.maxMag then .nan
    else
      let x := mag >>> f.frac
      let m := mag % 2 ^ f.frac
      if x = 0 then .fin neg m (1 - f.bias - Int.ofNat f.frac)
      else .fin neg (2 ^ f.frac + m) (Int.ofNat x - f.bias - Int.ofNat f.frac)

/-- Round a magnitude `n + rem / 2^s` to an integer under a mode; `word` is the random word of R74. -/
def roundQ (rnd : Rnd) (word n rem s : Nat) : Nat :=
  match rnd with
  | .rne => if 2 * rem < 2 ^ s then n else if 2 * rem > 2 ^ s then n + 1 else n + n % 2
  | .rz => n
  | .sr => if rem * 2 ^ 32 + word * 2 ^ s ≥ 2 ^ (s + 32) then n + 1 else n

/-- m × 2^e rounded to a whole number of units 2^q. -/
def quant (rnd : Rnd) (word m : Nat) (e q : Int) : Nat :=
  if q ≤ e then m <<< (e - q).toNat
  else
    let s := (q - e).toNat
    roundQ rnd word (m >>> s) (m % 2 ^ s) s

/-- The exponent of the last place in which a value of exponent `x` is rounded: the format's precision, not below its subnormals. -/
def Fmt.ulp (f : Fmt) (x : Int) : Int := max (x - Int.ofNat f.frac) (1 - f.bias - Int.ofNat f.frac)

/-- R207: the magnitude encoding of m × 2^e rounded as if the exponent range were unbounded. -/
def Fmt.roundMag (f : Fmt) (rnd : Rnd) (word m : Nat) (e : Int) : Nat :=
  if m = 0 then 0
  else
    let q := f.ulp (Int.ofNat (Nat.log2 m) + e)
    ((q - (1 - f.bias - Int.ofNat f.frac)).toNat <<< f.frac) + quant rnd word m e q

/-- The outcome of a conversion: the encoding, and what it adds to NANW and OVFW (R215). -/
structure Conv where
  bits : Nat
  nanw : Bool := false
  ovfw : Bool := false
  deriving DecidableEq, Repr

/-- The sign bit of a floating format. -/
def Fmt.signed (f : Fmt) (neg : Bool) (mag : Nat) : Nat := if neg then 2 ^ (f.width - 1) + mag else mag

/-- R207: the overflow result under SAT, with its counts. -/
def Fmt.overflow (f : Fmt) (sat neg : Bool) : Conv :=
  if sat || f.isMx then { bits := f.signed neg f.maxMag, ovfw := true }
  else if f.hasInf then { bits := f.signed neg (f.maxMag + 1), ovfw := true }
  else { bits := f.nanBits, nanw := true, ovfw := true }

/-- R209: a value to E8M0. -/
def convE8m0 (rnd : Rnd) (word : Nat) : Fp → Conv
  | .fin false m e =>
    if m = 0 then { bits := 0xFF, nanw := true }
    else
      let x : Int := Int.ofNat (Nat.log2 m) + e + 127
      let rem := m - 2 ^ Nat.log2 m
      let s := Nat.log2 m
      let up := match rnd with
        | .rne => decide (2 * rem > 2 ^ s) || (decide (2 * rem = 2 ^ s) && x % 2 != 0)
        | .rz => false
        | .sr => decide (rem * 2 ^ 32 + word * 2 ^ s ≥ 2 ^ (s + 32))
      let y : Int := if up then x + 1 else x
      { bits := if y < 0 then 0 else if y > 254 then 254 else y.toNat }
  | _ => { bits := 0xFF, nanw := true }

/-- R207, R208, R210: a value to INT32 or UINT32. -/
def convInt (signed : Bool) (rnd : Rnd) (word : Nat) : Fp → Conv
  | .nan => { bits := 0 }
  | .inf neg => { bits := if signed then (if neg then 2 ^ 31 else 2 ^ 31 - 1) else (if neg then 0 else 2 ^ 32 - 1) }
  | .fin neg m e =>
    let n := quant rnd word m e 0
    let cnt := rnd != .rz
    if signed then
      if neg then (if n > 2 ^ 31 then { bits := 2 ^ 31, ovfw := cnt } else { bits := (2 ^ 32 - n) % 2 ^ 32 })
      else (if n > 2 ^ 31 - 1 then { bits := 2 ^ 31 - 1, ovfw := cnt } else { bits := n })
    else
      if neg then (if n > 0 then { bits := 0, ovfw := cnt } else { bits := 0 })
      else (if n > 2 ^ 32 - 1 then { bits := 2 ^ 32 - 1, ovfw := cnt } else { bits := n })

/-- R206–R208: convert a value to a storage format under a CVC, with the random word of R71 for SR. For an MX element format
the block rule of R209 is the caller's; a non-finite source gives element 0 here. -/
def Fmt.conv (f : Fmt) (c : Cvc) (word : Nat) (v : Fp) : Conv :=
  match f with
  | .e8m0 => convE8m0 c.rnd word v
  | .int32 => convInt true c.rnd word v
  | .uint32 => convInt false c.rnd word v
  | _ =>
    match v with
    | .nan => { bits := f.nanBits, nanw := true }
    | .inf neg =>
      if f.hasInf then { bits := f.signed neg (f.maxMag + 1) }
      else if f.isMx then { bits := 0, nanw := true }
      else if c.sat then { bits := f.signed neg f.maxMag } else { bits := f.nanBits, nanw := true }
    | .fin neg m e =>
      let mag := f.roundMag c.rnd word m e
      if mag ≤ f.maxMag then { bits := f.signed neg mag }
      else if c.rnd = .rz then { bits := f.signed neg f.maxMag }
      else f.overflow c.sat neg

/-- Round to nearest even into a format; infinities on overflow (R67, R99, R167). -/
def Fmt.rne (f : Fmt) (v : Fp) : Nat := (f.conv Cvc.nearest 0 v).bits

/-- An FP32 word as a value. -/
def f32 (w : Word) : Fp := Fmt.fp32.decode w.toNat

/-- A value rounded to an FP32 word. -/
def toF32 (v : Fp) : Word := BitVec.ofNat 32 (Fmt.fp32.rne v)

/-- The FP32 canonical NaN (R202). -/
def nan32 : Word := 0x7FC00000#32

/-- A value that is a NaN. -/
def Fp.isNan : Fp → Bool
  | .nan => true | _ => false

/-- A non-finite value (R197). -/
def Fp.nonFinite : Fp → Bool
  | .nan => true | .inf _ => true | .fin _ _ _ => false

/-- The sign of a value. -/
def Fp.neg? : Fp → Bool
  | .nan => false | .inf n => n | .fin n _ _ => n

/-- The value with its sign inverted. -/
def Fp.negate : Fp → Fp
  | .nan => .nan | .inf n => .inf (!n) | .fin n m e => .fin (!n) m e

/-- A finite value as a signed number of units 2^q, for q not above its exponent. -/
def scaled (neg : Bool) (m : Nat) (e q : Int) : Int :=
  let n := Int.ofNat (m <<< (e - q).toNat)
  if neg then -n else n

/-- A signed number of units 2^q as a value; zero is +0. -/
def ofScaled (n : Int) (q : Int) : Fp := .fin (decide (n < 0)) n.natAbs q

/-- R211: the exact sum. -/
def Fp.add : Fp → Fp → Fp
  | .nan, _ => .nan
  | _, .nan => .nan
  | .inf a, .inf b => if a = b then .inf a else .nan
  | .inf a, .fin _ _ _ => .inf a
  | .fin _ _ _, .inf b => .inf b
  | .fin a m e, .fin b n f =>
    if m = 0 && n = 0 then .fin (a && b) 0 0
    else
      let q := min e f
      ofScaled (scaled a m e q + scaled b n f q) q

/-- R211: the exact product. -/
def Fp.mul : Fp → Fp → Fp
  | .nan, _ => .nan
  | _, .nan => .nan
  | .inf a, .inf b => .inf (a != b)
  | .inf a, .fin b n _ => if n = 0 then .nan else .inf (a != b)
  | .fin a m _, .inf b => if m = 0 then .nan else .inf (a != b)
  | .fin a m e, .fin b n f => .fin (a != b) (m * n) (e + f)

/-- A value times 2^k, exactly. -/
def Fp.scale (k : Int) : Fp → Fp
  | .fin a m e => .fin a m (e + k)
  | v => v

/-- FP32 addition rounded to nearest even (R211). -/
def add32 (a b : Word) : Word := toF32 ((f32 a).add (f32 b))

/-- R67: combine(a, b) in a reduction's wire format. -/
def combine (f : Fmt) (a b : Nat) : Nat := f.rne ((f.decode a).add (f.decode b))

/-- R66: one pass of the canonical tree over a list at width 1, pairs combined, the lower rank first. -/
def reducePass (op : Nat → Nat → Nat) : List Nat → List Nat
  | a :: b :: r => op a b :: reducePass op r
  | l => l

/-- R66: the canonical tree, pass by pass; `fuel` passes suffice when it is at least the length. -/
def canonicalReduce (op : Nat → Nat → Nat) : Nat → List Nat → Nat
  | _, [] => 0
  | _, [a] => a
  | 0, a :: _ => a
  | n + 1, l => canonicalReduce op n (reducePass op l)

/-- A total order key of an FP32 word that is not NaN; −0 and +0 agree (R212). -/
def key32 (w : Word) : Int :=
  let mag := Int.ofNat (w.toNat % 2 ^ 31)
  if w.getLsbD 31 then -mag else mag

/-- An FP32 word that encodes a NaN. -/
def isNan32 (w : Word) : Bool := decide (w.toNat % 2 ^ 31 > 0x7F800000)

/-- R212: max(a, b). -/
def max32 (a b : Word) : Word :=
  if isNan32 a || isNan32 b then nan32
  else if key32 a = 0 && key32 b = 0 then (if a.getLsbD 31 && b.getLsbD 31 then a else 0)
  else if key32 a < key32 b then b else a

/-- R212: min(a, b). -/
def min32 (a b : Word) : Word :=
  if isNan32 a || isNan32 b then nan32
  else if key32 a = 0 && key32 b = 0 then (if a.getLsbD 31 || b.getLsbD 31 then 0x80000000#32 else 0)
  else if key32 b < key32 a then b else a

/-- R212: abs(a). -/
def abs32 (a : Word) : Word := if isNan32 a then nan32 else a &&& 0x7FFFFFFF#32

/-- R212: neg(a). -/
def neg32 (a : Word) : Word := if isNan32 a then nan32 else a ^^^ 0x80000000#32

/-- R201: element `k` of a run of packed elements of `width` bits, read from a little-endian number. -/
def elemOf (width run k : Nat) : Nat := (run >>> (k * width)) % 2 ^ width

/-- R201: pack a list of elements of `width` bits from bit 0 upward. -/
def packElems (width : Nat) : List Nat → Nat
  | [] => 0
  | a :: r => a % 2 ^ width + 2 ^ width * packElems width r

/-- The first `n` elements of a run from element `k` on. -/
def elemsFrom (width run : Nat) : Nat → Nat → List Nat
  | 0, _ => []
  | n + 1, k => elemOf width run k :: elemsFrom width run n (k + 1)

end Sys2Proof.Machine
end

