-- ==== Sys2Proof/Machine/Special.lean ====
section
/-! DEFINITION. The special functions of 10_tile_vector_engine.md (R263, R264), also used by 12_update_unit.md (R298): correctly rounded
primitives and the fixed compound sequences. -/

namespace Sys2Proof.Machine

/-- The greatest `r` with r² ≤ v, bit by bit from 2^n down. -/
def isqrtFrom (v : Nat) : Nat → Nat → Nat
  | 0, r => r
  | n + 1, r => isqrtFrom v n (if (r + 2 ^ n) * (r + 2 ^ n) ≤ v then r + 2 ^ n else r)
def isqrt (v : Nat) : Nat := isqrtFrom v (Nat.log2 v / 2 + 1) 0

/-- A magnitude known as its floor in units of 2^e and whether it lies above: as a value a correct rounding sees. -/
def stickyFp (neg : Bool) (n : Nat) (inexact : Bool) (e : Int) : Fp := .fin neg (2 * n + if inexact then 1 else 0) (e - 1)

/-- R263, R264: 1/x. -/
def rcp32 (w : Word) : Word :=
  toF32 (match f32 w with
    | .nan => .nan
    | .inf n => .fin n 0 0
    | .fin n m e => if m = 0 then .inf n else stickyFp n (2 ^ 80 / m) (2 ^ 80 % m != 0) (-80 - e))

/-- R263, R264: the square root. The value m × 2^e is brought to an even exponent with 60 more bits. -/
def sqrt32 (w : Word) : Word :=
  toF32 (match f32 w with
    | .nan => .nan
    | .inf n => if n then .nan else .inf false
    | .fin n m e =>
      if m = 0 then .fin n 0 0
      else if n then .nan
      else
        let odd := (e % 2).toNat
        let v := m * 2 ^ (120 + odd)
        let r := isqrt v
        stickyFp false r (r * r != v) ((e - Int.ofNat odd) / 2 - 60))

/-- R263, R264: 1/√x. -/
def rsqrt32 (w : Word) : Word :=
  toF32 (match f32 w with
    | .nan => .nan
    | .inf n => if n then .nan else .fin false 0 0
    | .fin n m e =>
      if m = 0 then .inf n
      else if n then .nan
      else
        let odd := (e % 2).toNat
        let den := m * 2 ^ odd
        let r := isqrt (2 ^ 200 / den)
        stickyFp false r (r * r * den != 2 ^ 200) (-((e - Int.ofNat odd) / 2) - 100))

/-- ln 2 in units of 2^−256. -/
def ln2q : Nat := 0xb17217f7d1cf79abc9e3b39803f2f6af40f343267298b62d8a0d175b8baafa2b

/-- The exponential series: Σ z^k / k! in units of 2^−256, `t` being the present term. -/
def expSeries (z : Nat) : Nat → Nat → Nat → Nat
  | 0, _, _ => 0
  | n + 1, k, t => t + expSeries z n (k + 1) (t * z / 2 ^ 256 / (k + 1))

/-- R263, R264: 2^x: exact at an integer, else 2^f for the fraction f of x to 256 bits, rounded once. -/
def exp2_32 (w : Word) : Word :=
  toF32 (match f32 w with
    | .nan => .nan
    | .inf n => if n then .fin false 0 0 else .inf false
    | .fin n m e =>
      if m = 0 then .fin false 1 0
      else if Int.ofNat (Nat.log2 m) + e ≥ 10 then (if n then .fin false 0 0 else .inf false)
      else
        -- x in units of 2^−256, rounded down; every FP32 value is a multiple of 2^−149
        let x : Int := scaled n m (e + 256) 0
        let k := x / 2 ^ 256
        let f := (x % 2 ^ 256).toNat
        if f = 0 then .fin false 1 k
        else .fin false (expSeries (f * ln2q / 2 ^ 256) 90 0 (2 ^ 256)) (k - 256))

/-- The series of the inverse hyperbolic tangent: Σ y^(2i+1) / (2i+1) in units of 2^−256, `t` being the present power. -/
def atanhSeries (y2 : Nat) : Nat → Nat → Nat → Nat
  | 0, _, _ => 0
  | n + 1, i, t => t / (2 * i + 1) + atanhSeries y2 n (i + 1) (t * y2 / 2 ^ 256)

/-- R263, R264: log₂ x: exact at a power of two, else its exponent plus ln v / ln 2 for the significand v to 256 bits, rounded once. -/
def log2_32 (w : Word) : Word :=
  toF32 (match f32 w with
    | .nan => .nan
    | .inf n => if n then .nan else .inf false
    | .fin n m e =>
      if m = 0 then .inf true
      else if n then .nan
      else
        let l := Nat.log2 m
        let x : Int := Int.ofNat l + e
        if m = 2 ^ l then ofScaled x 0
        else
          let y := (m - 2 ^ l) * 2 ^ 256 / (m + 2 ^ l)
          let ln := 2 * atanhSeries (y * y / 2 ^ 256) 90 0 y
          ofScaled (x * 2 ^ 256 + Int.ofNat (ln * 2 ^ 256 / ln2q)) (-256))

/-- FP32 operations rounded to nearest even (R211). -/
def sub32 (a b : Word) : Word := toF32 ((f32 a).add (f32 b).negate)
def mul32 (a b : Word) : Word := toF32 ((f32 a).mul (f32 b))
def fma32 (a b c : Word) : Word := toF32 (((f32 a).mul (f32 b)).add (f32 c))

/-- The FP32 constants 1 and 2 and those of R263's compound functions. -/
def one32 : Word := 0x3F800000#32
def two32 : Word := 0x40000000#32
def log2e32 : Word := 0x3FB8AA3B#32
def ln2_32 : Word := 0x3F317218#32
def twoLog2e32 : Word := 0x4038AA3B#32
def gelu32 : Word := 0x3FD9DB23#32

/-- R263: SIGMOID. -/
def sigmoid32 (x : Word) : Word := rcp32 (add32 one32 (exp2_32 (mul32 (neg32 x) log2e32)))

/-- R263: FUN's functions by code; none for a reserved one. -/
def funOf : Nat → Option (Word → Word)
  | 0 => some id
  | 1 => some neg32
  | 2 => some abs32
  | 3 => some rcp32
  | 4 => some rsqrt32
  | 5 => some sqrt32
  | 6 => some exp2_32
  | 7 => some log2_32
  | 8 => some (fun x => exp2_32 (mul32 x log2e32))
  | 9 => some (fun x => mul32 (log2_32 x) ln2_32)
  | 10 => some sigmoid32
  | 11 => some (fun x => sub32 one32 (mul32 two32 (rcp32 (add32 one32 (exp2_32 (mul32 x twoLog2e32))))))
  | 12 => some (fun x => mul32 x (sigmoid32 x))
  | 13 => some (fun x => mul32 x (sigmoid32 (mul32 x gelu32)))
  | _ => none

end Sys2Proof.Machine
end

