-- ==== Sys2Proof/Config.lean ====
section
/-! DEFINITION. What the spec leaves open as a value (free values, without a body) and what each part has fused. No statement rests on a
value of one. -/

namespace Sys2Proof.Config

/-- The rate trim the lock loop chooses from the measured phase error and the trim in force (R36): the spec gives only its bounds. -/
opaque trimLoop (ofs trim : BitVec 32) : BitVec 32

/-- What is fused for a region's clusters (R19), by region 16d + g. -/
opaque regionFuse (r : Nat) : Nat

/-- The lowest fused fmax of a region's clusters, 2,100 to 2,400 MHz (R19, PW_REGION.FMAX_MHZ of R403). -/
def regionFmax (r : Nat) : Nat := max 2100 (min 2400 (regionFuse r))

/-- The lowest fused cluster fmax of the package, MHz (R31, CLK.FMAX_MIN). -/
def fmaxMin : BitVec 16 := BitVec.ofNat 16 ((List.range 64).foldl (fun m r => min m (regionFmax r)) 2400)

/-- Fused energy coefficients at 750 mV, pJ, by the row of R385's table: 0 array cycle, 1 array cycle of CLASS 3, 2 filler cycle, 3 tile
instruction, 4 cluster line access, 5 fabric line hop, 6 HBM line. -/
opaque eventPj (n : Nat) : Nat

/-- Fused leakage of a region by voltage (mV) and junction temperature (°C), mW (R385). -/
opaque leakMw (r mv tj : Nat) : Nat

/-- The stack offset at which the row that an HBM controller maps a stack offset to begins (R88, R466): its rule is the controller's own. -/
opaque hbmRow (o : BitVec 36) : BitVec 36

/-- Fused serial number (LC_SERIAL, R469). -/
opaque serial : BitVec 64

/-- The public key whose hash a key slot holds (R446, R453). -/
opaque slotKey (slot : Nat) : BitVec 384 × BitVec 384

/-- VERSION and the SHA-384 of the firmware image a part ships with, and of the boot ROM (R451, R457). -/
opaque shippedVersion : BitVec 32
opaque shippedDigest : BitVec 384
opaque romDigest : BitVec 384

/-- The certificate chain of slot 0, DER (R456). -/
opaque certChain : List Byte

/-- A nonce the PMC issues, or a random number in an SPDM response: fresh for each count (R449, R456). -/
opaque nonce (n : Nat) : BitVec 384

/-- A signature by the identity key over a transcript (R456). -/
opaque sign (n : Nat) : BitVec 768

/-- Post-package repairs an HBM stack still reports (R468). -/
opaque hbmSpares (j : Nat) : Nat

end Sys2Proof.Config
end

