-- ==== Sys2Proof/Machine/Ops.lean ====
section
/-! DEFINITION. The shared operations over the data path: records and interrupts (R406–R412, R140), trace events (R414–R417), voids
and fault reports (R103, R428–R430, R443), addresses and lines of memory (R84–R106), windows and blot raises (R77, R275). -/

namespace Sys2Proof.Machine

/-- What a running launch gives the units of its dies: the partition, its dies, the image and the entry in force. -/
structure PEnv where
  part : Nat
  dies : Nat
  img : Image
  entry : Nat
  /-- The launch has begun and is not held, so its units run. -/
  runs : Bool
  /-- Zero-fill clearing is not complete (R164). -/
  zeroing : Bool
  /-- Address of the step line, when the launch has one (R282). -/
  line : Option Nat
  deriving DecidableEq, Repr

/-- What an operation of the data path sees of the rest of the package. -/
structure Env where
  tb : BitVec 64
  stroke : BitVec 64
  pkg : Nat
  pod : Nat
  qready : Bool
  parts : List PEnv
  /-- The CXL link is in L0; while it is not, external traffic waits (R117). -/
  linkUp : Bool

/-- The launch whose partition holds die `d`. -/
def Env.ofDie (e : Env) (d : Nat) : Option PEnv := e.parts.find? (fun p => p.dies.testBit d)

/-- The launch a unit works for. -/
def Env.ofUnit (e : Env) (u : Nat) : Option PEnv := e.ofDie (uidDie u)

/-! ### Records -/

/-- R407: severity of a code. -/
def sevOf : Nat → Nat
  | 0x12 => 1 | 0x18 => 1 | 0x20 => 2 | 0x21 => 1 | 0x22 => 1 | 0x23 => 1 | 0x24 => 1 | 0x25 => 1 | 0x26 => 2 | 0x27 => 1
  | 0x29 => 3 | 0x30 => 2 | 0x32 => 1 | 0x41 => 2 | 0x48 => 3 | 0x50 => 1
  | _ => 0

/-- R409: codes that are never limited. -/
def neverLimited (c : Nat) : Bool :=
  c == 0x01 || c == 0x29 || c == 0x38 || c == 0x39 || c == 0x41 || c == 0x48 || c == 0x50

/-- R407: the codes the device emits. -/
def codeExists (c : Nat) : Bool :=
  c == 0x01 || (decide (0x10 ≤ c) && decide (c ≤ 0x18)) || (decide (0x20 ≤ c) && decide (c ≤ 0x29)) ||
    (decide (0x30 ≤ c) && decide (c ≤ 0x32)) || c == 0x38 || c == 0x39 || c == 0x40 || c == 0x41 || c == 0x48 || c == 0x50

/-- R406: the 64 bytes of a record; `pay` gives (record byte, value) fields. -/
def mkRecord (seq : BitVec 32) (code : Nat) (cov : Bool) (unit : Nat) (ts stroke : BitVec 64) (pay : List (Nat × Nat)) :
    BitVec 512 :=
  BitVec.ofNat 512 (packBytes ([(0, seq.toNat), (4, code), (5, sevOf code + if cov then 4 else 0), (6, unit % 2 ^ 16),
    (8, ts.toNat), (16, stroke.toNat), (60, seq.toNat)] ++ pay))

/-- The severity and SEQ of a stored record. -/
def recSev (r : BitVec 512) : Nat := bits r 40 2
def recSeq (r : BitVec 512) : BitVec 32 := r.extractLsb' 0 32

/-- R145: vector `v` may send no message now: MSI-X is not enabled, the function is masked, or the vector's entry is. -/
def Irq.shut (q : Irq) (v : Nat) : Bool := !q.enable || q.fmask || (q.table.get 0 (4 * v + 3)).getLsbD 0

/-- R140, R145: send vector `v`'s message, or leave it pending when it is shut; none while QREADY is 0. -/
def Irq.fire (e : Env) (v : Nat) (q : Irq) : Irq :=
  if !e.qready then q
  else
    let q := { q with last := q.last.put 0 v (e.tb.toNat + 1), waiting := q.waiting.put 0 v 0 }
    if q.shut v then { q with pba := NSet.add q.pba v }
    else { q with sent := v :: q.sent }

/-- R140, R145: vector `v` may have been unmasked: a pending message is sent, once QREADY is 1. -/
def Irq.unmask (e : Env) (v : Nat) (q : Irq) : Irq :=
  if q.pba.contains v && !(q.shut v) && e.qready then Irq.fire e v { q with pba := NSet.del q.pba v } else q

/-- R412: fire vector 82, or wait for the end of its 100 µs spacing. -/
def fireEvents (e : Env) (d : Dp) : Dp :=
  let ok := match d.log.irqLast with
    | none => true
    | some t => decide (t.toNat + 100000 ≤ e.tb.toNat)
  if ok then { d with irq := d.irq.fire e 82, log := { d.log with irqLast := some e.tb, irqWait := false } }
  else { d with log := { d.log with irqWait := true } }

/-- The oldest held record of the lowest severity, as (slot, severity), SEQ compared by distance to the head. -/
def Log.oldestHeld (l : Log) : Option (Nat × Nat) :=
  l.held.foldl (fun best s =>
    let r := l.hold.get 0 s
    match best with
    | none => some (s, recSev r)
    | some (b, bs) =>
      let age := (l.head - recSeq r).toNat
      let bage := (l.head - recSeq (l.hold.get 0 b)).toNat
      if recSev r < bs || (recSev r == bs && decide (age > bage)) then some (s, recSev r) else best) none

/-- R411: keep a record in the hold ring. -/
def Log.keep (l : Log) (r : BitVec 512) : Log × Bool :=
  match firstFrom (fun s => !(l.held.contains s)) 512 0 with
  | some s => ({ l with hold := l.hold.put 0 s r, held := NSet.add l.held s }, true)
  | none =>
    match l.oldestHeld with
    | some (s, sv) =>
      if sv ≤ recSev r then ({ l with hold := l.hold.put 0 s r }, true)
      else ({ l with hdropF := true, hdrop := satAdd l.hdrop 1 }, false)
    | none => (l, false)

/-- R406–R411: the recorder takes a record: counted, limited, entered in the main ring and held; and whether vector 82 is asked for. -/
def Log.enter (l : Log) (ts stroke : BitVec 64) (unit code : Nat) (cov : Bool) (pay : List (Nat × Nat)) : Log × Bool :=
  if !l.ready then (l, false)
  else
    let l := { l with counts := l.counts.upd 0 code (fun c => satAdd c 1) }
    let rate := (l.rate.get 0 code).toNat
    if !(neverLimited code) && (rate == 255 || (rate != 0 && decide (l.inBucket.get 0 code ≥ rate))) then
      ({ l with supp := satAdd l.supp 1, suppressed := l.suppressed.upd 0 code (· + 1) }, false)
    else
      let r := mkRecord l.head code cov unit ts stroke pay
      let l := { l with ring := l.ring.put 0 (l.head.toNat % 4096) r, head := l.head + 1,
                        inBucket := l.inBucket.upd 0 code (· + 1) }
      let hk := if sevOf code ≥ l.holdSev.toNat then l.keep r else (l, false)
      let l := hk.1
      let fill := decide (l.fillLog2.toNat ≤ 12) && decide ((l.head - l.mark).toNat = 2 ^ l.fillLog2.toNat)
      (l, (hk.2 && decide (sevOf code ≥ l.irqSev.toNat)) || fill)

/-- R406–R412: the source writes a record, and vector 82 fires when its condition holds. -/
def record (e : Env) (unit code : Nat) (cov : Bool) (pay : List (Nat × Nat)) (d : Dp) : Dp :=
  let r := d.log.enter e.tb e.stroke unit code cov pay
  let d := { d with log := r.1 }
  if r.2 then fireEvents e d else d

/-- R413: take a sample of a histogram quantity. -/
def sample (e : Env) (qty shift unit v : Nat) (d : Dp) : Dp :=
  if d.log.hperiod = 0 || !d.log.ready then d
  else
    let h := d.log.hist.get {} qty
    let bin := if v < 2 ^ shift then 0 else min 15 (Nat.log2 v - shift + 1)
    let h := { h with bins := h.bins.upd 0 bin (fun b => BitVec.ofNat 16 (satTo 16 (b.toNat + 1))),
                      samples := satAdd h.samples 1, sum := BitVec.ofNat 64 (satTo 64 (h.sum.toNat + v)),
                      max := if h.samples = 0 || h.max.toNat < v then BitVec.ofNat 64 v else h.max,
                      maxStroke := if h.samples = 0 || h.max.toNat < v then e.stroke else h.maxStroke,
                      maxUnit := if h.samples = 0 || h.max.toNat < v then BitVec.ofNat 16 unit else h.maxUnit }
    { d with log := { d.log with hist := d.log.hist.put {} qty h } }

/-! ### Trace rings -/

/-- The TR_CTL class bit of a unit, none for a port (R424). -/
def traceClass (u : Nat) : Option Nat :=
  if (u / 0x2000) % 2 = 0 then some ((u / 8) % 8)
  else if (u / 0x100) % 32 = 0 then some 5 else if (u / 0x100) % 32 = 1 then some 6 else none

/-- R417: the stack whose inkwell area takes a unit's events. -/
def spillStack (u : Nat) : Nat :=
  let d := uidDie u
  if (u / 0x2000) % 2 = 0 then 3 * d + ((u / 0x200) % 16) % 3
  else if (u / 0x100) % 32 = 0 then 3 * d else 3 * d + (u % 0x100) % 3

/-- Physical key of the first byte of a stack, SRAM, accumulator bank and reduction buffer. -/
def hbmKey (j o : Nat) : Nat := j * 2 ^ 36 + o
def sramKey (i o : Nat) : Nat := 2 ^ 40 + i * 2 ^ 22 + o
def accKey (i o : Nat) : Nat := 2 ^ 40 + 2 ^ 32 + i * 2 ^ 17 + o
def rbufKey (d o : Nat) : Nat := 2 ^ 40 + 2 * 2 ^ 32 + d * 2 ^ 24 + o

/-- Bytes of a memory as a little-endian number. -/
def readBytes (c : List Host.Cell) (a : Nat) : Nat → Nat
  | 0 => 0
  | n + 1 => (Tab.get (0 : BitVec 8) c a).toNat + 256 * readBytes c (a + 1) n

/-- Store the low `n` bytes of a number. -/
def writeBytes (c : List Host.Cell) (a : Nat) : Nat → Nat → List Host.Cell
  | 0, _ => c
  | n + 1, v => Tab.put (0 : BitVec 8) (writeBytes c (a + 1) n (v / 256)) a (BitVec.ofNat 8 v)

/-- R87: first byte of the inkwell area within a stack. -/
def Mem.inkBase (m : Mem) : Nat := 2 ^ 36 - m.ink.toNat * 2 ^ 26

/-- R417: write one inkwell line of stack `j` and advance its pointer. -/
def spillLine (j : Nat) (l : BitVec 512) (d : Dp) : Dp :=
  let size := d.mem.ink.toNat * 2 ^ 20
  let p := (d.log.inkLine.get 0 j).toNat % size
  if size = 0 then { d with log := { d.log with spillDrop := satAdd d.log.spillDrop 2 } }
  else
    let wrap := decide (p + 1 ≥ size)
    { d with
      mem := { d.mem with cells := writeBytes d.mem.cells (hbmKey j (d.mem.inkBase + 64 * p)) 64 l.toNat },
      log := { d.log with
        inkLine := d.log.inkLine.put 0 j (if wrap then 0 else BitVec.ofNat 24 (p + 1)),
        inkWraps := if wrap then d.log.inkWraps.upd 0 j (fun w => BitVec.ofNat 8 (satTo 8 (w.toNat + 1))) else d.log.inkWraps } }

/-- R417: queue an event for spill; two queued events make a line. -/
def spillEvent (u : Nat) (ev : BitVec 256) (d : Dp) : Dp :=
  let l := d.log
  let wanted := match traceClass u with
    | some c => l.classes.getLsbD c
    | none => l.spillPorts
  if !(l.spill && wanted) then d
  else
    let j := spillStack u
    match l.spillQ.get [] j with
    | [] => { d with log := { l with spillQ := l.spillQ.put [] j [ev] } }
    | a :: _ =>
      spillLine j (BitVec.ofNat 512 (a.toNat + 2 ^ 256 * ev.toNat)) { d with log := { l with spillQ := l.spillQ.put [] j [] } }

/-- A trace event's kind and arguments (R414, R415). -/
structure Ev where
  kind : Nat
  sub : Nat := 0
  a0 : Nat := 0
  a1 : Nat := 0
  ppkg : Nat := 0
  ppod : Nat := 0
  a2 : Nat := 0

/-- R414–R417: record an event in a unit's trace ring. -/
def trace (e : Env) (u : Nat) (v : Ev) (d : Dp) : Dp :=
  if d.log.frozen then d
  else
    let n := d.log.eseq.get 0 u
    let entry := match e.ofUnit u with
      | some p => p.entry
      | none => 0
    let ev : BitVec 256 := BitVec.ofNat 256 (packBytes [(0, e.tb.toNat), (8, u % 2 ^ 16), (10, v.kind), (11, v.sub % 256),
      (12, entry % 2 ^ 16), (14, n.toNat), (16, v.a0 % 2 ^ 32), (20, v.a1 % 2 ^ 32), (24, v.ppkg % 2 ^ 12), (26, v.ppod % 256),
      (28, v.a2 % 2 ^ 32)])
    spillEvent u ev { d with log := { d.log with eseq := d.log.eseq.put 0 u (n + 1),
                                                 rings := d.log.rings.upd [] u (fun r => (ev :: r).take 64) } }

/-- R416: freeze every ring for a fault (reason 1 or 2); a freeze already in force stays one freeze. -/
def autoFreeze (e : Env) (reason : Nat) (d : Dp) : Dp :=
  let was := d.log.frozen
  let d := { d with log := { d.log with frozen := true, auto := true } }
  if was then d else record e pmcUid 0x50 false [(24, reason)] d

/-! ### Faults and voids -/

/-- R443: the 64 bytes of a fault report. -/
def mkReport (n : BitVec 32) (cls action unit : Nat) (e : Env) (detail : Nat) (recpt recStep doneT : BitVec 64) : BitVec 512 :=
  BitVec.ofNat 512 (packBytes [(0, n.toNat), (4, cls), (5, action), (6, unit % 2 ^ 16), (8, e.tb.toNat), (16, e.stroke.toNat),
    (24, e.pkg), (26, e.pod), (28, detail % 2 ^ 64), (36, recpt.toNat), (44, recStep.toNat), (52, doneT.toNat), (60, n.toNat)])

/-- R444: write a report, fire vector 83, write a FAULT record and send it to the management controller. -/
def writeReport (e : Env) (cls action unit detail : Nat) (d : Dp) : Dp :=
  let n := d.fr.last + 1
  let r := mkReport n cls action unit e detail 0 0 0
  let d := { d with irq := d.irq.fire e 83,
                    fr := { d.fr with last := n, count := satAdd d.fr.count 1, newRep := true,
                                      reports := d.fr.reports.put 0 (n.toNat % 12) r, toMgmt := r :: d.fr.toMgmt } }
  record e unit 0x48 false [(24, n.toNat), (28, cls)] d

/-- R429: class 8 faults need the entry of the unit that stalled. -/
def Env.entryOf (e : Env) (u : Nat) : Nat :=
  match e.ofUnit u with
  | some p => p.entry
  | none => 0

/-- The units with work in the entries in force. -/
def Env.working (e : Env) : List Nat :=
  e.parts.flatMap (fun p => if p.runs then (p.img.streams.map (fun t => t.unit)).filter (fun u => p.img.works u p.entry) else [])

/-- R195, R215: the sticky counters of the units that run return to S+0. -/
def uncount (e : Env) (d : Dp) : Dp :=
  let back := fun (x : Nat × Unit) => match e.ofUnit x.1 with
    | some p =>
      if p.runs then (x.1, { x.2 with sticky := (d.snap.units.get {} x.1).sticky, illFirst := (d.snap.units.get {} x.1).illFirst }) else x
    | none => x
  { d with units := (d.units.map back).filter (fun x => x.2 != {}) }

/-- R104, R195, R430: void the stroke in progress on this package (cause as the VOID record codes it); every unit that worked in it
records VOID (R415), and what it counted does not stand. -/
def voidStroke (e : Env) (cause : Nat) (d : Dp) : Dp :=
  if d.fr.voided then d
  else
    let d := e.working.foldl (fun d u => trace e u { kind := 15, a0 := e.stroke.toNat } d) d
    record e pmcUid 0x41 false [(24, cause)] (uncount e { d with fr := { d.fr with voided := true, voidCause := cause } })

/-- R8: a multiple fault: the stroke is voided, class 11 reported, and the job stops. -/
def multiFault (e : Env) (unit : Nat) (d : Dp) : Dp :=
  let d := writeReport e 11 4 unit 0 (voidStroke e 3 d)
  { d with fr := { d.fr with multi := true, jobStop := some d.fr.last, open_ := [] } }

/-- R428, R429, R8: raise a fault. A fault that arrives before the recovery of an earlier one is complete, and a class 8 fault
at the entry of a recovered class 8 fault, is class 11 and stops the job; a port that fails during a restore stays class 3, within the
rollback's recovery. -/
def raiseFault (e : Env) (cls action unit detail : Nat) (d : Dp) : Dp :=
  let entry := e.entryOf unit
  if (!d.fr.open_.isEmpty && !(cls == 3 && d.fr.restoring)) || (cls == 8 && d.fr.stalls.contains entry) || cls == 11 then
    multiFault e unit d
  else
    let d := writeReport e cls action unit detail d
    { d with fr := { d.fr with open_ := ⟨cls, d.fr.last.toNat, entry⟩ :: d.fr.open_ } }

/-- The recovery a void leads to: replay when the stroke is replayable, else rollback (R430, R443 ACTION). -/
def voidAction (d : Dp) : Nat := if d.fr.tainted then 2 else 1

/-- R430: a void holds back the done marker, but for one absorbed into a rollback whose launches do not run: after RECOVER, and in hold
outside regeneration. -/
def Fr.voidHolds (f : Fr) : Bool := f.voided && !f.pendHold && (!f.hold || f.regen)

/-- A void that is a fault of its own: absorbed in hold and once RECOVER has come, else voided and reported (R428, R430). -/
def voidFault (e : Env) (cls cause unit detail : Nat) (d : Dp) : Dp :=
  if d.fr.hold || d.fr.pendHold then voidStroke e cause d
  else raiseFault e cls (voidAction d) unit detail (voidStroke e cause d)

/-- R445: fence the package: its units do no more work until it is re-enabled. -/
def fence (d : Dp) : Dp := { d with fr := { d.fr with fenced := true } }

/-- R430: the stroke has done something that a replay cannot repeat. -/
def taint (d : Dp) : Dp := { d with fr := { d.fr with tainted := true } }

/-! ### Addresses -/

/-- Where a package address lies (R84). -/
inductive Loc where
  | iview (j o : Nat)
  | local_ (j o : Nat)
  | sram (i o : Nat)
  | acc (i o : Nat)
  | rbuf (d o : Nat)
  | ext (n o : Nat)
  deriving DecidableEq, Repr

/-- R463: a location in a region or stack isolated for a self-test. -/
def Mem.isolated (m : Mem) : Loc → Bool
  | .iview j _ => m.isoStacks.getLsbD j
  | .local_ j _ => m.isoStacks.getLsbD j
  | .sram i _ => m.isoRegions.getLsbD (i / 8)
  | .acc i _ => m.isoRegions.getLsbD (i / 8)
  | _ => false

/-- R84–R89, R92: decode a package address by the address map; none where it names nothing. -/
def Mem.resolveMap (m : Mem) (a : Nat) : Option Loc :=
  if a < 0xC000000000 then
    if a < 12 * (m.ilv.toNat * 2 ^ 26) then
      let g := a / 4096
      let q := g / 12
      some (.iview ((g % 12 + q) % 12) (q * 4096 + a % 4096))
    else none
  else if a < 0xC000000000 + 12 * 2 ^ 36 then
    let b := a - 0xC000000000
    if b % 2 ^ 36 < m.localGib.toNat * 2 ^ 30 then some (.local_ (b / 2 ^ 36) (b % 2 ^ 36)) else none
  else if 0x20000000000 ≤ a && a < 0x20000000000 + 512 * 2 ^ 22 then
    let b := a - 0x20000000000
    if b % 2 ^ 22 < 0x300000 then some (.sram (b / 2 ^ 22) (b % 2 ^ 22)) else none
  else if 0x20080000000 ≤ a && a < 0x20080000000 + 512 * 2 ^ 17 then
    let b := a - 0x20080000000
    some (.acc (b / 2 ^ 17) (b % 2 ^ 17))
  else if 0x20084000000 ≤ a && a < 0x20084000000 + 4 * 2 ^ 24 then
    let b := a - 0x20084000000
    some (.rbuf (b / 2 ^ 24) (b % 2 ^ 24))
  else if 0x100000000000 ≤ a && a < 0x100000000000 + 128 * 2 ^ 36 then
    let b := a - 0x100000000000
    some (.ext (b / 2 ^ 36) (b % 2 ^ 36))
  else none

/-- R87: a location of the inkwell area, which no package address reaches, also when INK has been raised since the last launch. -/
def Mem.inkLoc (m : Mem) : Loc → Bool
  | .iview _ o => decide (m.inkBase ≤ o)
  | .local_ _ o => decide (m.inkBase ≤ m.ilv.toNat * 2 ^ 26 + o)
  | _ => false

/-- R84–R89, R92, R463: decode a package address; none where unmapped. -/
def Mem.resolve (m : Mem) (a : Nat) : Option Loc :=
  match m.resolveMap a with
  | none => none
  | some l => if m.isolated l || m.inkLoc l then none else some l

/-- The physical key of a location inside the package; the external window has none. -/
def Mem.key (m : Mem) : Loc → Nat
  | .iview j o => hbmKey j o
  | .local_ j o => hbmKey j (m.ilv.toNat * 2 ^ 26 + o)
  | .sram i o => sramKey i o
  | .acc i o => accKey i o
  | .rbuf d o => rbufKey d o
  | .ext _ _ => 0

/-- The memory code of CE and UE records (R407). -/
def Loc.memCode : Loc → Nat
  | .iview _ _ => 3 | .local_ _ _ => 3 | .sram _ _ => 0 | .acc _ _ => 1 | .rbuf _ _ => 2 | .ext _ _ => 4

/-- The die a location belongs to; none for the interleaved view and the external window (R86). -/
def Loc.die : Loc → Option Nat
  | .local_ j _ => some (j / 3) | .sram i _ => some (i / 128) | .acc i _ => some (i / 128) | .rbuf d _ => some d
  | _ => none

/-- R86, R107: the die whose controllers, clusters or host port serve a location. -/
def Loc.home : Loc → Nat
  | .iview j _ => j / 3 | .local_ j _ => j / 3 | .sram i _ => i / 128 | .acc i _ => i / 128 | .rbuf d _ => d | .ext _ _ => 0

/-! ### Routes across die edges (R369, R371, R372) -/

/-- R369: the other end of the physical edge of end 2 · die + edge. -/
def edgePeer (e : Nat) : Nat := if e % 2 = 0 then 2 * ((e / 2 + 1) % 4) + 1 else 2 * ((e / 2 + 3) % 4)

/-- R372: the edge ends by which a packet from die `a` to die `b` leaves each die on its way. Toward the opposite die bit 12 of the package
address chooses, and a packet without an address takes e0. -/
def edgeRoute (a b : Nat) (addr : Option Nat) : List Nat :=
  match (b + 4 - a) % 4 with
  | 0 => []
  | 1 => [2 * a]
  | 3 => [2 * a + 1]
  | _ =>
    let y := match addr with
      | some x => x / 4096 % 2
      | none => 0
    if y = 0 then [2 * a, 2 * ((a + 1) % 4)] else [2 * a + 1, 2 * ((a + 3) % 4) + 1]

/-- R372: a response retraces the path of its request. -/
def edgeBack (r : List Nat) : List Nat := r.reverse.map edgePeer

/-- R371, R381: `n` lines cross the edges of a route: sent by each end on it, received by its peer. Every other effect of a crossing is
time. -/
def Dp.cross (r : List Nat) (n : Nat) (d : Dp) : Dp :=
  { d with edgeTx := r.foldl (fun t x => t.upd 0 x (fun c => satAdd c n)) d.edgeTx,
           edgeRx := r.foldl (fun t x => t.upd 0 (edgePeer x) (fun c => satAdd c n)) d.edgeRx }

/-- A line written to address `a` at location `l` by a unit of die `src` crosses to it; one read there comes back the same way. -/
def Dp.crossTo (src a : Nat) (l : Loc) (d : Dp) : Dp := d.cross (edgeRoute src l.home (some a)) 1
def Dp.crossFrom (src a : Nat) (l : Loc) (d : Dp) : Dp := d.cross (edgeBack (edgeRoute src l.home (some a))) 1

/-- R86, R156: a location lies in the partition of dies `dies`. -/
def Loc.inDies (l : Loc) (dies : Nat) : Bool :=
  match l.die with
  | some d => dies.testBit d
  | none => true

/-- The areas of R90, as a view-offset range. -/
def areaHas (area : BitVec 32) (o : Nat) : Bool :=
  decide ((bits area 16 16) * 2 ^ 26 ≤ o) && decide (o < (bits area 16 16 + bits area 0 16) * 2 ^ 26)

/-- R90: a location in the accumulation area, the staging area, the ember region of its stack. -/
def Mem.inAcc (m : Mem) : Loc → Bool
  | .local_ _ o => areaHas m.areaAcc o
  | _ => false
def Mem.inStage (m : Mem) : Loc → Bool
  | .local_ _ o => areaHas m.areaStage o
  | _ => false
def Mem.inEmber (m : Mem) : Loc → Bool
  | .local_ _ o => areaHas m.areaEmber o
  | _ => false

/-- Package address of the local view of stack `j` (R84). -/
def localAddr (j o : Nat) : Nat := 0xC000000000 + j * 2 ^ 36 + o
/-- Package addresses of a cluster's SRAM and accumulator bank (R84). -/
def sramAddr (i o : Nat) : Nat := 0x20000000000 + i * 2 ^ 22 + o
def accAddr (i o : Nat) : Nat := 0x20080000000 + i * 2 ^ 17 + o
def rbufAddr (d o : Nat) : Nat := 0x20084000000 + d * 2 ^ 24 + o

/-! ### Lines -/

/-- R85: an unmapped access (0 read, 1 write, 2 add-write): flagged, counted and recorded. -/
def unmapped (e : Env) (unit access a : Nat) (d : Dp) : Dp :=
  record e unit 0x21 false [(24, a % 2 ^ 64), (32, access)]
    { d with mem := { d.mem with unmapped := true, unmapCnt := satAdd d.mem.unmapCnt 1 } }

/-- R466: write an entry of the result log: kind, address, failing bits, state, source. -/
def logEntry (unit test kind : Nat) (addr bitsV : BitVec 64) (st src : Nat) (r : RLog) : RLog :=
  let n := r.head.toNat
  let v := BitVec.ofNat 256 (packBytes [(0, n), (4, unit % 2 ^ 16), (6, test), (7, kind), (8, addr.toNat), (16, bitsV.toNat), (24, st),
    (25, src), (28, n)])
  { r with head := r.head + 1, slots := r.slots.put 0 (n % 64) v }

/-- R88, R89: the pseudo-channel of a stack offset. -/
def pseudoChannel (o : Nat) : Nat := ((o >>> 8) ^^^ (o >>> 14)) % 64

/-- R466: a row of HBM as the result log names it: the stack offset of its first line, with the pseudo-channel in [63:58]. Which offset a
row begins at is the controller's own rule (R88). -/
def rowWord (k : Nat) : BitVec 64 :=
  BitVec.ofNat 64 ((Config.hbmRow (BitVec.ofNat 36 k)).toNat + pseudoChannel (k % 2 ^ 36) * 2 ^ 58)

/-- R466, R467: the log holds an open entry of unit `u` for the row at `row`. -/
def RLog.openRow (r : RLog) (u : Nat) (row : BitVec 64) : Bool :=
  r.slots.any (fun x => bits x.2 32 16 == u && bits x.2 56 8 == 2 && bits x.2 64 64 == row.toNat && bits x.2 192 8 == 0)

/-- R467: an error of a line of HBM at a physical key: its row is logged at its third correctable error within 24 h, and at once when
the error is uncorrectable, unless it has an open entry. -/
def rowError (e : Env) (key : Nat) (ue : Bool) (d : Dp) : Dp :=
  if key ≥ 2 ^ 40 then d
  else
    let j := key / 2 ^ 36
    let row := rowWord key
    let ces := if ue then d.rlog.ces
      else (j, row, e.tb) :: d.rlog.ces.filter (fun x => decide (e.tb.toNat < x.2.2.toNat + 86400000000000))
    let r := { d.rlog with ces := ces }
    let u := duid (j / 3) 2 (j % 3)
    if !(r.openRow u row) && (ue || decide ((ces.filter (fun x => x.1 == j && x.2.1 == row)).length ≥ 3)) then
      { d with rlog := logEntry u 0 2 row 0 0 1 r }
    else { d with rlog := r }

/-- R102: a correctable error is corrected, counted and recorded; HBM is rewritten. -/
def correct (e : Env) (unit a key : Nat) (loc : Loc) (d : Dp) : Dp :=
  let m := { d.mem with ceCnt := satAdd d.mem.ceCnt 1,
                        marks := if loc.memCode = 3 then d.mem.marks.put .none (key / 64) .none else d.mem.marks }
  let d := record e unit 0x28 false [(24, a), (32, loc.memCode)] { d with mem := m }
  if loc.memCode = 3 then rowError e key false d else d

/-- R103, R105, R106: an uncorrectable error: flagged, counted, the first address latched, recorded with its path. -/
def ueFound (e : Env) (unit path a mc : Nat) (d : Dp) : Dp :=
  let m := { d.mem with ue := true, ueCnt := satAdd d.mem.ueCnt 1,
                        ueAddr := if d.mem.ue then d.mem.ueAddr else BitVec.ofNat 64 (a % 2 ^ 48 + unit * 2 ^ 48) }
  let d := record e unit 0x29 false [(24, a), (32, mc), (33, path)] { d with mem := m }
  if mc = 3 then
    (if path = 1 then rowError e (hbmKey (3 * uidDie unit + unit % 256) a) true d
     else match d.mem.resolve a with
      | some l => rowError e (d.mem.key l) true d
      | none => d)
  else d

/-- R103: an uncorrectable error in data a read delivers to a unit voids the stroke; external poison in a stroke that is already voided
is one void with it. -/
def ueVoid (e : Env) (unit a mc : Nat) (d : Dp) : Dp :=
  let d := ueFound e unit 0 a mc d
  if mc = 4 && d.fr.voided then d else voidFault e 1 0 unit a d

/-- A read of one line that a unit's work makes at a mapped package location, as its controller makes it: the line, or none where the read
voids. -/
def readHome (e : Env) (unit a : Nat) (loc : Loc) (d : Dp) : Option (BitVec 512) × Dp :=
  let k := d.mem.key loc
  match d.mem.marks.get .none (k / 64) with
  | .none => (some (BitVec.ofNat 512 (readBytes d.mem.cells k 64)), d)
  | .ce => (some (BitVec.ofNat 512 (readBytes d.mem.cells k 64)), correct e unit a k loc d)
  | .ue => (none, ueVoid e unit a loc.memCode d)

/-- A read of one line by unit `unit`: the line crosses the edges between its die and the location's (R372). -/
def readLoc (e : Env) (unit a : Nat) (loc : Loc) (d : Dp) : Option (BitVec 512) × Dp :=
  let r := readHome e unit a loc d
  if r.1.isSome then (r.1, r.2.crossFrom (uidDie unit) a loc) else r

/-- R307: the residency counts after a line write at a physical key. -/
def Mem.stageWrite (m : Mem) (k : Nat) : Tab Nat :=
  let o := k % 2 ^ 36 - m.ilv.toNat * 2 ^ 26
  if k < 2 ^ 40 && decide (m.ilv.toNat * 2 ^ 26 ≤ k % 2 ^ 36) && areaHas m.areaStage o then
    m.staged.upd 0 (k / 2 ^ 36 * 2 ^ 16 + o / 2 ^ 20) (· + 1)
  else m.staged

/-- A whole line stored: fresh check bits (R105), a host-cached line back-invalidated (R116), a staging line counted (R307). -/
def Mem.store (m : Mem) (a k : Nat) (v : BitVec 512) : Mem :=
  let hit := m.snoop.contains (a / 64) && decide (a < 0xC000000000)
  { m with cells := writeBytes m.cells k 64 v.toNat, marks := m.marks.put .none (k / 64) .none,
           snoop := if hit then m.snoop.filter (fun x => x != a / 64) else m.snoop,
           backInv := if hit then m.backInv + 1 else m.backInv, staged := m.stageWrite k }

def storeLoc (a : Nat) (loc : Loc) (v : BitVec 512) (d : Dp) : Dp :=
  { d with mem := d.mem.store a (d.mem.key loc) v }

/-- R107: the host physical address behind an external window offset, and whether the entry admits the access. -/
def Mem.xtHpa (m : Mem) (n o : Nat) (write : Bool) : Option Nat :=
  let x := m.xt.get 0 n
  let kind := bits x 2 2
  if (kind == 1 || kind == 2) && (!write || bit x 1) then some ((bits x 36 28) * 2 ^ 36 + o) else none

/-! ### Partition state -/

/-- The state of partition `p`, and an update of it. -/
def Dp.getPart (d : Dp) (p : Nat) : Part := d.part.get {} p
def Dp.setPart (d : Dp) (p : Nat) (f : Part → Part) : Dp := { d with part := d.part.upd {} p f }

/-- The general state of unit `u`, and an update of it. -/
def Dp.getUnit (d : Dp) (u : Nat) : Unit := d.units.get {} u
def Dp.setUnit (d : Dp) (u : Nat) (f : Unit → Unit) : Dp := { d with units := d.units.upd {} u f }

/-- R77: a write outside its windows is suppressed, counted, and uncovers the partition. -/
def windowViolation (e : Env) (unit a : Nat) (d : Dp) : Dp :=
  let d := match e.ofUnit unit with
    | some p => d.setPart p.part (fun q => { q with
        winvCnt := satAdd q.winvCnt 1, covered := false, window := true,
        winvFirst := if q.window then q.winvFirst else BitVec.ofNat 32 (unit * 2 ^ 16 + e.stroke.toNat % 2 ^ 16) })
    | none => d
  record e unit 0x20 false [(24, 0), (28, a)] d

/-- R77, R227, R282: unit `u` may write the line at `a` in entry `n`. -/
def Env.mayWriteAt (e : Env) (u n a : Nat) : Bool :=
  match e.ofUnit u with
  | none => false
  | some p => p.img.inWindow u n (a / 64 * 64) && p.line != some (a / 64 * 64)

/-- R77, R282: unit `u` may write the line at `a` in the entry in force. -/
def Env.mayWrite (e : Env) (u a : Nat) : Bool := e.mayWriteAt u (e.entryOf u) a

/-- R77, R90, R282: unit `u` may store the line at `a`, location `l`: no unit of the script writes the ember region (a window over it
gives no right to; DESIGN CHOICE, log 91). -/
def Env.mayStore (e : Env) (m : Mem) (u a : Nat) (l : Loc) : Bool := e.mayWrite u a && !m.inEmber l

/-- R275: raise the blot flag of the partition that holds unit `u`; `src` is the row of R275's table, 1–5. -/
def raiseBlot (e : Env) (u src : Nat) (d : Dp) : Dp :=
  match e.ofUnit u with
  | none => d
  | some p => d.setPart p.part (fun q => { q with
      blot := true,
      strokeSrc := if q.strokeSrc = 0 then src else q.strokeSrc,
      strokeUnit := if q.strokeSrc = 0 then BitVec.ofNat 16 u else q.strokeUnit,
      lateSrc := if q.voted && q.lateSrc == 0 then src else q.lateSrc,
      lateUnit := if q.voted && q.lateSrc == 0 then BitVec.ofNat 16 u else q.lateUnit })

/-- R491: the line at `a` (at location `loc`) belongs to the tracked set of launch `p`. -/
def PEnv.tracks (p : PEnv) (m : Mem) (a : Nat) (loc : Loc) : Bool :=
  p.img.inAnyWindow a || p.img.inZero a || p.line == some a ||
    (match loc with
     | .local_ j _ => p.dies.testBit (j / 3) && (m.inEmber loc || m.inAcc loc || m.inStage loc)
     | .rbuf d _ => p.dies.testBit d
     | _ => false)

/-- R82: a host write into a tracked line: counted for every launch that tracks it, its partition uncovered, recorded. -/
def hostWrote (e : Env) (a : Nat) (loc : Loc) (d : Dp) : Dp :=
  let hit := e.parts.filter (fun p => p.tracks d.mem a loc)
  hit.foldl (fun d p =>
    record e hostUid 0x20 false [(24, 1), (28, a)]
      (d.setPart p.part (fun q => { q with hostWrCnt := satAdd q.hostWrCnt 1, hostWr := true, covered := false }))) d

/-- A host write of one line of package memory (R82, R105, R129). -/
def hostStore (e : Env) (a : Nat) (loc : Loc) (v : BitVec 512) (d : Dp) : Dp := storeLoc a loc v ((hostWrote e a loc d).crossTo 0 a loc)

/-- The free-value form of the sticky counters' update. -/
def Dp.sticky (d : Dp) (u : Nat) (f : Sticky → Sticky) : Dp := d.setUnit u (fun x => { x with sticky := f x.sticky })

/-- Add to a measuring counter of unit `u` at register offset `off`. -/
def Dp.perf (d : Dp) (u off n : Nat) : Dp := d.setUnit u (fun x => { x with perf := x.perf.upd 0 off (fun c => satAdd c n) })

end Sys2Proof.Machine
end

