-- ==== Sys2Proof/Machine/StateMgt.lean ====
section
/-! DEFINITION. The state of the die edges (ch. 15), power (ch. 16), lifecycle, security and self-test (ch. 19), the board (ch. 20)
and what the package has sent out, as plain data. -/

namespace Sys2Proof.Machine

/-! ### Die edges (R369–R381) -/

/-- DD_STAT.STATE (R381). -/
inductive EdgeState where
  | down | training | live | lock | fenced | defect
  deriving DecidableEq, Repr

/-- One edge end: state, training words, counters (its line counters lie beside the data path's), and the failed receptions of each slot
under replay, by 64 · module + place in the module's retry buffer (R374, R381). -/
structure EdgeEnd where
  state : EdgeState := .down
  train : BitVec 32 := 0
  peer : BitVec 32 := 0
  crcErr : BitVec 32 := 0
  retry : BitVec 32 := 0
  fails : Tab Nat := []
  deriving DecidableEq, Repr

/-- The die-to-die block (R381). DD_PKG.FENCED is the fault block's. -/
structure Edge where
  /-- Edge ends by 2 · die + edge. -/
  ends : Tab EdgeEnd
  sel : BitVec 3
  present : BitVec 4
  lost : BitVec 4
  defect : Bool
  freset : BitVec 8
  /-- An edge has failed training since the last reset, so a forced reset is due (R377). -/
  failed : Bool
  /-- A package fault of R379 stands since the last reset. -/
  faulted : Bool
  deriving DecidableEq, Repr

/-! ### Power (R382–R405) -/

/-- What a phase of a partition has taught (R387): energies per stroke, pJ. -/
structure Learned where
  dyn : Nat
  hbm : Nat
  deriving DecidableEq, Repr

/-- The energy accumulators of R402, pJ: UNATTRIB, partitions, compute queues; PACKAGE is their sum (entries 1 to 5). -/
structure Energy where
  unattrib : Nat
  part : Tab Nat
  queue : Tab Nat
  deriving DecidableEq, Repr

/-- The power controller, Damper. -/
structure Pw where
  /-- PW_SEL: PART [9:8], REGION [5:0]. -/
  sel : BitVec 10
  coldOk : Bool
  trimLim : Bool
  rampVF : Bool
  floorShort : Bool
  therm : Bool
  clampF : Bool
  noFit : Bool
  seeded : Bool
  /-- PW_CAP.CAP_W, FLOOR_W, RAMP_WMS. -/
  cap : BitVec 16
  floorW : BitVec 16
  ramp : BitVec 16
  /-- PW_NOW: MEAS_W, EST_W. -/
  meas : BitVec 16
  est : BitVec 16
  /-- Interval ends whose estimate exceeded CAP_EFF within 500 ms, newest first; and the decreasing peaks of that span (R395). -/
  pastCap : List Nat
  peaks : List (Nat × Nat)
  /-- The used time has reached 40 ms and not fallen below 35 ms (R389); 50 ms and not below 45 ms (R395). -/
  used40 : Bool
  used50 : Bool
  /-- The next interval is clamped (R395). -/
  clamp : Bool
  /-- Region voltages called for, mV, and junction temperatures, °C; regions in thermal emergency; regions tripped and gated. -/
  mv : Tab (BitVec 12)
  /-- R391: the supplies, µV, at time `uvAt`, on their way to `mv`. -/
  uv : Tab Nat
  uvAt : BitVec 64
  tj : Tab (BitVec 8)
  emerg : NSet
  tripped : Bool
  /-- T_in, in units of 1/5,000,000 °C (R398). -/
  tinAcc : Nat
  /-- Regions whose clock is stretched by a droop: level 1 to 3 (R396). -/
  droop : Tab Nat
  droopCnt : BitVec 32
  clampCnt : BitVec 32
  rampVCnt : BitVec 32
  /-- The scale of all coefficients, 65,536 for 1, and the estimated energy, pJ, since the last trim (R386). -/
  scale : Nat
  trimPj : Nat
  /-- OPP of each running partition in the current stroke, its choice for the next, and the last request (R390). -/
  opp : Tab Nat
  nextOpp : Tab Nat
  /-- The partitions, with their entries, that the choice for the next stroke was made for (R390). -/
  nextFor : List (Nat × Nat)
  kreq : BitVec 6
  held : Bool
  nextHeld : Bool
  nextNoFit : Bool
  /-- Learned energies by 4,096 · partition + phase (R387). -/
  learned : Tab (Option Learned)
  /-- Energies of the stroke in progress, pJ: package, region dynamic at 750 mV and HBM lines by partition. -/
  strokePj : Nat
  strokeDyn : Tab Nat
  strokeHbm : Tab Nat
  /-- R and the mean of the last stroke, mW (R392). -/
  refMw : Nat
  meanMw : Nat
  /-- The stroke in progress runs under NOFIT (R390, R392). -/
  noFitNow : Bool
  /-- Regions whose arrays free of work ran filler in the last 2 µs interval (R194, R393). -/
  fillRegions : NSet
  /-- The stroke in progress is the first Lit one after an idle state (R392). -/
  fromIdle : Bool
  fcastW : BitVec 16
  fcastSeed : Bool
  /-- Idle state of each partition: 0 Lit, 1 Glow, 2 Banked, 3 Cold; the state a waking one is waking to (R399–R401). -/
  idle : Tab Nat
  waking : Tab (Option Nat)
  /-- The whole package is in Cold. -/
  cold : Bool
  energy : Energy
  deriving DecidableEq, Repr

/-! ### Lifecycle, security and attestation (R446–R457) -/

/-- What a flash bank holds (R450, R454): nothing, the image the part shipped with, or an image written over PLDM. -/
inductive Bank where
  | empty
  | shipped
  | image (g : Image)
  deriving DecidableEq, Repr

/-- An SPDM session (R456): whether FINISH has secured it, its transport, and its key generation. -/
structure Sess where
  id : Nat
  secured : Bool
  doe : Bool
  gen : Nat
  deriving DecidableEq, Repr

/-- The security block. -/
structure Sec where
  /-- Lifecycle state in force since the last reset; the fused state; INSPECT held in the always-on domain; the pending target (7 none). -/
  lc : BitVec 3
  fuse : BitVec 3
  inspect : Bool
  pend : BitVec 3
  keyRev : BitVec 4
  keyPres : BitVec 4
  /-- The identity private key is present. -/
  idKey : Bool
  svn : BitVec 8
  fwSvn : BitVec 16
  fwAct : BitVec 32
  fwStg : BitVec 32
  acv : BitVec 8
  /-- Flash: banks A and B, the active bank (false A), whether the inactive bank is activated, bank booted, fallback. -/
  bankA : Bank
  bankB : Bank
  active : Bool
  armed : Bool
  booted : Bool
  fallback : Bool
  /-- The content of the bank that booted, as it runs until the next boot (R457). -/
  ran : Bank
  /-- A PLDM transfer in progress: its length and bytes so far. -/
  xfer : Option Image
  /-- The nonce last issued and the time it was issued at; nonces and signatures drawn so far (the model's own count). -/
  nonce : Option (BitVec 384 × BitVec 64)
  drawn : Nat
  /-- SPDM: the version negotiated (12 or 13), sessions, and the rest of a response too long for one message. -/
  version : Option Nat
  sessions : List Sess
  large : List Byte
  /-- CXL IDE keys by stream and direction, and whether they are in use. -/
  ideKeys : Tab (BitVec 256)
  ideOn : Bool
  deriving DecidableEq, Repr

/-! ### Self-test (R458–R470) -/

/-- A self-test accepted and not ended. -/
structure Test where
  q : Nat
  seq : Nat
  unit : Nat
  code : Nat
  /-- It was accepted under a launch and runs in passes (R461). -/
  passes : Nat
  underLaunch : Bool
  /-- Work left, ns at the rate of R458. -/
  left : Nat
  /-- The block is powered for the test. -/
  powered : Bool
  /-- The stroke of its latest pass and the work left before it (R461). -/
  passAt : Option (BitVec 64 × Nat)
  deriving DecidableEq, Repr

/-- A SELFTEST that waits for S+10 µs of its service stroke before it is decided (R459). -/
structure Undecided where
  q : Nat
  seq : Nat
  unit : Nat
  code : Nat
  deriving DecidableEq, Repr

/-- The self-test block. -/
structure St where
  budget : BitVec 16
  tests : List Test
  undecided : List Undecided
  pass : BitVec 32
  fail : BitVec 32
  refuse : BitVec 32
  /-- Time of the last power-up of a block under test, plus one; 0: none (R465). -/
  lastUp : Nat
  /-- Spare lines used by 64 · cluster + bank (accumulator banks from 32 on), and rows repaired by stack (R468). -/
  usedLines : Tab Nat
  usedRows : Tab Nat
  deriving DecidableEq, Repr

/-! ### Board and bring-up (R471–R490) -/

/-- BU_STAT.STAGE (R490). -/
inductive Stage where
  | rom | fwcheck | waitEn | rails | train | ready | romHold | defect
  deriving DecidableEq, Repr

/-- The bring-up block, pins and management bus. -/
structure Bu where
  stage : Stage
  vinHi : Bool
  vinLo : Bool
  refOk : Bool
  mainOn : Bool
  vin : BitVec 16
  iin : BitVec 16
  slot : BitVec 6
  rstCause : BitVec 8
  bootMs : BitVec 32
  /-- Time base at the last reset. -/
  resetAt : BitVec 64
  /-- The reference is present (R477, R478); REF_OK returns only with a package reset. -/
  refIn : Bool
  /-- Pins: PWR_EN in; PERST_N asserted; THERMTRIP_N low; CXL reference and link need PERST_N high. -/
  pwrEn : Bool
  perst : Bool
  thermTrip : Bool
  /-- The package is dark: its input is lost (R474). -/
  dark : Bool
  /-- Firmware runs (R450). -/
  booted : Bool
  /-- I3C dynamic address, MCTP endpoint, transmission unit (R479). -/
  i3c : Option (BitVec 7)
  eid : BitVec 8
  mtu : Nat
  /-- PLDM sensors 1 to 7, and the level of each last signalled (R484). -/
  sensors : Tab Nat
  levels : Tab Nat
  deriving DecidableEq, Repr

/-- STAGE reads READY: PGOOD is high (R475, R485). -/
def Bu.ready (b : Bu) : Bool := b.stage == .ready

/-- The CAPT is valid (R29, R485). -/
def Bu.captOk (b : Bu) : Bool := b.ready && b.booted

/-- Responses of the SPDM responder, IDE_KM, MCTP control and PLDM, by content (R456, R457, R479, R484). -/
inductive Resp where
  | version (l : List Nat)
  | capabilities
  | algorithms
  | digests (slot0 : Option (BitVec 384))
  | certificate (part : List Byte) (rest : Nat)
  | challengeAuth (digest : BitVec 384) (sig : BitVec 768)
  | measurements (blocks : List (Nat × List Byte)) (sig : Option (BitVec 768))
  | keyExchange (session : Nat) (sig : BitVec 768)
  | finished (session : Nat)
  | keyUpdated (session : Nat)
  | heartbeat (session : Nat)
  | ended (session : Nat)
  | chunk (part : List Byte) (last : Bool)
  | ideKm
  /-- SPDM ERROR, code Unspecified. -/
  | unspecified
  /-- SPDM ERROR for a request outside what is supported or out of place. -/
  | unexpected
  | mctpEid (eid : BitVec 8)
  | mctpTypes (l : List Nat)
  | mctpUnit (n : Nat)
  | unsupported
  | pldmOk
  | pldmRefused
  | pldmBusy
  /-- A PLDM platform event: sensor and level (0 normal, 1 warning, 2 critical, 3 fatal). -/
  | sensorEvent (id level : Nat)
  deriving DecidableEq, Repr

/-- What the package has given the outside world: the answer to the last read, and messages, newest first. -/
structure Out where
  /-- Value the last register read returned (R13, R36). -/
  rdata : BitVec 64
  /-- Line the last CXL.mem read returned, and its poison indication (R100, R105). -/
  line : BitVec 512
  poison : Bool
  /-- Messages of the PMC to the management controller. -/
  mgmt : List (List (BitVec 8))
  /-- SPDM, MCTP control and PLDM responses and events. -/
  resp : List Resp
  deriving DecidableEq, Repr

end Sys2Proof.Machine
end

