-- ==== Sys2Proof/Machine/State.lean ====
section
/-! DEFINITION. The state of the package as plain data, its reset, and the reasons a step can stop. -/

namespace Sys2Proof.Machine

/-- The package: the queue of waiting commands and every block of the spec. -/
structure State where
  pending : List Instr
  clk : Clk
  hp : Hp
  scr : Scr
  dp : Dp
  torus : Torus
  edge : Edge
  pw : Pw
  sec : Sec
  st : St
  bu : Bu
  out : Out
  deriving DecidableEq, Repr

/-- Faults that stop the machine. The spec gives every command of the table an effect, so no meaning raises one; a fault of the
package (R428) is an effect on its state. -/
inductive Fault where
  /-- Raised by no meaning; safe. -/
  | unreachable
  deriving DecidableEq, Repr

/-- Refusals. -/
inductive Refusal where
  /-- Raised by an arm of the dispatch whose command has no meaning yet; safe: nothing can be proved of what follows it. -/
  | notModelled (mnemonic : String)
  deriving DecidableEq, Repr

/-! ### Reset (R486, power-on) -/

/-- R60: the time and stroke block at reset. -/
def Clk.reset : Clk where
  running := false
  tb := 0
  holdAt := 0
  lock := .free
  stepped := false
  acquired := false
  role := .member
  hops := 0xFF
  upPort := 0
  upDir := 7
  trim := 0
  ofs := 0
  stroke := 0
  sstart := 0
  k := 0
  period := 400
  downNs := 420
  cwNs := 720
  lateCnt := 0
  stretchCnt := 0
  podSkew := 0x80000000
  lateMax := 0
  joined := false
  kids := []
  kidDone := []
  kidNext := []
  own := 0
  doneNs := 0
  sent := none
  lastSent := 0
  go := none
  goAt := 0
  req := none
  reqK := 0

/-- R143, R144: the host port at reset; QCFG.VECTOR of queue q is q. -/
def Hp.reset : Hp where
  viral := false
  cfgRej := false
  ide := false
  memEn := false
  cacheEn := false
  degraded := false
  speed := 0
  width := 0
  dbBase := 0
  hdmErr := false
  errIde := false
  errViral := false
  errDown := false
  errQ := false
  queues := (List.range 80).map (fun i => (i + 1, { vector := BitVec.ofNat 8 (i + 1) }))
  rdvs := []
  qctl := []
  ectl := []
  hostOps := []
  latch := []
  sels := { mx := 0, sd := 0, sdCh := 0, tf := 0, tv := 0, ts := 0, upPart := 0, upStack := 0, upCfgRej := false, flCg := 0, flDie := 0,
            dg := 0 }

/-- R136, R165: no script; partition 0 covers all four dies and all 16 compute queues. -/
def Scr.reset : Scr where
  slots := []
  lastRef := 0
  parts := [(0, { dies := 0xF, qmask := 0xFFFF })]

/-- R111, R112: memory and its block at reset. -/
def Mem.reset : Mem where
  cells := []
  host := []
  poison := []
  marks := []
  localGib := 0
  ilv := 0x3FF
  layoutOn := false
  ink := 1
  areaStage := 0
  areaAcc := 0
  areaEmber := 0
  cfgRej := false
  ue := false
  unmapped := false
  ceCnt := 0
  ueCnt := 0
  unmapCnt := 0
  ueAddr := 0
  hdmBase := 0
  hdmSize := 0
  xt := []
  snoop := []
  backInv := 0
  staged := []
  isoRegions := 0
  isoStacks := 0

/-- R423–R427: the event recorder and trace block at reset. -/
def Log.reset : Log where
  ready := false
  hperiod := 2500
  fillLog2 := 10
  irqSev := 2
  holdSev := 2
  head := 0
  cursor := 0
  mark := 0
  ring := []
  hold := []
  held := []
  ovldF := false
  hdropF := false
  ovld := 0
  hdrop := 0
  supp := 0
  rate := defaultRates
  rateNext := defaultRates
  counts := []
  inBucket := []
  suppressed := []
  bucket := 0
  irqLast := none
  irqWait := false
  hist := []
  rings := []
  eseq := []
  trSel := 0
  snap := []
  snapTs := 0
  snapBad := false
  classes := 0
  spillPorts := false
  spill := false
  freeze := false
  auto := false
  frozen := false
  spillQ := []
  spillDrop := 0
  inkOff := 0
  inkStack := 0
  inkLine := []
  inkWraps := []
  rtag := 0

/-- R145: every MSI-X vector is masked, as the PCIe definition resets it. -/
def Irq.reset : Irq where
  enable := false
  fmask := false
  table := (List.range 84).map (fun v => (4 * v + 3, 1))
  pba := []
  last := []
  waiting := []
  sent := []

/-- R445: the fault block at reset. -/
def Fr.reset : Fr where
  multi := false
  newRep := false
  regen := false
  restoring := false
  replay := false
  hold := false
  spare := false
  restore := false
  last := 0
  count := 0
  reports := []
  rbase := 0
  rsplit := 0
  xbase := 0
  xstride := 0
  recpt := 0
  recStep := 0
  resume := 0
  pendHold := false
  replayCnt := 0
  rollbackCnt := 0
  restoredCnt := 0
  open_ := []
  stalls := []
  fenced := false
  voided := false
  voidCause := 0
  tainted := false
  ownTally := []
  prevs := []
  heldTally := []
  inTally := []
  inGot := []
  toMgmt := []
  jobStop := none
  awaited := []

/-- The data path at reset. -/
def Dp.reset : Dp where
  mem := .reset
  log := .reset
  irq := .reset
  fr := .reset
  units := []
  mxa := []
  brush := []
  idx := []
  dgu := []
  upu := []
  cle := []
  part := []
  snap := {}
  rlog := { head := 0, slots := [], ces := [] }
  edgeTx := []
  edgeRx := []

/-- R317, R344: the torus at reset: ports DOWN, no placement, UP_EMBCFG 0x77. -/
def Torus.reset : Torus where
  ports := []
  sel := 0
  vcw := 0x1348
  bank := false
  pkgTab := []
  podTab := []
  pkgShadow := []
  podShadow := []
  remap := []
  remapShadow := []
  commit := none
  refused := false
  placed := false
  vcwRej := false
  coord := 0
  shape := 0
  neigh := []
  cgs := []
  cgOpen := []
  embCfg := 0x77
  hseq := []
  seen := []
  top := []
  inbox := []
  waiting := []
  rot := []
  awaits := []
  later := []

/-- R381: the die-to-die block at reset. -/
def Edge.reset : Edge where
  ends := []
  sel := 0
  present := 0
  lost := 0
  defect := false
  freset := 0
  failed := false
  faulted := false

/-- R403: the power block at reset. -/
def Pw.reset : Pw where
  sel := 0
  coldOk := false
  trimLim := false
  rampVF := false
  floorShort := false
  therm := false
  clampF := false
  noFit := false
  seeded := false
  cap := 2600
  floorW := 0
  ramp := 20
  meas := 0
  est := 0
  pastCap := []
  peaks := []
  used40 := false
  used50 := false
  clamp := false
  mv := []
  uv := []
  uvAt := 0
  tj := []
  emerg := []
  tripped := false
  tinAcc := 0
  droop := []
  droopCnt := 0
  clampCnt := 0
  rampVCnt := 0
  scale := 65536
  trimPj := 0
  opp := []
  nextOpp := []
  nextFor := []
  kreq := 0
  held := false
  nextHeld := false
  nextNoFit := false
  learned := []
  strokePj := 0
  strokeDyn := []
  strokeHbm := []
  refMw := 0
  meanMw := 0
  noFitNow := false
  fillRegions := []
  fromIdle := false
  fcastW := 0
  fcastSeed := false
  idle := []
  waking := []
  cold := false
  energy := { unattrib := 0, part := [], queue := [] }

/-- R469: a shipped part in FIELD (LC_STAT 0x779), its firmware in bank A. -/
def Sec.reset : Sec where
  lc := 1
  fuse := 1
  inspect := false
  pend := 7
  keyRev := 0
  keyPres := 7
  idKey := true
  svn := 0
  fwSvn := 0
  fwAct := 0
  fwStg := 0
  acv := 3
  bankA := .shipped
  bankB := .empty
  active := false
  armed := false
  booted := false
  fallback := false
  ran := .empty
  xfer := none
  nonce := none
  drawn := 0
  version := none
  sessions := []
  large := []
  ideKeys := []
  ideOn := false

/-- R470: the self-test block at reset. -/
def St.reset : St where
  budget := 150
  tests := []
  undecided := []
  pass := 0
  fail := 0
  refuse := 0
  lastUp := 0
  usedLines := []
  usedRows := []

/-- R490: the bring-up block at reset. -/
def Bu.reset : Bu where
  stage := .rom
  vinHi := false
  vinLo := false
  refOk := false
  mainOn := false
  vin := 0
  iin := 0
  slot := 0
  rstCause := 0
  bootMs := 0
  resetAt := 0
  refIn := false
  pwrEn := false
  perst := true
  thermTrip := false
  dark := false
  booted := false
  i3c := none
  eid := 0
  mtu := 64
  sensors := []
  levels := []

/-- Nothing sent, nothing read. -/
def Out.reset : Out where
  rdata := 0
  line := 0
  poison := false
  mgmt := []
  resp := []

/-- The package after power-on reset (R486), before the reference is stable: no command waits. -/
def State.reset : State where
  pending := []
  clk := .reset
  hp := .reset
  scr := .reset
  dp := .reset
  torus := .reset
  edge := .reset
  pw := .reset
  sec := .reset
  st := .reset
  bu := .reset
  out := .reset

end Sys2Proof.Machine
end

