-- ==== Sys2Proof/Machine/Sys.lean ====
section
/-! DEFINITION. Shared operations over the whole package: the environment of the data path, records from any block, partitions and
launches, and completions of descriptors (R122, R138, R139). -/

namespace Sys2Proof.Machine

/-- Package index and pod of the placement (R336, PL_COORD). -/
def Torus.pkg (t : Torus) : Nat := bits t.coord 0 12
def Torus.pod (t : Torus) : Nat := bits t.coord 16 6

def State.getPartn (s : State) (p : Nat) : Partition := s.scr.parts.get {} p
def State.setPartn (s : State) (p : Nat) (f : Partition → Partition) : State :=
  { s with scr := { s.scr with parts := s.scr.parts.upd {} p f } }
def State.getQ (s : State) (q : Nat) : Queue := s.hp.queues.get {} q
def State.setQ (s : State) (q : Nat) (f : Queue → Queue) : State :=
  { s with hp := { s.hp with queues := s.hp.queues.upd {} q f } }

/-- The image a partition's launch runs. -/
def State.imageOf (s : State) (l : Launch) : Option Image := s.scr.slots.get none l.slot.val

/-- R114: QREADY. -/
def State.qready (s : State) : Bool := s.bu.captOk && s.hp.cacheEn

/-- What the running launch of partition `p` gives its units. -/
def State.penv (s : State) (p : Nat) : Option PEnv :=
  match (s.getPartn p).launch with
  | none => none
  | some l =>
    match s.imageOf l with
    | none => none
    | some g =>
      let q := s.dp.getPart p
      some { part := p, dies := (s.getPartn p).dies.toNat, img := g, entry := l.entry,
             runs := (l.began || s.dp.fr.regen) && !s.dp.fr.fenced && !s.pw.tripped &&
               (!s.dp.fr.hold || (s.dp.fr.regen && !l.regen.isEmpty)), zeroing := l.zeroing,
             line := if q.lineOk && q.lineEn then some q.lineAddr.toNat else none }

/-- The environment of the data path. -/
def State.env (s : State) : Env where
  tb := s.clk.tb
  stroke := s.clk.stroke
  pkg := s.torus.pkg
  pod := s.torus.pod
  qready := s.qready
  parts := [0, 1, 2, 3].filterMap s.penv
  linkUp := s.hp.speed != 0

/-- Apply an operation of the data path. -/
def State.onDp (s : State) (f : Env → Dp → Dp) : State := { s with dp := f s.env s.dp }

/-- Write a record from source `unit` (R406). -/
def State.note (s : State) (unit code : Nat) (pay : List (Nat × Nat)) : State := s.onDp (fun e => record e unit code false pay)

/-- A launch runs on some partition: a script is launched on the package (R35, R108, R336). -/
def State.launched (s : State) : Bool := [0, 1, 2, 3].any (fun p => (s.getPartn p).launch.isSome)

/-- R143: the device sets an HP_ERR bit and fires vector 81. -/
def State.hpIrq (s : State) : State := s.onDp (fun e d => { d with irq := d.irq.fire e 81 })

/-- R123: header fields of a descriptor. -/
def dType (d : BitVec 512) : Nat := bits d 0 8
def dIrq (d : BitVec 512) : Bool := bit d 8
def dFencePre (d : BitVec 512) : Bool := bit d 9
def dNoComp (d : BitVec 512) : Bool := bit d 10
def dTag (d : BitVec 512) : BitVec 16 := d.extractLsb' 16 16

/-- Advance the count of descriptors completed without a gap (DONE_LO, R144). -/
def advanceDone : Nat → Nat → List Nat → Nat × List Nat
  | 0, n, l => (n, l)
  | k + 1, n, l => if l.contains n then advanceDone k (n + 1) (l.filter (fun x => x != n)) else (n, l)

/-- R138: descriptor `seq` of queue `q` completes; its record waits for ring space unless NOCOMP and OK. -/
def Queue.finish (x : Queue) (seq status detail : Nat) (value : BitVec 64) (deferred : Bool) : Queue :=
  match x.fetched.find? (fun y => y.seq == seq) with
  | none => x
  | some y =>
    let r : Cqe := { seq := seq, tag := dTag y.d, typ := y.d.extractLsb' 0 8, irq := dIrq y.d, status := BitVec.ofNat 8 status,
                     detail := BitVec.ofNat 32 detail, value := value, deferred := deferred }
    let a := advanceDone (x.doneSet.length + 1) x.doneCnt (NSet.add x.doneSet seq)
    { x with fetched := x.fetched.filter (fun z => z.seq != seq),
             comps := if dNoComp y.d && status == 0 then x.comps else x.comps ++ [r],
             doneCnt := a.1, doneSet := a.2 }

def State.finish (s : State) (q seq status detail : Nat) (value : BitVec 64) (deferred : Bool := false) : State :=
  s.setQ q (fun x => x.finish seq status detail value deferred)

/-- Statuses of R139. -/
def stOk : Nat := 0
def stDisabled : Nat := 1
def stBusy : Nat := 2
def stCapt : Nat := 3
def stBadOp : Nat := 4
def stBadField : Nat := 5
def stBadAddr : Nat := 6
def stScript : Nat := 7
def stLaunch : Nat := 8
def stPoison : Nat := 9
def stAbandoned : Nat := 0xA
def stStopped : Nat := 0xB
def stFault : Nat := 0xC
def stWrongQ : Nat := 0xD
def stPassed : Nat := 0xE
def stNoPlace : Nat := 0xF

/-- R429, R444: the recovery of the open fault of class `cls` is complete: its report is rewritten. -/
def completeRecov (e : Env) (cls : Nat) (d : Dp) : Dp :=
  match d.fr.open_.find? (fun r => r.cls == cls) with
  | none => d
  | some r =>
    let old := d.fr.reports.get 0 (r.report % 12)
    let new := BitVec.ofNat 512 (old.toNat % 2 ^ 288 + packBytes [(36, d.fr.recpt.toNat), (44, d.fr.recStep.toNat),
      (52, e.tb.toNat), (60, r.report % 2 ^ 32)])
    { d with irq := d.irq.fire e 83,
             fr := { d.fr with open_ := d.fr.open_.filter (fun x => x.cls != cls), reports := d.fr.reports.put 0 (r.report % 12) new,
                               toMgmt := new :: d.fr.toMgmt,
                               stalls := if cls = 8 then NSet.add d.fr.stalls r.entry else d.fr.stalls } }

/-- R366: host-issued operations of the queues named end on every Flue. -/
def Dp.dropHostOps (d : Dp) (p : Nat → Bool) : Dp :=
  { d with cle := d.cle.map (fun x => (x.1, { x.2 with ops := x.2.ops.filter (fun o => match o.host with
      | some (q, _) => !(p q)
      | none => true) })) }

/-- Move the time base on to an instant, never back. -/
def Clk.advance (c : Clk) (t : Nat) : Clk :=
  if c.running && decide (c.tb.toNat < t) then { c with tb := BitVec.ofNat 64 t } else c
def State.advance (s : State) (t : Nat) : State := { s with clk := s.clk.advance t }

end Sys2Proof.Machine
end

