-- ==== Sys2Proof/Machine/PowerOps.lean ====
section
/-! DEFINITION. Shared operations of the power controller (16_power_and_thermal.md): operating points and voltages (R383, R384), idle
states (R399–R401), the budget (R389, R397, R398), predictions (R387, R388) and the choice of each stroke's operating point (R390–R393). -/

namespace Sys2Proof.Machine

/-- Change the power block. -/
def State.onPw (s : State) (f : Pw → Pw) : State := { s with pw := f s.pw }

/-- R57: P × (16 + k) / 16 in whole nanoseconds. -/
def stretched (pUs k : Nat) : Nat := pUs * 1000 * (16 + k) / 16

/-! ### Operating points -/

/-- R383: the OPP table, MHz and mV. -/
def oppTab : List (Nat × Nat) :=
  [(2100, 750), (2000, 725), (1925, 705), (1850, 690), (1750, 670), (1650, 650), (1550, 630), (1450, 610), (1350, 590), (1250, 575),
   (1100, 555), (1000, 540), (900, 525), (800, 510), (700, 500), (600, 500)]
def oppMhz (o : Nat) : Nat := (oppTab.getD o (600, 500)).1

/-- R384: linear interpolation between adjacent entries at the frequency num / den, rounded up to a multiple of 5 mV. -/
def voltScan (num den : Nat) : List (Nat × Nat) → Nat
  | (f1, v1) :: (f0, v0) :: r =>
    if f0 * den ≤ num then 5 * ceilDiv (v0 * den * (f1 - f0) + (v1 - v0) * (num - f0 * den)) (5 * den * (f1 - f0))
    else voltScan num den ((f0, v0) :: r)
  | _ => 500

/-- R384: the voltage of a region whose lowest fused fmax is `fmax`, at `f` MHz. -/
def voltAt (fmax f : Nat) : Nat := max 500 (voltScan (f * 2100) fmax oppTab)

/-- R384: the voltage of region `r` at OPP `o`. -/
def oppMv (r o : Nat) : Nat := voltAt (Config.regionFmax r) (oppMhz o)

/-! ### Idle states -/

/-- The partition that holds die `d`. -/
def State.partOfDie (s : State) (d : Nat) : Option Nat := [0, 1, 2, 3].find? (fun p => (s.getPartn p).dies.getLsbD d)

/-- R158, R159: the entry in force of the launch on partition `p` is a service stroke that names region `r`. -/
def State.serviced (s : State) (p r : Nat) : Bool :=
  match (s.getPartn p).launch with
  | none => false
  | some l =>
    match s.imageOf l with
    | none => false
    | some g => l.began && bit (g.stroke l.entry) 16 && bit (g.stroke l.entry) (64 + r)

/-- R400: the idle state of a partition, 0 Lit to 3 Cold. -/
def State.idleOf (s : State) (p : Nat) : Nat := s.pw.idle.get 0 p

/-- R159, R400: the state of region `r`: that of its partition; Banked in no partition or named by a service stroke. -/
def State.regionIdle (s : State) (r : Nat) : Nat :=
  if s.pw.cold then 3
  else match s.partOfDie (r / 16) with
  | none => 2
  | some p => if s.serviced p r then 2 else s.idleOf p

/-- R400: the package state: the shallowest of any partition; unassigned dies count as Banked. -/
def State.pkgIdle (s : State) : Nat :=
  if s.pw.cold then 3
  else
    let un := [0, 1, 2, 3].any (fun d => (s.partOfDie d).isNone)
    [0, 1, 2, 3].foldl (fun m p => if (s.getPartn p).dies = 0 then m else min m (s.idleOf p)) (if un then 2 else 3)

/-- R402: compute queues of partition `p` that hold a started, uncompleted descriptor; a running launch counts for its queue. -/
def State.busyQueues (s : State) (p : Nat) : List Nat :=
  (List.range 16).filter (fun q => (s.getPartn p).qmask.getLsbD q &&
    ((s.getQ q).fetched.any (fun y => y.started) || (match (s.getPartn p).launch with
      | some l => l.q == q
      | none => false)))

/-- R400: a partition is idle. -/
def State.partIdle (s : State) (p : Nat) : Bool :=
  (s.getPartn p).launch.isNone && (s.busyQueues p).isEmpty && s.hp.hostOps.isEmpty

/-- R399: the deepest state a latency permits: 0 Lit, 1 Glow, 2 Banked, 3 Cold. -/
def deepest (lat : Nat) : Nat := if lat < 2 then 0 else if lat < 150 then 1 else if lat < 40000 then 2 else 3

/-- R376, R401: a trigger wakes partition `p` to state `dst` when it is deeper; the first from Cold clears COLD_OK, brings the dies' PLLs
up and trains the edges. -/
def State.wake (s : State) (p dst : Nat) : State :=
  if s.idleOf p ≤ dst then s
  else
    let first := s.pw.cold && s.pw.waking.all (fun (x : Nat × Option Nat) => x.2.isNone)
    let s := s.onPw (fun w => { w with waking := w.waking.upd none p (fun x => some (min dst (x.getD 3))) })
    if first then
      { s with pw := { s.pw with coldOk := false },
               edge := { s.edge with present := 0xF,
                                     ends := (List.range 8).foldl (fun t i => t.upd {} i (fun x => { x with state := .training })) s.edge.ends } }
    else s

/-- R401: a doorbell write of queue `q` wakes its partition. -/
def State.wakeOfQueue (s : State) (q : Nat) : State :=
  match (if q < 16 then [0, 1, 2, 3].find? (fun p => (s.getPartn p).dies != 0 && (s.getPartn p).qmask.getLsbD q) else none) with
  | some p => s.wake p 0
  | none => s

/-! ### Budget (R389, R395, R397, R398) -/

/-- Tj_max and its region (lowest on ties). -/
def Pw.tjMax (w : Pw) : Nat × Nat :=
  w.tj.foldl (fun (a : Nat × Nat) (x : Nat × BitVec 8) => if a.1 < x.2.toNat then (x.2.toNat, x.1) else a) (0, 0)
/-- T_in, whole °C (R398). -/
def Pw.tin (w : Pw) : Nat := w.tinAcc / 5000000

/-- R389: CAP_EFF, W. -/
def Pw.capEff (w : Pw) : Nat :=
  let thermal := w.cap.toNat - 40 * (w.tjMax.1 - 95)
  let coolant := 2600 - 60 * (w.tin - 40)
  min w.cap.toNat (min thermal coolant) - (if w.used40 then 100 else 0)

/-- R395: used time in the trailing 500 ms, µs. -/
def Pw.usedUs (w : Pw) : Nat := 2 * w.pastCap.length

/-- R391: the supply of region `r` at time `tb`, µV: a region that is not power-gated moves to its voltage at 25 mV/µs; one that comes
out of power gating stands at it. -/
def Pw.uvNow (w : Pw) (tb r : Nat) : Nat :=
  let t := 1000 * (w.mv.get 0 r).toNat
  let u := w.uv.get 0 r
  let d := 25 * (tb - w.uvAt.toNat)
  if t = 0 || u = 0 then t else if u ≤ t then min t (u + d) else max t (u - d)

/-- R384, R391: the voltage in force in region `r`, mV, and how far its supply lies below the one called for. -/
def State.supplyMv (s : State) (r : Nat) : Nat := s.pw.uvNow s.clk.tb.toNat r / 1000
def State.supplyLow (s : State) (r : Nat) : Nat := (s.pw.mv.get 0 r).toNat - s.supplyMv r

/-- R391: new voltages are called for; the supplies move on from where they stand. -/
def State.callVolts (s : State) (mv : Tab (BitVec 12)) : State :=
  let uv := (List.range 64).foldl (fun (t : Tab Nat) r => t.put 0 r (s.pw.uvNow s.clk.tb.toNat r)) []
  s.onPw (fun w => { w with mv := mv, uv := uv, uvAt := s.clk.tb })

/-- R392: the ramp step of a stroke of `ns` nanoseconds, mW. -/
def Pw.stepMw (w : Pw) (ns : Nat) : Nat := w.ramp.toNat * ns / 1000

/-! ### Estimates and predictions -/

/-- R385, R400: the fixed domains of a package state, mW: of each die, and of the always-on domain. -/
def fixedMw : Nat → Nat × Nat
  | 0 => (139500, 100000)
  | 1 => (80000, 10000)
  | 2 => (45000, 10000)
  | _ => (4500, 17000)

def State.fixedTotal (s : State) : Nat := 4 * (fixedMw s.pkgIdle).1 + (fixedMw s.pkgIdle).2

/-- Leakage of region `r` at `mv`, mW; none while power-gated. -/
def Pw.leak (w : Pw) (r mv : Nat) : Nat := if mv = 0 then 0 else Config.leakMw r mv (w.tj.get 0 r).toNat

/-- The regions of a mask of dies. -/
def regionsOf (dies : BitVec 4) : List Nat := (List.range 64).filter (fun r => dies.getLsbD (r / 16))

/-- R387: the mean of (V / 750 mV)² over the regions of a partition at OPP `o`, in units of 1/562,500. -/
def State.vsq (s : State) (p o : Nat) : Nat :=
  let rs := regionsOf (s.getPartn p).dies
  (rs.map (fun r => (oppMv r o) ^ 2)).foldl (· + ·) 0 / max 1 rs.length

/-- The phase of a launch's entry. -/
def Image.phaseWord (g : Image) (e : Nat) : Nat := g.phase (g.phaseOf e)
def Image.planMhz (g : Image) (e : Nat) : Nat := g.phaseWord e % 2 ^ 16
def Image.prefOpp (g : Image) (e : Nat) : Nat := (g.phaseWord e >>> 16) % 256

/-- R388: D of a phase's HINT, W. -/
def hintW : Nat → Nat
  | 2 => 900 | 3 => 500 | 4 => 700 | 5 => 600 | 6 => 50 | 7 => 1942 | _ => 1617

/-- R388: the seed of a phase, pJ per stroke of `ns` nanoseconds. -/
def Image.seedPj (g : Image) (ph ns : Nat) : Nat :=
  let f := match (List.range g.entries).find? (fun e => g.phaseOf e == ph) with
    | some e => bits (g.stroke e) 32 16
    | none => 0
  (if f != 0 then f - 958 else hintW ((g.phase ph >>> 24) % 256)) * 1000 * ns

/-- R387, R388: the learned energies of a phase of partition `p`, or its seed; and whether it is the seed. -/
def State.energyOf (s : State) (p : Nat) (g : Image) (ph : Nat) : Learned × Bool :=
  match s.pw.learned.get none (4096 * p + ph) with
  | some x => (x, false)
  | none => (⟨g.seedPj ph (s.clk.period.toNat * 1000), 0⟩, true)

/-- A partition's part of a stroke to come: partition, image, entry. -/
structure Slice where
  p : Nat
  g : Image
  e : Nat

/-- R387, R400: the leakage of the regions of no slice, at their idle voltage, mW. -/
def State.idleLeakMw (s : State) (ps : List Nat) : Nat :=
  ((List.range 64).map (fun r => match s.partOfDie (r / 16) with
    | some p => if ps.contains p || s.regionIdle r ≥ 2 then 0 else s.pw.leak r 500
    | none => 0)).foldl (· + ·) 0

/-- R387: the predicted dynamic and leakage power of a slice at OPP `o` over `ns` nanoseconds, mW. -/
def State.sliceMw (s : State) (x : Slice) (o ns : Nat) : Nat :=
  let l := (s.energyOf x.p x.g (x.g.phaseOf x.e)).1
  (l.dyn * s.vsq x.p o / 562500 + l.hbm) / max 1 ns +
    ((regionsOf (s.getPartn x.p).dies).map (fun r => s.pw.leak r (oppMv r o))).foldl (· + ·) 0

/-- The entry a launch runs in the next stroke. -/
def Image.nextEntry (g : Image) (e : Nat) : Nat := if e + 1 < g.entries then e + 1 else g.pro

/-- R272: the step close of the launch's last body entry ends it. -/
def Launch.endsNext (l : Launch) (g : Image) (step : Nat) : Bool :=
  decide (l.entry + 1 = g.entries) &&
    ((l.steps != 0 && decide (step + 1 = l.step0.toNat + l.steps.toNat)) || l.stops.any (fun x => !x.mode1))

/-- R131, R132, R272, R435, R437: the entry the launch of partition `p` runs in the next stroke, as far as is known now; none before its
START, after its end, and in a rollback outside regeneration and resume. -/
def State.nextRun (s : State) (p : Nat) (l : Launch) (g : Image) : Option Nat :=
  let f := s.dp.fr
  let n := s.clk.stroke.toNat + 1
  if f.pendHold then none
  else if f.hold then
    (if f.restoring then none
     else match (if f.regen then l.regen.drop 1 else l.regen) with
      | e :: _ => some e
      | [] => if f.resume.toNat ≤ n then some g.pro else none)
  else if l.stops.any (fun x => x.mode1) then none
  else if !l.began then (if l.start.toNat ≤ n then some 0 else none)
  else if l.endsNext g (s.dp.getPart p).step.toNat then none
  else some (g.nextEntry l.entry)

/-- The slices of the next stroke. -/
def State.nextSlices (s : State) : List Slice :=
  [0, 1, 2, 3].filterMap (fun p => match (s.getPartn p).launch with
    | none => none
    | some l => match s.imageOf l with
      | none => none
      | some g => (s.nextRun p l g).map (fun e => ⟨p, g, e⟩))

/-- The slices of the present stroke. -/
def State.nowSlices (s : State) : List Slice :=
  [0, 1, 2, 3].filterMap (fun p => match (s.getPartn p).launch with
    | none => none
    | some l => if l.began then (s.imageOf l).map (fun g => ⟨p, g, l.entry⟩) else none)

/-- R390: OPP `o` meets the frequency requirement of a slice at stretch `k`. -/
def Slice.meets (x : Slice) (k o : Nat) : Bool := decide (x.g.planMhz x.e * 16 ≤ oppMhz o * (16 + k))

/-- The lowest-frequency OPP that meets the requirement. -/
def Slice.lowest (x : Slice) (k : Nat) : Nat := ((List.range 16).filter (x.meets k)).getLastD 0

/-- The power of slices, the first ones at chosen OPPs and the rest at their lowest, mW. -/
def State.slicesMw (s : State) (k ns : Nat) (l : List (Slice × Nat)) (r : List Slice) : Nat :=
  (l.map (fun x => s.sliceMw x.1 x.2 ns)).foldl (· + ·) 0 + (r.map (fun x => s.sliceMw x (x.lowest k) ns)).foldl (· + ·) 0 +
    s.idleLeakMw (l.map (fun x => x.1.p) ++ r.map (fun x => x.p)) + s.fixedTotal

/-- R390: choose an OPP for every slice at stretch `k` under budget `b` mW, in partition order: the preferred one when it qualifies,
else the qualifying one of lowest frequency; none when no OPP qualifies. -/
def State.chooseAt (s : State) (k ns b : Nat) : List (Slice × Nat) → List Slice → Option (List (Slice × Nat))
  | done, [] => some done
  | done, x :: r =>
    let ok := fun o => x.meets k o && decide (s.slicesMw k ns (done ++ [(x, o)]) r ≤ b)
    let pref := x.g.prefOpp x.e
    if pref < 16 && ok pref then s.chooseAt k ns b (done ++ [(x, pref)]) r
    else match ((List.range 16).filter ok).getLast? with
      | some o => s.chooseAt k ns b (done ++ [(x, o)]) r
      | none => none

/-- The choice at the first `k` of a list at which every slice has a qualifying OPP. -/
def State.chooseK (s : State) (b : Nat → Nat) (sl : List Slice) : List Nat → Option (Nat × List (Slice × Nat))
  | [] => none
  | k :: r =>
    match s.chooseAt k (s.clk.period.toNat * 1000 * (16 + k) / 16) (b k) [] sl with
    | some l => some (k, l)
    | none => s.chooseK b sl r

/-- R390: k and OPPs for the next stroke under a budget; with none that fits: k 48, the lowest frequencies, NOFIT. -/
def State.choose (s : State) (b : Nat → Nat) (sl : List Slice) (ks : List Nat) : Nat × List (Slice × Nat) × Bool :=
  match s.chooseK b sl ks with
  | some (k, l) => (k, l, false)
  | none => (ks.getLastD 48, sl.map (fun x => (x, x.lowest (ks.getLastD 48))), true)

/-- The OPPs of a choice by partition. -/
def oppsOf (l : List (Slice × Nat)) : Tab Nat := l.foldl (fun t x => t.put 0 x.1.p x.2) []

/-! ### Ramp (R392) -/

/-- Some slice's entry has FLOOR set (R149). -/
def floorOn (l : List Slice) : Bool := l.any (fun x => bit (x.g.stroke x.e) 17)

/-- The mean power of the stroke in progress up to time `t`, mW. -/
def State.meanSoFar (s : State) (t : Nat) : Nat := s.pw.strokePj / max 1 (t - s.clk.sstart.toNat)

/-- R392: the step s[n] of the stroke in progress, mW. -/
def State.stepNow (s : State) : Nat := s.pw.stepMw (stretched s.clk.period.toNat s.clk.k.toNat)

/-- R392: R after the stroke in progress, were it to end at `t`, mW; and whether PW_RAMPV counts it. Without a limit R follows the mean
and nothing counts. -/
def State.rampAfter (s : State) (t : Nat) : Nat × Bool :=
  let w := s.pw
  let mean := s.meanSoFar t
  let st := s.stepNow
  let top := w.refMw + st
  let fl := floorOn s.nowSlices
  if w.fromIdle || s.pkgIdle != 0 || w.ramp = 0 then (mean, false)
  else
    let r := if w.held then top else if fl then min top (max mean (w.refMw - st)) else min top mean
    (r, (w.noFitNow && decide (mean > top)) || (!fl && decide (mean + st < w.refMw)))

/-- R389, R392: the budget of the next stroke at stretch `k`, mW, with the ramp reference `r`. -/
def State.budgetMw (s : State) (r k : Nat) : Nat :=
  let ns := s.clk.period.toNat * 1000 * (16 + k) / 16
  if s.pw.ramp = 0 then s.pw.capEff * 1000 else min (s.pw.capEff * 1000) (r + s.pw.stepMw ns)

/-- R391: the voltages called for once the OPPs of the next stroke are chosen: the rises begin. -/
def State.riseTo (s : State) (running : List Nat) (opp : Tab Nat) : Tab (BitVec 12) :=
  (List.range 64).foldl (fun (t : Tab (BitVec 12)) r => match s.partOfDie (r / 16) with
    | some p =>
      if running.contains p && decide (s.regionIdle r < 2) && !s.pw.tripped then
        t.put 0 r (BitVec.ofNat 12 (max (t.get 0 r).toNat (oppMv r (opp.get 0 p))))
      else t
    | none => t) s.pw.mv

/-- R390, R391: the Damper chooses k, the first of a list that fits, and OPPs for the next stroke; a choice the ramp alone made marks the
stroke held, and the rises begin. With no launch to run, k is the list's first. -/
def State.chooseFor (s : State) (ks : List Nat) : State :=
  let sl := s.nextSlices
  let r := (s.rampAfter s.clk.tb.toNat).1
  if sl.isEmpty then
    s.onPw (fun w => { w with kreq := BitVec.ofNat 6 (ks.headD 0), nextOpp := [], nextFor := [], nextHeld := false, nextNoFit := false })
  else
    let a := s.choose (s.budgetMw r) sl ks
    let c := s.choose (fun _ => s.pw.capEff * 1000) sl ks
    let s := s.callVolts (s.riseTo (sl.map (fun x => x.p)) (oppsOf a.2.1))
    s.onPw (fun w => { w with kreq := BitVec.ofNat 6 a.1, nextOpp := oppsOf a.2.1, nextFor := sl.map (fun x => (x.p, x.e)), nextNoFit := a.2.2,
                              noFit := w.noFit || a.2.2, nextHeld := a.1 != c.1 || oppsOf a.2.1 != oppsOf c.2.1 })

/-- R57, R390: the choice when the package reports done, whose k goes into the done marker. -/
def State.choosePower (s : State) : State :=
  let k0 := s.clk.k.toNat - 1
  let s := s.chooseFor ((List.range (49 - k0)).map (· + k0))
  { s with clk := { s.clk with reqK := s.pw.kreq } }

/-- R390: a launch accepted after the package has reported done: the OPPs are chosen again, at the k that was reported (DESIGN CHOICE, log
124). -/
def State.chooseAgain (s : State) : State :=
  if s.clk.sent.isSome || s.clk.go.isSome then s.chooseFor [s.pw.kreq.toNat] else s

/-! ### The stroke boundary -/

/-- R387: one learned value moves an eighth of the way to what was observed. -/
def learnTo (old obs : Nat) : Nat := (Int.ofNat old + (Int.ofNat obs - Int.ofNat old) / 8).toNat

/-- R387: the observation of the stroke that ends, for every slice. -/
def State.learn (s : State) (l : List Slice) : Tab (Option Learned) :=
  l.foldl (fun t x =>
    let key := 4096 * x.p + x.g.phaseOf x.e
    let d := s.pw.strokeDyn.get 0 x.p
    let h := s.pw.strokeHbm.get 0 x.p
    match t.get none key with
    | none => t.put none key (some ⟨d, h⟩)
    | some o => t.put none key (some ⟨learnTo o.dyn d, learnTo o.hbm h⟩)) s.pw.learned

/-- R387, R392: the stroke that ends at `t` is settled: learned unless it was voided or held, R and PW_RAMPV set. -/
def State.settlePower (s : State) (t : Nat) : State :=
  let r := s.rampAfter t
  { s with pw := { s.pw with
    learned := if s.dp.fr.voided || s.dp.fr.replay || s.dp.fr.hold then s.pw.learned else s.learn s.nowSlices,
    meanMw := s.meanSoFar t, refMw := r.1, rampVCnt := if r.2 then satAdd s.pw.rampVCnt 1 else s.pw.rampVCnt,
    rampVF := s.pw.rampVF || r.2, strokePj := 0, strokeDyn := [], strokeHbm := [], fromIdle := s.pw.fromIdle && s.pkgIdle != 0 } }

/-- R384, R390, R391: the voltages of the regions: those of their partition's OPP; a partition with no OPP keeps 500 mV at least while
it is Lit or in Glow; 0 while power-gated. -/
def State.regionVolts (s : State) (opp : Tab Nat) (running : List Nat) : Tab (BitVec 12) :=
  (List.range 64).foldl (fun t r =>
    let v := if s.pw.tripped || s.regionIdle r ≥ 2 then 0
      else match s.partOfDie (r / 16) with
      | some p => if running.contains p then oppMv r (opp.get 0 p) else 500
      | none => 0
    t.put 0 r (BitVec.ofNat 12 v)) []

/-- R384, R400: the voltages the launches that run and the idle states call for now. -/
def State.volts (s : State) : Tab (BitVec 12) := s.regionVolts s.pw.opp (s.nowSlices.map (fun x => x.p))

/-- The prediction for the present stroke, W, and whether it rests on a seed (R394). -/
def State.predictW (s : State) (l : List Slice) (opp : Tab Nat) : Nat × Bool :=
  let ns := s.clk.period.toNat * 1000 * (16 + s.clk.k.toNat) / 16
  (((l.map (fun x => s.sliceMw x (opp.get 0 x.p) ns)).foldl (· + ·) 0 + s.idleLeakMw (l.map (fun x => x.p)) +
      s.fixedTotal) / 1000,
   l.any (fun x => (s.energyOf x.p x.g (x.g.phaseOf x.e)).2))

/-- R390, R391: at S+0 the OPPs of the stroke that begins take effect, chosen again at the pod's k when it is larger, or when a launch runs
that the choice was not made for (log 124). -/
def State.beginPower (s : State) : State :=
  let sl := s.nowSlices
  let k := s.clk.k.toNat
  let own := decide (k = s.pw.kreq.toNat) && sl.all (fun x => s.pw.nextFor.contains (x.p, x.e))
  let c := if own then (k, [], s.pw.nextNoFit) else s.choose (s.budgetMw s.pw.refMw) sl [k]
  let opp := if own then s.pw.nextOpp else oppsOf c.2.1
  let opp := opp.filter (fun x => sl.any (fun y => y.p == x.1))
  let f := s.predictW sl opp
  let nx := s.predictW s.nextSlices opp
  let fl := (sl.filter (fun x => bit (x.g.stroke x.e) 17)).map (fun x => x.p)
  let s := s.callVolts (s.regionVolts opp (sl.map (fun x => x.p)))
  { s with pw := { s.pw with opp := opp, held := s.pw.nextHeld, noFitNow := c.2.2,
                             fillRegions := s.pw.fillRegions.filter (fun r => match s.partOfDie (r / 16) with
                               | some p => fl.contains p
                               | none => false),
                             seeded := f.2, fcastW := BitVec.ofNat 16 (satTo 16 nx.1), fcastSeed := nx.2 } }

/-! ### Droop (R391, R396) -/

/-- The region router of region 16d + g (R27). -/
def regionUid (r : Nat) : Nat := duid (r / 16) 5 (r % 16)

/-- R53: the working units of region `r` take a CAUSE bit for the stroke. -/
def State.causeRegion (s : State) (r b : Nat) : State :=
  s.onDp (fun e d => (e.working.filter (fun u => decide (unitKind u < 5) && uidCluster u / 8 == r)).foldl
    (fun d u => d.setUnit u (fun x => { x with cause := x.cause ||| (1#6 <<< b) })) d)

/-- R396: the stretch of a supply so many mV below its target: 0 none, 1 +25 %, 2 +50 %, 3 held. -/
def droopLevel (below : Nat) : Nat := if below < 25 then 0 else if below < 50 then 1 else if below < 100 then 2 else 3

/-- R396: the stretch after one of level `was`: a held clock stays held until the supply is within 50 mV. -/
def droopNext (was below : Nat) : Nat := if was = 3 && 50 ≤ below then 3 else droopLevel below

/-- R45, R396: the supply of region `r` lies `below` mV under its target: a response begins, counted, recorded and with CAUSE DROOP on the
region's working units; or its level changes. Under 25 mV nothing begins, and a response ends by its own command. -/
def State.droopAt (s : State) (r below : Nat) : State :=
  let was := s.pw.droop.get 0 r
  let lv := droopNext was below
  if lv = 0 || s.regionIdle r ≥ 2 then s
  else
    let s := s.onPw (fun w => { w with droop := w.droop.put 0 r lv, droopCnt := if was = 0 then satAdd w.droopCnt 1 else w.droopCnt })
    if was = 0 then (s.causeRegion r 2).note (regionUid r) 0x13 [] else s

/-- R53, R391, R395–R397: what goes on at S+0, once the units have begun: regions whose supply is still short of its voltage respond;
a droop, a clamp or an emergency that runs on gives its CAUSE to the units of the stroke that begins. -/
def State.carryCauses (s : State) : State :=
  (List.range 64).foldl (fun (s : State) r =>
    let was := s.pw.droop.get 0 r
    let s := s.droopAt r (s.supplyLow r)
    let s := if was != 0 || s.pw.clamp then s.causeRegion r 2 else s
    if s.pw.emerg.contains r then s.causeRegion r 0 else s) s

end Sys2Proof.Machine
end

