-- ==== Sys2Proof/Machine/HostOps.lean ====
section
/-! DEFINITION. Shared operations of the host port (05_host_rings.md): host memory over CXL, doorbells (R115, R119, R120), the start of
descriptors (R122–R125), ring space and interrupts (R138–R140), and copies (R129). -/

namespace Sys2Proof.Machine

/-! ### Host memory -/

/-- Host memory as the host left it: a store replaces bytes and heals the lines it covers whole; a poisoned line reads as poison. -/
def Mem.hostPut (m : Mem) (st : HostStore) : Mem :=
  let a := st.addr.toNat
  if st.poison then { m with poison := NSet.add m.poison (a / 64) }
  else { m with host := writeBytes m.host a st.len st.data,
                poison := m.poison.filter (fun l => decide (l * 64 + 64 ≤ a) || decide (a + st.len ≤ l * 64)) }

def Mem.hostPuts (m : Mem) (l : List HostStore) : Mem := l.foldl Mem.hostPut m

/-- A device read of a host line; none where it returns poison. -/
def Mem.hostLine (m : Mem) (a : Nat) : Option (BitVec 512) :=
  if m.poison.contains (a / 64) then none else some (BitVec.ofNat 512 (readBytes m.host (a / 64 * 64) 64))

/-- A device write of a whole host line, and one with the poison indication. -/
def Mem.hostSetLine (m : Mem) (a : Nat) (v : BitVec 512) : Mem := m.hostPut ⟨BitVec.ofNat 64 a, 64, v.toNat, false⟩
def Mem.hostPoison (m : Mem) (a : Nat) : Mem := { m with poison := NSet.add m.poison (a / 64) }

def State.onMem (s : State) (f : Mem → Mem) : State := { s with dp := { s.dp with mem := f s.dp.mem } }

/-- R143: the link is up while HP_STAT shows a rate. -/
def Hp.linkUp (h : Hp) : Bool := h.speed != 0

/-! ### Queues -/

/-- R118: the kind of a queue. -/
inductive QKind where
  | compute | comm | mgmt
  deriving DecidableEq, Repr

def qKind (q : Nat) : QKind := if q < 16 then .compute else if q < 80 then .comm else .mgmt

/-- R136: the partition a compute queue belongs to. -/
def State.partOfQ (s : State) (q : Nat) : Option Nat :=
  if q < 16 then [0, 1, 2, 3].find? (fun p => (s.getPartn p).dies != 0 && (s.getPartn p).qmask.getLsbD q) else none

/-- A queue's error bit is set: HP_ERR.QERR and vector 81 (R120, R121, R143). -/
def State.queueError (s : State) : State := ({ s with hp := { s.hp with errQ := true } }).hpIrq

/-- R119, R120: the doorbell line of queue `q` is read: new tail and head, or OVERRUN. A poisoned doorbell line stops the queue as a
poisoned descriptor does (R121 speaks of descriptors only: DESIGN CHOICE, log 94). -/
def State.readDoorbell (s : State) (q : Nat) : State :=
  let x := s.getQ q
  if !x.en || !s.hp.linkUp then s
  else
    match s.dp.mem.hostLine (s.hp.dbBase.toNat + 64 * q) with
    | none => (s.setQ q (fun x => { x with fetchErr := true, stopped := true })).queueError
    | some l =>
      let tail : BitVec 32 := l.extractLsb' 0 32
      let head : BitVec 32 := l.extractLsb' 32 32
      let ahead := (tail - BitVec.ofNat 32 x.fetch).toNat
      if ahead > 2 ^ x.log2.toNat || (tail - x.tail).toNat ≥ 2 ^ 31 then
        (s.setQ q (fun x => { x with overrun := true, stopped := true, cqHead := head })).queueError
      else s.setQ q (fun x => { x with tail := tail, cqHead := head })

/-- R138: the completion ring has a slot the host has released. -/
def Queue.cqRoom (x : Queue) : Bool := decide ((BitVec.ofNat 32 x.cqTail - x.cqHead).toNat < 2 ^ x.log2.toNat)

/-- R138: the 32 bytes of a completion record. -/
def cqeBits (q : Nat) (x : Queue) (ts : BitVec 64) (c : Cqe) : Nat :=
  packBytes [(0, c.value.toNat), (8, ts.toNat), (16, c.detail.toNat), (20, c.seq % 2 ^ 32), (24, x.fetch % 2 ^ 16), (26, c.tag.toNat),
    (28, c.status.toNat), (29, c.typ.toNat),
    (30, q + 256 * ((if (x.cqTail / 2 ^ x.log2.toNat) % 2 = 0 then 1 else 0) + 2 * b2n c.deferred))]

/-- R140: request the vector of queue `q`: at once, or when its HOLDOFF_US has passed since it last fired; of several requests that wait the
first due fires them all. -/
def requestVector (e : Env) (x : Queue) (d : Dp) : Dp :=
  let v := x.vector.toNat
  let last := d.irq.last.get 0 v
  if x.holdoff = 0 || last = 0 || last - 1 + x.holdoff.toNat * 1000 ≤ e.tb.toNat then { d with irq := d.irq.fire e v }
  else
    let due := last - 1 + x.holdoff.toNat * 1000
    let w := d.irq.waiting.get 0 v
    { d with irq := { d.irq with waiting := d.irq.waiting.put 0 v (if w = 0 then due + 1 else min w (due + 1)) } }

/-- R138, R140: write the oldest waiting record of queue `q` when the ring has room and the link is up. -/
def State.writeCompletion (s : State) (q : Nat) : State :=
  let x := s.getQ q
  match x.comps with
  | [] => s
  | c :: r =>
    if !x.cqRoom || !s.hp.linkUp then s
    else
      let a := x.cqBase.toNat + 32 * (x.cqTail % 2 ^ x.log2.toNat)
      let s := s.onMem (fun m => m.hostPut ⟨BitVec.ofNat 64 a, 32, cqeBits q x s.clk.tb c, false⟩)
      let s := s.setQ q (fun x => { x with comps := r, cqTail := x.cqTail + 1 })
      if c.irq || c.status != 0 then s.onDp (fun e d => requestVector e x d) else s

/-! ### Starting a descriptor -/

/-- R122: types that start only after every earlier descriptor of the queue has completed. -/
def ordered (d : BitVec 512) : Bool := dFencePre d || dType d == 1 || dType d == 2 || dType d == 3

/-- R122: descriptor `y` of a queue may start now. -/
def Queue.mayStart (x : Queue) (y : Desc) : Bool :=
  !y.started && x.fetched.all (fun z => decide (z.seq ≥ y.seq) || (z.started && !(ordered y.d)))

/-- R127: descriptor `y` is a BARRIER whose only earlier descriptors still open are BARRIERs of its queue that wait under the same BID. -/
def Queue.repeats (x : Queue) (y : Desc) : Bool :=
  !y.started && dType y.d == 2 && !(dFencePre y.d) &&
    x.fetched.all (fun z => decide (z.seq ≥ y.seq) || (z.started && dType z.d == 2 && bits z.d 64 4 == bits y.d 64 4))

/-- R124: where a type is allowed; none for a reserved type. -/
def typeQueue (t : Nat) : Option (List QKind) :=
  if t ≤ 3 then some [.compute, .comm, .mgmt]
  else if 0x10 ≤ t && t ≤ 0x15 then some [.compute]
  else if 0x20 ≤ t && t ≤ 0x22 then some [.comm]
  else if 0x30 ≤ t && t ≤ 0x34 then some [.mgmt]
  else none

/-- R124, R128: the status a descriptor's type alone leads to: reserved, or on a queue that does not allow it. -/
def State.typeStatus (s : State) (q : Nat) (d : BitVec 512) : Option (Nat × Nat) :=
  match typeQueue (dType d) with
  | none => some (stBadOp, dType d)
  | some ks =>
    if !(ks.contains (qKind q)) then some (stWrongQ, 0)
    else if 0x10 ≤ dType d && dType d ≤ 0x15 && (s.partOfQ q).isNone then some (stWrongQ, 0)
    else none

/-- Complete the descriptors of queue `q` whose type alone decides, in ring order, as far as they may start (R124). -/
def State.sweepTypes (s : State) (q : Nat) : State :=
  (s.getQ q).fetched.foldl (fun s y =>
    match s.typeStatus q y.d with
    | some (st, det) => if (s.getQ q).mayStart y then s.finish q y.seq st det 0 else s
    | none => s) s

/-- R123, R125: the lowest bit of the first offending field: the header's reserved bits, then the body's fields given as
(lowest bit, offends). -/
def badField (d : BitVec 512) (body : List (Nat × Bool)) : Option Nat :=
  (((11, anyBits d 11 5) :: (32, anyBits d 32 32) :: body).find? (fun x => x.2)).map (fun x => x.1)

/-- R131: the partition whose running launch owns communication queue `q`: its script declares the queue's CG. -/
def State.ownerOf (s : State) (q : Nat) : Option Nat :=
  if q < 16 || q ≥ 80 then none
  else [0, 1, 2, 3].find? (fun p => match (s.getPartn p).launch with
    | none => false
    | some l => match s.imageOf l with
      | none => false
      | some g => (List.range g.nCg).any (fun i => (g.cg i).1 + 16 == q))

/-- A number no queue has: what completes there completes nothing. -/
def noQueue : Nat := 81

/-- R401: a descriptor of a compute queue starts only once its partition is Lit. -/
def State.litFor (s : State) (q : Nat) : Bool :=
  match s.partOfQ q with
  | some p => s.idleOf p == 0
  | none => true

/-- Start descriptor `seq` of queue `q` when it is fetched, of type `t` and may start (R122): `f` gives its effect. A queue a running
launch owns starts only CG_OPEN and CG_CLOSE, which answer BUSY (R133, R134). -/
def State.onStart (s : State) (q seq t : Nat) (f : BitVec 512 → State → State) : State :=
  match (s.getQ q).fetched.find? (fun y => y.seq == seq) with
  | none => s
  | some y =>
    if dType y.d != t || !((s.getQ q).mayStart y || (s.getQ q).repeats y) || !(s.litFor q) || (s.typeStatus q y.d).isSome ||
        ((s.ownerOf q).isSome && dType y.d != 0x20 && dType y.d != 0x21) then s
    else f y.d s

/-- R125: a descriptor starts, and completes BAD_FIELD when a field offends; else `f` gives its effect. -/
def State.onDesc (s : State) (q seq t : Nat) (body : BitVec 512 → List (Nat × Bool)) (f : BitVec 512 → State → State) : State :=
  s.onStart q seq t (fun d s =>
    match badField d (body d) with
    | some b => s.finish q seq stBadField b 0
    | none => f d s)

/-- Mark a descriptor started and still in flight. -/
def State.markStarted (s : State) (q seq : Nat) : State :=
  s.setQ q (fun x => { x with fetched := x.fetched.map (fun y => if y.seq = seq then { y with started := true } else y) })

/-! ### BARRIER -/

/-- R127: complete every participant of a rendezvous. -/
def State.finishAll (s : State) (l : List (Nat × Nat)) (st det : Nat) : State :=
  l.foldl (fun s x => s.finish x.1 x.2 st det 0) s

/-- R127: queue `q` joins the rendezvous of its BID. A second BARRIER of a queue that waits there offends by its BID, the first offending
field (R125), whatever its QMASK. -/
def State.joinBarrier (s : State) (q seq : Nat) (d : BitVec 512) : State :=
  let bid := bits d 64 4
  let mask : BitVec 81 := d.extractLsb' 128 81
  match s.hp.rdvs.find? (fun r => r.bid == bid) with
  | none =>
    let s := s.markStarted q seq
    { s with hp := { s.hp with rdvs := s.hp.rdvs ++ [⟨bid, mask, [(q, seq)]⟩] } }
  | some r =>
    if r.joined.any (fun x => x.1 == q) then s.finish q seq stBadField 64 0
    else if r.mask != mask then s.finish q seq stBadField 128 0
    else
      let j := r.joined ++ [(q, seq)]
      let s := s.markStarted q seq
      if (List.range 81).all (fun i => !(mask.getLsbD i) || j.any (fun x => x.1 == i)) then
        ({ s with hp := { s.hp with rdvs := s.hp.rdvs.filter (fun x => x.bid != bid) } }).finishAll j stOk 0
      else
        { s with hp := { s.hp with rdvs := s.hp.rdvs.map (fun x => if x.bid = bid then { x with joined := j } else x) } }

/-- R141: a BARRIER of queue `q` completes DISABLED and releases its rendezvous; all who wait there complete ABANDONED, an earlier
BARRIER of the same queue among them (log 95). -/
def State.abandon (s : State) (q : Nat) (d : BitVec 512) : State :=
  let bid := bits d 64 4
  match s.hp.rdvs.find? (fun r => r.bid == bid && r.mask.getLsbD q && r.mask == d.extractLsb' 128 81) with
  | none => s
  | some r =>
    ({ s with hp := { s.hp with rdvs := s.hp.rdvs.filter (fun x => x.bid != bid) } }).finishAll r.joined stAbandoned q

/-- R141: a descriptor of queue `q` completes DISABLED. -/
def State.disableDesc (s : State) (q : Nat) (y : Desc) : State :=
  let s := s.finish q y.seq stDisabled 0 0
  if dType y.d = 2 then s.abandon q y.d else s

/-! ### Copies -/

/-- R129, R130, R139: a host range of `n` bytes runs past the last host address: BAD_ADDRESS with DETAIL 1 (DESIGN CHOICE, log 92). -/
def hostPast (h n : Nat) : Bool := decide (2 ^ 64 < h + n)

/-- R129: every line of the range lies in HBM views, SRAM, accumulators or reduction buffers of the dies. -/
def rangeOk (m : Mem) (dies a : Nat) : Nat → Bool
  | 0 => true
  | n + 1 =>
    (match m.resolve a with
     | none => false
     | some (.ext _ _) => false
     | some l => l.inDies dies) && rangeOk m dies (a + 64) n

/-- R129: copy `n` lines in; stops at a poisoned host line. Answers the lines moved and whether poison ended it. -/
def copyInLines (e : Env) (h a : Nat) : Nat → Nat → Dp → Nat × Bool × Dp
  | 0, k, d => (k, false, d)
  | n + 1, k, d =>
    match d.mem.hostLine h with
    | none => (k, true, d)
    | some v =>
      match d.mem.resolve a with
      | none => (k, false, d)
      | some l => copyInLines e (h + 64) (a + 64) n (k + 1) (hostStore e a l v d)

/-- R129: copy `n` lines out; a line that holds an uncorrectable error is written as poison and counted. -/
def copyOutLines (e : Env) (h a : Nat) : Nat → Nat → Dp → Nat × Dp
  | 0, p, d => (p, d)
  | n + 1, p, d =>
    match d.mem.resolve a with
    | none => (p, d)
    | some l =>
      let k := d.mem.key l
      let v := BitVec.ofNat 512 (readBytes d.mem.cells k 64)
      match d.mem.marks.get .none (k / 64) with
      | .ue =>
        let d := ueFound e hostUid 2 a l.memCode d
        copyOutLines e (h + 64) (a + 64) n (p + 1) { d with mem := d.mem.hostPoison h }
      | .ce =>
        let d := (correct e hostUid a k l d).crossFrom 0 a l
        copyOutLines e (h + 64) (a + 64) n p { d with mem := d.mem.hostSetLine h v }
      | .none => copyOutLines e (h + 64) (a + 64) n p ({ d with mem := d.mem.hostSetLine h v }.crossFrom 0 a l)

/-- R129: fill `n` lines with a 64-bit pattern. -/
def fillLines64 (e : Env) (a : Nat) (v : BitVec 512) : Nat → Dp → Dp
  | 0, d => d
  | n + 1, d =>
    match d.mem.resolve a with
    | none => d
    | some l => fillLines64 e (a + 64) v n (hostStore e a l v d)

/-- Eight copies of a 64-bit pattern. -/
def patLine (p : BitVec 64) : BitVec 512 := BitVec.ofNat 512 (packBytes ((List.range 8).map (fun i => (8 * i, p.toNat))))

end Sys2Proof.Machine
end

