-- ==== Sys2Proof/Machine/Sha384.lean ====
section
/-! DEFINITION. SHA-384, the digest of script images (R146), tokens (R449) and firmware images (R451). A message is its length in
bytes and its bytes as a little-endian number. -/

namespace Sys2Proof.Machine

/-- Round constants. -/
def shaK : List Nat :=
   [0x428a2f98d728ae22, 0x7137449123ef65cd, 0xb5c0fbcfec4d3b2f, 0xe9b5dba58189dbbc, 0x3956c25bf348b538, 0x59f111f1b605d019, 0x923f82a4af194f9b, 0xab1c5ed5da6d8118] ++
   [0xd807aa98a3030242, 0x12835b0145706fbe, 0x243185be4ee4b28c, 0x550c7dc3d5ffb4e2, 0x72be5d74f27b896f, 0x80deb1fe3b1696b1, 0x9bdc06a725c71235, 0xc19bf174cf692694] ++
   [0xe49b69c19ef14ad2, 0xefbe4786384f25e3, 0x0fc19dc68b8cd5b5, 0x240ca1cc77ac9c65, 0x2de92c6f592b0275, 0x4a7484aa6ea6e483, 0x5cb0a9dcbd41fbd4, 0x76f988da831153b5] ++
   [0x983e5152ee66dfab, 0xa831c66d2db43210, 0xb00327c898fb213f, 0xbf597fc7beef0ee4, 0xc6e00bf33da88fc2, 0xd5a79147930aa725, 0x06ca6351e003826f, 0x142929670a0e6e70] ++
   [0x27b70a8546d22ffc, 0x2e1b21385c26c926, 0x4d2c6dfc5ac42aed, 0x53380d139d95b3df, 0x650a73548baf63de, 0x766a0abb3c77b2a8, 0x81c2c92e47edaee6, 0x92722c851482353b] ++
   [0xa2bfe8a14cf10364, 0xa81a664bbc423001, 0xc24b8b70d0f89791, 0xc76c51a30654be30, 0xd192e819d6ef5218, 0xd69906245565a910, 0xf40e35855771202a, 0x106aa07032bbd1b8] ++
   [0x19a4c116b8d2d0c8, 0x1e376c085141ab53, 0x2748774cdf8eeb99, 0x34b0bcb5e19b48a8, 0x391c0cb3c5c95a63, 0x4ed8aa4ae3418acb, 0x5b9cca4f7763e373, 0x682e6ff3d6b2b8a3] ++
   [0x748f82ee5defb2fc, 0x78a5636f43172f60, 0x84c87814a1f0ab72, 0x8cc702081a6439ec, 0x90befffa23631e28, 0xa4506cebde82bde9, 0xbef9a3f7b2c67915, 0xc67178f2e372532b] ++
   [0xca273eceea26619c, 0xd186b8c721c0c207, 0xeada7dd6cde0eb1e, 0xf57d4f7fee6ed178, 0x06f067aa72176fba, 0x0a637dc5a2c898a6, 0x113f9804bef90dae, 0x1b710b35131c471b] ++
   [0x28db77f523047d84, 0x32caab7b40c72493, 0x3c9ebe0a15c9bebc, 0x431d67c49c100d4c, 0x4cc5d4becb3e42b6, 0x597f299cfc657e2a, 0x5fcb6fab3ad6faec, 0x6c44198c4a475817]

/-- The eight working words. -/
structure Sha where
  a : BitVec 64
  b : BitVec 64
  c : BitVec 64
  d : BitVec 64
  e : BitVec 64
  f : BitVec 64
  g : BitVec 64
  h : BitVec 64

/-- The initial value. -/
def shaInit : Sha := ⟨0xcbbb9d5dc1059ed8, 0x629a292a367cd507, 0x9159015a3070dd17, 0x152fecd8f70e5939, 0x67332667ffc00b31, 0x8eb44a8768581511, 0xdb0c2e0d64f98fa7, 0x47b5481dbefa4fa4⟩

/-- One round with its message word and constant. -/
def shaRound (s : Sha) (w k : BitVec 64) : Sha :=
  let s1 := s.e.rotateRight 14 ^^^ s.e.rotateRight 18 ^^^ s.e.rotateRight 41
  let ch := (s.e &&& s.f) ^^^ (~~~s.e &&& s.g)
  let t1 := s.h + s1 + ch + k + w
  let s0 := s.a.rotateRight 28 ^^^ s.a.rotateRight 34 ^^^ s.a.rotateRight 39
  let mj := (s.a &&& s.b) ^^^ (s.a &&& s.c) ^^^ (s.b &&& s.c)
  ⟨t1 + (s0 + mj), s.a, s.b, s.c, s.d + t1, s.e, s.f, s.g⟩

/-- The next message word from the sixteen before it, oldest first. -/
def shaNext (w : List (BitVec 64)) : BitVec 64 :=
  let x := w.getD 1 0
  let y := w.getD 14 0
  (y.rotateRight 19 ^^^ y.rotateRight 61 ^^^ (y >>> 6)) + w.getD 9 0 +
    (x.rotateRight 1 ^^^ x.rotateRight 8 ^^^ (x >>> 7)) + w.getD 0 0

/-- The rounds of one block over a sliding window of sixteen message words. -/
def shaRounds : List Nat → List (BitVec 64) → Sha → Sha
  | [], _, s => s
  | k :: r, w, s => shaRounds r (w.drop 1 ++ [shaNext w]) (shaRound s (w.getD 0 0) (BitVec.ofNat 64 k))

/-- The big-endian 64-bit word at byte `off` of a little-endian number. -/
def beWord (v off : Nat) : BitVec 64 :=
  BitVec.ofNat 64 ((List.range 8).foldl (fun a i => a * 256 + (v >>> (8 * (off + i))) % 256) 0)

/-- One block. -/
def shaBlock (v : Nat) (s : Sha) : Sha :=
  let t := shaRounds shaK ((List.range 16).map (fun i => beWord v (8 * i))) s
  ⟨s.a + t.a, s.b + t.b, s.c + t.c, s.d + t.d, s.e + t.e, s.f + t.f, s.g + t.g, s.h + t.h⟩

/-- `n` blocks from the start of a padded message. -/
def shaBlocks : Nat → Nat → Sha → Sha
  | 0, _, s => s
  | n + 1, v, s => shaBlocks n (v >>> 1024) (shaBlock (v % 2 ^ 1024) s)

/-- The bytes of a big-endian 64-bit word as a little-endian number. -/
def beToLe (w : BitVec 64) : Nat := (List.range 8).foldl (fun a i => a * 256 + (w.toNat >>> (8 * i)) % 256) 0

/-- SHA-384 of `len` bytes: 48 bytes, as a little-endian number. -/
def sha384 (len data : Nat) : Nat :=
  let n := (len + 17 + 127) / 128
  let bitlen := beToLe (BitVec.ofNat 64 (8 * len))
  let v := data % 2 ^ (8 * len) + 0x80 * 2 ^ (8 * len) + bitlen * 2 ^ (8 * (128 * n - 8))
  let s := shaBlocks n v shaInit
  packBytes [(0, beToLe s.a), (8, beToLe s.b), (16, beToLe s.c), (24, beToLe s.d), (32, beToLe s.e), (40, beToLe s.f)]

end Sys2Proof.Machine
end

