-- ==== Sys2Proof/Machine/Loader.lean ====
section
/-! DEFINITION. The loader (06_scripts.md, R146–R161): the checks of a script image in the order of R161, the script store, and
LOAD_SCRIPT (R130). -/

namespace Sys2Proof.Machine

/-- R31: CAPT words 0x00–0x30, for a package whose firmware has the given ACV. -/
def captWords (acv : Nat) : List Nat :=
  [0x43410100 + acv, 0x00081004, 0x00400040, 0x10080100, 0x00806020, 0x00100263, 0x1F402040] ++
  [0x0034E008, Config.fmaxMin.toNat * 2 ^ 16 + 0x0834, 0x0FA00019, 0x0000007F, 0x0CE40A28, 0x00000150]

/-- What the loader answers: accepted, CAPT_MISMATCH at an offset, or a reason of R161 with WHERE. -/
inductive LoadRes where
  | ok
  | capt (off : Nat)
  | refuse (reason where_ : Nat)
  deriving DecidableEq, Repr

/-- A section of `n` entries of `size` bytes lies inside the image at a multiple of 64, an empty one too (DESIGN CHOICE, log 102). -/
def Image.span (g : Image) (off n size : Nat) : Bool := off % 64 == 0 && decide (off + n * size ≤ g.len)

/-- 0x01 BAD_MAGIC. -/
def Image.badMagic (g : Image) : Bool :=
  g.at 0 4 != 0x5A534331 || g.at 4 2 != 1 || g.at 6 2 != 0 || g.at 0x45 1 != 0 || g.at 0x4A 2 != 0 || g.at 0x59 1 != 0 ||
    g.at 0x80 80 != 0

/-- A stream's tables and code lie inside the image, and its segments inside its code (R151). -/
def Image.streamSpans (g : Image) (t : Stream) : Bool :=
  g.span t.segOff g.entries 8 && g.span t.winOff t.nWin 16 && (t.claimOff == 0 || g.span t.claimOff g.phases 80) &&
    g.span t.codeOff t.codeBytes 1 && (List.range g.entries).all (fun e => decide ((g.seg t e).1 + (g.seg t e).2 ≤ t.codeBytes))

/-- 0x02 BAD_LENGTH. -/
def Image.badLength (g : Image) : Bool :=
  g.at 8 8 != g.len || decide (g.phases < 1) || decide (g.phases > 4096) || decide (g.nStreams < 1) || decide (g.nStreams > 6160) ||
    decide (g.nCg > 64) || !(g.span g.phaseOff g.phases 16) || !(g.span g.strokeOff g.entries 32) || !(g.span g.cgOff g.nCg 16) ||
    !(g.span g.zeroOff g.nZero 16) || !(g.span g.extOff g.nExt 16) || !(g.span g.streamOff g.nStreams 32) ||
    g.streams.any (fun t => !(g.streamSpans t))

/-- 0x03 BAD_DIGEST: SHA-384 of the image with the 48 digest bytes 0 (R146). -/
def Image.badDigest (g : Image) : Bool :=
  let dig := g.at 0xD0 48
  sha384 g.len (g.data - dig * 2 ^ (8 * 0xD0)) != dig

/-- R29: the CAPT as it reads: every word 0 until the PMC has booted. -/
def State.capt (s : State) : List Nat := if s.bu.captOk then captWords s.sec.acv.toNat else List.replicate 13 0

/-- R32: the offset of the first CAPT word that differs; CLK[31:16] is not compared. -/
def Image.captDiff (g : Image) (capt : List Nat) : Option Nat :=
  (capt.zipIdx.find? (fun x =>
    let w := g.at (0x10 + 4 * x.2) 4
    if x.2 = 8 then w % 2 ^ 16 != x.1 % 2 ^ 16 else w != x.1)).map (fun x => 4 * x.2)

/-- R136: the non-zero die masks. -/
def diesValid (n : Nat) : Bool := [1, 2, 4, 8, 3, 6, 12, 9, 15].contains n

/-- 0x06 BAD_PHASE: R148, and R171's bound on FP8 phases with 16-bit accumulation. -/
def Image.badPhase (g : Image) (i : Nat) : Bool :=
  let w := g.phase i
  let mhz := w % 2 ^ 16
  let opp := (w >>> 16) % 256
  let hint := (w >>> 24) % 256
  let cls := (w >>> 32) % 256
  decide (mhz < 600) || decide (mhz > 2100) || (decide (opp > 15) && opp != 0xFF) || decide (hint > 7) || decide (cls > 5) ||
    (w >>> 40) != 0 || (cls == 3 && decide (mhz > 1850))

/-- The pairs of a list, ascending. -/
def pairs {α : Type} : List α → List (α × α)
  | [] => []
  | a :: r => r.map (fun b => (a, b)) ++ pairs r

/-- The first stream of every unit, units ascending within a cluster. -/
def Image.clusterUnits (g : Image) (c : Nat) : List Nat :=
  ([(0, 0), (1, 0), (2, 0)] ++ (List.range 8).map (fun i => (3, i)) ++ [(4, 0)]).filterMap (fun (x : Nat × Nat) =>
    let u := cuid c x.1 x.2
    if (g.streamOf u).isSome then some u else none)

/-- 0x07 BANK_CONFLICT (R155): the higher unit of the first colliding pair. -/
def Image.bankConflict (g : Image) : Option Nat :=
  (List.range 512).findSome? (fun c =>
    let us := g.clusterUnits c
    if us.length < 2 then none
    else (List.range g.phases).findSome? (fun ph =>
      (pairs us).findSome? (fun x => if (g.claims x.1 ph &&& g.claims x.2 ph) != 0 then some x.2 else none)))

/-- Every window with its unit. -/
def Image.allWins (g : Image) : List (Nat × Win) := g.streams.flatMap (fun t => (g.wins t).map (fun w => (t.unit, w)))

/-- 0x08 WINDOW_OVERLAP: the lowest entry in which windows of two units share a line (R77). -/
def Image.windowOverlap (g : Image) : Option Nat :=
  (pairs g.allWins).foldl (fun best x =>
    let a := x.1.2
    let b := x.2.2
    let e := max a.first b.first
    if x.1.1 != x.2.1 && decide (e ≤ min a.last b.last) && decide (e < g.entries) &&
        decide (a.base < b.base + 64 * b.lines) && decide (b.base < a.base + 64 * a.lines) then
      match best with
      | none => some e
      | some y => some (min y e)
    else best) none

/-- R86, R156: a declared range lies in the partition and the layout the script declares. -/
def Image.rangeIn (g : Image) (a n : Nat) : Bool :=
  if n = 0 then true
  else
    let z := a + n - 1
    let view := fun (lo stride cnt per lim : Nat) =>
      decide (lo ≤ a) && decide (z < lo + stride * cnt) &&
        (List.range (z / stride + 1 - a / stride)).all (fun i => g.dies.testBit (((a - lo) / stride + i) / per)) &&
        (decide (lim = stride) || ((a - lo) / stride == (z - lo) / stride && decide ((z - lo) % stride < lim)))
    if z < 0xC000000000 then decide (g.ivBase * 2 ^ 30 ≤ a) && decide (z < (g.ivBase + g.ivSize) * 2 ^ 30)
    else view 0xC000000000 (2 ^ 36) 12 3 (g.localGib * 2 ^ 30) || view 0x20000000000 (2 ^ 22) 512 128 (2 ^ 22) ||
      view 0x20080000000 (2 ^ 17) 512 128 (2 ^ 17) || view 0x20084000000 (2 ^ 24) 4 1 (2 ^ 24) ||
      (decide (0x100000000000 ≤ a) && decide (z < 0x100000000000 + 128 * 2 ^ 36))

/-- 0x09 OUT_OF_PARTITION (R156): WHERE, 0 for a table entry; of several offenders the first stream in header order comes first, and streams
before table entries (DESIGN CHOICE, log 103). The external window lies within every partition (R86). -/
def Image.outOfPartition (g : Image) : Option Nat :=
  (g.streams.findSome? (fun t =>
    if !(g.dies.testBit (uidDie t.unit)) || (g.wins t).any (fun w => !(g.rangeIn w.base (64 * w.lines))) then some t.unit
    else none)) <|>
  (if (List.range g.nZero).any (fun i => !(g.rangeIn (g.zero i).1 (g.zero i).2)) ||
      (List.range g.entries).any (fun e => bit (g.stroke e) 16 &&
        (List.range 4).any (fun d => anyBits (g.stroke e) (64 + 16 * d) 16 && !(g.dies.testBit d)))
    then some 0 else none)

/-- A region's units have work or a window in entry `e` (R158). -/
def Image.regionBusy (g : Image) (r e : Nat) : Bool :=
  g.streams.any (fun t => (t.unit / 0x2000) % 2 == 0 && uidDie t.unit == r / 16 && (t.unit / 0x200) % 16 == r % 16 &&
    ((g.seg t e).2 != 0 || (g.wins t).any (fun w => decide (w.first ≤ e) && decide (e ≤ w.last))))

/-- The service mask of entry `e` names region `r`. -/
def Image.serves (g : Image) (e r : Nat) : Bool := bit (g.stroke e) 16 && bit (g.stroke e) (64 + r)

/-- R158: the entries after a service entry in which the region must be idle: `w` of them, the count restarting after an entry
that names the region again; the first that is busy. -/
def Image.idleRun (g : Image) (r : Nat) : Nat → Nat → Nat → Option Nat
  | 0, _, _ => none
  | fuel + 1, e, w =>
    if w = 0 then none
    else
      let e := if e + 1 < g.entries then e + 1 else g.pro
      if g.serves e r then none
      else if g.regionBusy r e then some e
      else g.idleRun r fuel e (w - 1)

/-- R158: the number of entries that follow. -/
def Image.wakeEntries (g : Image) : Nat := ceilDiv 150000 (g.pUs * 1000 - g.cwNs)

/-- 0x0A SERVICE_CONFLICT: WHERE names the service entry when the region is busy there, else the busy entry that follows; service entries and
then regions are searched ascending (DESIGN CHOICE, log 104). -/
def Image.serviceConflict (g : Image) : Option Nat :=
  (List.range g.entries).findSome? (fun e =>
    if !(bit (g.stroke e) 16) then none
    else (List.range 64).findSome? (fun r =>
      if !(g.serves e r) then none
      else if g.regionBusy r e then some e
      else g.idleRun r g.entries e g.wakeEntries))

/-- R160: store units of 128 KiB an image takes on die `d`. -/
def Image.storeUnits (g : Image) (d : Nat) : Nat :=
  if !(g.dies.testBit d) then 0
  else
    ceilDiv (256 + 16 * g.phases + 32 * g.entries + 16 * (g.nCg + g.nZero + g.nExt) +
      (g.streams.filter (fun t => uidDie t.unit == d)).foldl (fun n t =>
        n + 32 + 8 * g.entries + 16 * t.nWin + (if (t.unit / 0x2000) % 2 = 0 then 80 * g.phases else 0) + t.codeBytes) 0) (2 ^ 17)

/-- R165: free store units of die `d`, slot `skip` not counted. -/
def Scr.free (c : Scr) (d : Nat) (skip : Option Nat) : Nat :=
  192 - (List.range 8).foldl (fun n i =>
    if some i = skip then n
    else match c.slots.get none i with
      | some g => n + g.storeUnits d
      | none => n) 0

/-- R150: an external entry that breaks its layout. -/
def ExtEntry.bad (x : ExtEntry) : Bool :=
  x.len == 0 || !(x.kind == 1 || x.kind == 2) || decide (x.wr > 1) || decide (x.base < 0x100000000000) ||
    decide (x.base + x.len > 0x100000000000 + 128 * 2 ^ 36)

/-- 0x0D, 0x29 XT_KIND: the XT entry an external range crosses whose KIND differs or whose WR is 0 for a written range. -/
def Image.xtConflict (g : Image) (m : Mem) : Option Nat :=
  (List.range g.nExt).findSome? (fun i =>
    let x := g.ext i
    if x.bad then none
    else
      let n0 := (x.base - 0x100000000000) / 2 ^ 36
      let n1 := (x.base + x.len - 1 - 0x100000000000) / 2 ^ 36
      (List.range (n1 + 1 - n0)).findSome? (fun k =>
        let w := m.xt.get 0 (n0 + k)
        let kind := if bits w 2 2 = 3 then 0 else bits w 2 2
        if kind != x.kind || (x.wr == 1 && !(bit w 1)) then some (n0 + k) else none))

/-- 0x0C SEGMENT_SIZE: the first stream's unit with a segment above 4,096 bytes (DESIGN CHOICE, log 103). -/
def Image.segmentSize (g : Image) : Option Nat :=
  (g.streams.find? (fun t => (List.range g.entries).any (fun e => decide ((g.seg t e).2 > 4096)))).map (fun t => t.unit)

/-- 0x0E BAD_STREAM: a reserved or repeated UNIT, a CLAIM_OFF against its kind, or a reserved header field not 0. -/
def Image.badStream (g : Image) : Option Nat :=
  (List.range g.nStreams).find? (fun i =>
    let t := g.stream i
    !(isStreamUnit t.unit) || t.rsv != 0 || ((t.claimOff != 0) != isClusterUnit t.unit) ||
      (List.range i).any (fun k => (g.stream k).unit == t.unit))

/-- R149: a stroke-table entry that breaks its layout. -/
def Image.badEntry (g : Image) (e : Nat) : Bool :=
  let w := g.stroke e
  decide (bits w 0 16 ≥ g.phases) || anyBits w 18 14 || anyBits w 128 128 ||
    decide (bits w 48 16 * 64 > g.pUs * 1000 - g.cwNs) || (!(bit w 16) && anyBits w 64 64)

/-- 0x0F BAD_STROKE: the first offending entry, by table then stream order; WHERE is 0 when the number of entries offends, and for
STEP_STROKES 0, which no reason names (DESIGN CHOICE, log 101). -/
def Image.badStroke (g : Image) : Option Nat :=
  if g.entries > 65536 || g.body = 0 then some 0
  else
    (List.range g.entries).find? g.badEntry <|>
    (List.range g.nCg).find? (fun i => decide ((g.cg i).1 > 63) || g.at (g.cgOff + 16 * i + 1) 3 != 0 ||
      g.at (g.cgOff + 16 * i + 8) 8 != 0 || (List.range i).any (fun k => (g.cg k).1 == (g.cg i).1)) <|>
    (List.range g.nZero).find? (fun i => (g.zero i).1 % 64 != 0 || (g.zero i).2 % 64 != 0 || (g.zero i).2 == 0) <|>
    (List.range g.nExt).find? (fun i => (g.ext i).bad) <|>
    (List.range g.nStreams).find? (fun i => (g.wins (g.stream i)).any (fun w =>
      w.base % 64 != 0 || decide (w.last < w.first) || decide (w.last ≥ g.entries) || w.lines == 0 || w.rsv != 0))

/-- R161: the loader's checks, first failure only. -/
def Image.check (g : Image) (capt : List Nat) (m : Mem) (c : Scr) (slot : Nat) : LoadRes :=
  if g.badMagic then .refuse 0x01 0
  else if g.badLength then .refuse 0x02 0
  else if g.badDigest then .refuse 0x03 0
  else match g.captDiff capt with
  | some o => .capt o
  | none =>
  if !(diesValid g.dies) then .refuse 0x04 0
  else if g.pUs < 25 || g.pUs > 4000 || g.cwNs ≥ g.pUs * 1000 then .refuse 0x05 0
  else match (List.range g.phases).find? g.badPhase with
  | some i => .refuse 0x06 i
  | none => match g.bankConflict with
  | some u => .refuse 0x07 u
  | none => match g.windowOverlap with
  | some e => .refuse 0x08 e
  | none => match g.outOfPartition with
  | some u => .refuse 0x09 u
  | none => match g.serviceConflict with
  | some e => .refuse 0x0A e
  | none => match [0, 1, 2, 3].find? (fun d => decide (g.storeUnits d > c.free d (some slot))) with
  | some d => .refuse 0x0B d
  | none => match g.segmentSize with
  | some u => .refuse 0x0C u
  | none => match g.xtConflict m with
  | some n => .refuse 0x0D n
  | none => match g.badStream with
  | some i => .refuse 0x0E i
  | none => match g.badStroke with
  | some i => .refuse 0x0F i
  | none => .ok

/-- DETAIL of a refusal (R161). -/
def refDetail (reason where_ : Nat) : Nat := reason + (where_ % 2 ^ 16) * 2 ^ 16

/-- A refusal completes with its status and shows in SC_LASTREF. -/
def State.refuse (s : State) (q seq st reason where_ : Nat) : State :=
  ({ s with scr := { s.scr with lastRef := BitVec.ofNat 32 (refDetail reason where_) } }).finish q seq st (refDetail reason where_) 0

/-- Read `n` host lines from `h`; none at poison. -/
def Mem.hostLines (m : Mem) (h : Nat) : Nat → Option Nat
  | 0 => some 0
  | n + 1 =>
    match m.hostLine h, Mem.hostLines m (h + 64) n with
    | some v, some r => some (v.toNat + 2 ^ 512 * r)
    | _, _ => none

/-- A slot whose launch runs (R130, R165). -/
def State.slotRuns (s : State) (slot : Nat) : Bool :=
  [0, 1, 2, 3].any (fun p => match (s.getPartn p).launch with
    | some l => l.slot.val == slot
    | none => false)

/-- R130, R160: LOAD_SCRIPT reads and checks an image and replaces the slot's content in one step, or refuses it. -/
def execLoadScript (q : Fin 81) (seq : Nat) (s : State) : Host.Outcome State Fault Refusal :=
  .next (s.onDesc q.val seq 0x13
    (fun d => [(64, bits d 64 6 != 0), (128, bits d 128 6 != 0), (163, anyBits d 163 349)])
    (fun d s =>
      let slot := bits d 160 3
      let len := bits d 128 32
      if !s.hp.linkUp then s
      else if s.slotRuns slot then s.finish q.val seq stBusy 0 0
      else if hostPast (bits d 64 64) len then s.finish q.val seq stBadAddr 1 0
      else
        match s.dp.mem.hostLines (bits d 64 64) (len / 64) with
        | none => s.finish q.val seq stPoison 0 0
        | some v =>
          let g : Image := ⟨len, v⟩
          match g.check s.capt s.dp.mem s.scr slot with
          | .capt o => s.finish q.val seq stCapt o 0
          | .refuse r w => s.refuse q.val seq stScript r w
          | .ok => ({ s with scr := { s.scr with slots := s.scr.slots.put none slot (some g) } }).finish q.val seq stOk 0 0))

end Sys2Proof.Machine
end

