-- ==== Sys2Proof/Machine/TorusOps.lean ====
section
/-! DEFINITION. Torus operations (13_torus_links.md): flits and retry (R322–R325), link credits (R331), packets, hop sequence
numbers and classes (R327–R332), routing (R333–R335), failover (R340), and CG placement (R338). -/

namespace Sys2Proof.Machine

def Torus.port (t : Torus) (p : Nat) : Port := t.ports.get {} p
def Torus.setPort (t : Torus) (p : Nat) (f : Port → Port) : Torus := { t with ports := t.ports.upd {} p f }
def State.setPort (s : State) (p : Nat) (f : Port → Port) : State := { s with torus := s.torus.setPort p f }

/-- The four ports of direction `i` that are LIVE, in ascending order (R318). -/
def Torus.liveOf (t : Torus) (i : Nat) : List Nat := [i, 6 + i, 12 + i, 18 + i].filter (fun p => (t.port p).state == .live)

/-- The ports of direction `i` that carry control symbols: the LIVE ones, then those in LOCK (R343), each in ascending order. -/
def Torus.lockOf (t : Torus) (i : Nat) : List Nat := [i, 6 + i, 12 + i, 18 + i].filter (fun p => (t.port p).state == .lock)
def Torus.carryOf (t : Torus) (i : Nat) : List Nat := t.liveOf i ++ t.lockOf i

/-- A port that carries control symbols and flits: LIVE, or in LOCK (R343). -/
def Torus.carries (t : Torus) (p : Nat) : Bool := (t.port p).state == .live || (t.port p).state == .lock

/-- R337: the neighbour entry of direction `i`: valid, pod, package. -/
def Torus.nbValid (t : Torus) (i : Nat) : Bool := bit (t.neigh.get 0 i) 31
def Torus.nbPod (t : Torus) (i : Nat) : Nat := bits (t.neigh.get 0 i) 12 6
def Torus.nbPkg (t : Torus) (i : Nat) : Nat := bits (t.neigh.get 0 i) 0 12

/-- R337: a port is inter-pod when its neighbour's pod differs from the own pod. -/
def Torus.interPod (t : Torus) (i : Nat) : Bool := t.nbValid i && t.nbPod i != t.pod

/-! ### Packet headers (R327) -/

end Sys2Proof.Machine

namespace Sys2Proof
open Machine

def Packet.typ (k : Packet) : Nat := bits k.hdr 0 8
def Packet.nlines (k : Packet) : Nat := bits k.hdr 8 8
def Packet.vc (k : Packet) : Nat := bits k.hdr 16 3
def Packet.cls (k : Packet) : Nat := bits k.hdr 19 1
def Packet.hops (k : Packet) : Nat := bits k.hdr 24 8
def Packet.dpkg (k : Packet) : Nat := bits k.hdr 32 12
def Packet.dpod (k : Packet) : Nat := bits k.hdr 48 8
def Packet.spod (k : Packet) : Nat := bits k.hdr 56 8
def Packet.spkg (k : Packet) : Nat := bits k.hdr 64 12
def Packet.hseq (k : Packet) : Nat := bits k.hdr 80 24
def Packet.addr (k : Packet) : Nat := bits k.hdr 128 48
def Packet.tag (k : Packet) : BitVec 64 := k.hdr.extractLsb' 192 64
def Packet.args (k : Packet) : BitVec 256 := k.hdr.extractLsb' 256 256
def Packet.rtag (k : Packet) : BitVec 32 := k.hdr.extractLsb' 192 32

end Sys2Proof

namespace Sys2Proof.Machine

/-- A header from its fields. -/
def mkHdr (typ lines vc cls hops dpkg dpod spod spkg hseq addr : Nat) (tag : BitVec 64) (args : BitVec 256) : BitVec 512 :=
  BitVec.ofNat 512 (packBytes [(0, typ % 256), (1, lines % 256), (2, vc % 8 + 8 * (cls % 2)), (3, hops % 256), (4, dpkg % 4096),
    (6, dpod % 256), (7, spod % 256), (8, spkg % 4096), (10, hseq % 2 ^ 24), (16, addr % 2 ^ 48), (24, tag.toNat),
    (32, args.toNat)])

end Sys2Proof.Machine

namespace Sys2Proof
open Machine

/-- A packet's header with new HOPS, class and HSEQ: what a hop changes (R327, R329, R332). -/
def Packet.rehop (k : Packet) (hops cls hseq : Nat) : Packet :=
  { k with hdr := mkHdr k.typ k.nlines k.vc cls hops k.dpkg k.dpod k.spod k.spkg hseq k.addr k.tag k.args }

end Sys2Proof

namespace Sys2Proof.Machine

/-- R328: the VC a type travels on and its range of LINES; none for a reserved type. -/
def typeRule : Nat → Option (Nat × Nat × Nat)
  | 1 => some (2, 1, 64) | 2 => some (0, 0, 0) | 3 => some (0, 0, 0) | 4 => some (1, 0, 64) | 5 => some (3, 1, 64)
  | 6 => some (4, 0, 0) | 7 => some (4, 1, 64)
  | _ => none

/-! ### CRC and flits -/

/-- One bit of the CRC-64 of R322, most significant bit first. -/
def crcBit (c : Nat) (b : Bool) : Nat :=
  let top := c.testBit 63 != b
  let s := (2 * c) % 2 ^ 64
  if top then s ^^^ 0x42F0E1EBA9EA3693 else s

/-- One byte of the CRC. -/
def crcByte (c v : Nat) : Nat :=
  [7, 6, 5, 4, 3, 2, 1, 0].foldl (fun c i => crcBit c (v.testBit i)) c

/-- The CRC of the first `n` bytes of a number, byte 0 first. -/
def crcBytes : Nat → Nat → Nat → Nat
  | 0, _, c => c
  | n + 1, v, c => crcBytes n (v / 256) (crcByte c (v % 256))

end Sys2Proof.Machine

namespace Sys2Proof
open Machine

/-- R322: the CRC of a flit, over bytes 0–55 of slot 0 and the data slots. -/
def Flit.crc (f : Flit) : Nat := f.slots.foldl (fun c l => crcBytes 64 l.toNat c) (crcBytes 56 (f.ctl.toNat % 2 ^ 448) 0)

def Flit.seq (f : Flit) : BitVec 12 := f.ctl.extractLsb' 0 12
def Flit.ack (f : Flit) : BitVec 12 := f.ctl.extractLsb' 16 12
def Flit.nak (f : Flit) : Bool := bit f.ctl 28
def Flit.cred (f : Flit) (i : Nat) : Nat := bits f.ctl (32 + 8 * i) 8
def Flit.desc (f : Flit) (k : Nat) : Nat := bits f.ctl (8 * (15 + k)) 8

end Sys2Proof

namespace Sys2Proof.Machine

/-- The slots an output item still has to send. -/
def OutItem.slots (x : OutItem) : List (BitVec 512) := (x.pkt.hdr :: x.pkt.lines).drop (x.pkt.lines.length + 1 - x.left)

/-- An item's VC and class as 2·VC + class. -/
def OutItem.vk (x : OutItem) : Nat := 2 * x.pkt.vc + x.pkt.cls

/-- R329: the packets of a port with a slot in an unacknowledged flit: 2·VC + class and HSEQ. -/
def Port.held (p : Port) : List (Nat × Nat) :=
  p.out.filterMap (fun x => if !x.ctrl && x.lastSeq.isSome then some (x.vk, x.pkt.hseq) else none)

/-- What a port needs of its package to send: the weights of LK_VCW (R330), and the packets its siblings hold unacknowledged (R329). -/
structure Link where
  weights : BitVec 16
  held : List (Nat × Nat)

/-- R329: an HSEQ at most 2,048 above the oldest packet of its VC and class held unacknowledged. -/
def windowOk (held : List (Nat × Nat)) (vk h : Nat) : Bool :=
  held.all (fun x => x.1 != vk ||
    (let d := (h + 2 ^ 24 - x.2) % 2 ^ 24
     decide (d ≤ 2048) || decide (2 ^ 23 ≤ d)))

/-- What one flit has taken so far: room left, descriptors and slots in reverse, link credits in use, items, and the turn of R330. -/
structure Fill where
  room : Nat
  acc : List (Nat × BitVec 512)
  used : Tab Nat
  out : List OutItem
  vc : Nat
  left : Nat

/-- The first item with slots left of each VC and class, and of the control symbols, with its place. -/
def heads : List (OutItem × Nat) → List Nat → List (OutItem × Nat)
  | [], _ => []
  | (x, i) :: r, seen =>
    let key := if x.ctrl then 100 else x.vk
    if x.left = 0 || seen.contains key then heads r seen else (x, i) :: heads r (key :: seen)

/-- R329, R331, R343: a port can send a slot of an item now. -/
def Port.mayGo (p : Port) (l : Link) (f : Fill) (x : OutItem) : Bool :=
  if x.ctrl then p.state == .live || p.state == .lock || p.state == .training
  else p.state == .live && decide (f.used.get 0 x.vk < 256) &&
    (decide (x.left ≤ x.pkt.lines.length) || windowOk (l.held ++ p.held) x.vk x.pkt.hseq)

/-- R344: the weight of VC `v`, 1 to 4. -/
def Link.weight (l : Link) (v : Nat) : Nat := bits l.weights (4 * (v - 1)) 4

/-- The weighted VC after `v` in the round, `k` turns on. -/
def turnVc (v k : Nat) : Nat := (v + k - 1) % 4 + 1

/-- R330: the item served next and the most slots it may send now, with the turn of the round robin after it: control symbols, then
VC 0, then the weighted VC in service, then the next one with a slot ready; one of weight 0 when no other has one. -/
def Port.pick (p : Port) (l : Link) (f : Fill) : Option (OutItem × Nat × Nat × Nat × Nat) :=
  let h := (heads f.out.zipIdx []).filter (fun x => p.mayGo l f x.1)
  let of := fun v => h.find? (fun x => !x.1.ctrl && x.1.pkt.vc == v)
  match h.find? (fun x => x.1.ctrl) with
  | some x => some (x.1, x.2, 1, f.vc, f.left)
  | none =>
  match of 0 with
  | some x => some (x.1, x.2, x.1.left, f.vc, f.left)
  | none =>
  match (if f.left = 0 then none else of f.vc) with
  | some x => some (x.1, x.2, f.left, f.vc, f.left)
  | none =>
  match [1, 2, 3, 4].find? (fun k => l.weight (turnVc f.vc k) != 0 && (of (turnVc f.vc k)).isSome) with
  | some k => (of (turnVc f.vc k)).map (fun x => (x.1, x.2, 64 * l.weight (turnVc f.vc k), turnVc f.vc k, 64 * l.weight (turnVc f.vc k)))
  | none => ([1, 2, 3, 4].findSome? (fun k => of (turnVc f.vc k))).map (fun x => (x.1, x.2, 1, f.vc, f.left))

/-- R322, R323, R331: the slots of one item go into flit `seq`. -/
def Fill.take (f : Fill) (seq : Nat) (x : OutItem) (i most vc left : Nat) : Fill :=
  let n := min (min x.left f.room) (if x.ctrl then 1 else min most (256 - f.used.get 0 x.vk))
  let first := x.left = x.pkt.lines.length + 1
  let took := (x.slots.take n).zipIdx.map (fun y =>
    (if x.ctrl then 3 * 16 else x.pkt.vc + 8 * x.pkt.cls + 16 * (if first && y.2 == 0 then 1 else 2), y.1))
  { room := f.room - n, acc := took.reverse ++ f.acc, used := if x.ctrl then f.used else f.used.upd 0 x.vk (· + n),
    out := f.out.set i { x with left := x.left - n, lastSeq := some seq },
    vc := vc, left := if x.ctrl || x.pkt.vc = 0 then left else left - n }

/-- Fill a flit: items are served while there is room and one is ready. -/
def Port.fill (p : Port) (l : Link) : Nat → Fill → Fill
  | 0, f => f
  | n + 1, f =>
    if f.room = 0 then f
    else
      match p.pick l f with
      | none => f
      | some (x, i, most, vc, left) => Port.fill p l n (f.take p.txSeq.toNat x i most vc left)

/-- What a flit has taken before it is filled. -/
def Port.startFill (p : Port) (room : Nat) : Fill := { room := room, acc := [], used := p.used, out := p.out, vc := p.rrVc, left := p.rrLeft }

/-- R322: the flit's control slot and CRC. -/
def sealFlit (seq ack : BitVec 12) (nak : Bool) (owed : Tab Nat) (items : List (Nat × BitVec 512)) : Flit :=
  let slots := items.map (·.2) ++ List.replicate (32 - items.length) 0
  let base := packBytes ([(0, seq.toNat), (2, ack.toNat + if nak then 4096 else 0)] ++
    (List.range 10).map (fun i => (4 + i, min 255 (owed.get 0 i))) ++
    (items.zipIdx.map (fun y => (16 + y.2, y.1.1))))
  let f : Flit := ⟨BitVec.ofNat 512 base, slots⟩
  ⟨BitVec.ofNat 512 (base + f.crc * 2 ^ 448), slots⟩

/-- R322, R324, R331: build and send the next flit; credits beyond the 255 that CRED holds stay owed. `time` is a TIME symbol that goes
ahead of data and is not replayed (R325). -/
def Port.sendFlit (p : Port) (l : Link) (time : Option (BitVec 512)) : Port :=
  let r := p.fill l 64 (p.startFill (if time.isSome then 31 else 32))
  let held := r.acc.reverse
  let kept := match time with
    | some _ => (0, (0 : BitVec 512)) :: held
    | none => held
  { p with txSeq := p.txSeq + 1, out := r.out, used := r.used, rrVc := r.vc, rrLeft := r.left, nakOwed := false,
           owed := (List.range 10).foldl (fun (o : Tab Nat) i => o.upd 0 i (fun n => n - min 255 n)) p.owed,
           unacked := p.unacked ++ [sealFlit p.txSeq (p.rxSeq - 1) p.nakOwed p.owed kept],
           timeSent := match time with
             | some t => t
             | none => p.timeSent }

/-- Something waits that a flit could carry now. -/
def Port.canSend (p : Port) (l : Link) : Bool := decide (p.unacked.length < 255) && (p.pick l (p.startFill 32)).isSome

/-- Send flits while something can go. -/
def Port.pump (l : Link) : Nat → Port → Port
  | 0, p => p
  | n + 1, p => if p.canSend l then Port.pump l n (p.sendFlit l none) else p

/-- What port `p` needs of its package to send. -/
def Torus.link (t : Torus) (p : Nat) : Link :=
  ⟨t.vcw, ([0, 1, 2, 3].map (fun k => 6 * k + p % 6)).flatMap (fun q => if q = p then [] else (t.port q).held)⟩

/-- Port `p` sends what can go. -/
def State.pumpPort (s : State) (p : Nat) : State :=
  let l := s.torus.link p
  s.setPort p (Port.pump l 256)

/-- The ports of direction `i` send what can go. -/
def State.pumpDir (s : State) (i : Nat) : State := [i, 6 + i, 12 + i, 18 + i].foldl State.pumpPort s

/-- A control symbol of type `ctype` with its payload bytes (R325). -/
def mkSymbol (ctype : Nat) (pay : List (Nat × Nat)) : BitVec 512 := BitVec.ofNat 512 (packBytes ((0, ctype) :: pay))

/-- Queue a control symbol on a port. -/
def Port.symbol (p : Port) (sym : BitVec 512) : Port :=
  { p with out := p.out ++ [{ ctrl := true, pkt := ⟨sym, []⟩, left := 1, lastSeq := none }] }

/-- Queue a packet on a port; a port in LOCK first sends WAKE (R343). -/
def Port.enqueue (p : Port) (k : Packet) (arrived : Option (Nat × Nat)) : Port :=
  let p := if p.state == .lock && !p.wakeSent then { p.symbol (mkSymbol 5 []) with wakeSent := true } else p
  { p with out := p.out ++ [{ ctrl := false, pkt := k, left := k.lines.length + 1, lastSeq := none, arrived := arrived }] }

/-- A control symbol goes out on port `p`. -/
def State.sendSymbol (s : State) (p : Nat) (sym : BitVec 512) : State := (s.setPort p (fun x => x.symbol sym)).pumpPort p

/-- A port whose link is gone: nothing in flight, and no credit owed for what it had delivered (R331). -/
def Port.cut (x : Port) : Port :=
  { x with out := [], unacked := [], opened := [], used := [], owed := [], rxSeq := 0, txSeq := 0, replays := 0, marked := false,
           rrVc := 0, rrLeft := 0, wakeSent := false, ready := false, uncredited := x.inbox.length }

/-- R324: flits up to SEQ `a` are acknowledged; items whose last slot they carried are done. -/
def Port.acked (p : Port) (a : BitVec 12) : Port :=
  let oldest := p.txSeq - BitVec.ofNat 12 p.unacked.length
  let n := (a - oldest + 1).toNat
  let got : OutItem → Bool := fun x => match x.lastSeq with
    | some s => decide ((BitVec.ofNat 12 s - oldest).toNat < n)
    | none => false
  if n = 0 || n > p.unacked.length then p
  else
    { p with unacked := p.unacked.drop n, replays := 0,
             out := (p.out.filter (fun x => !(got x && x.left = 0))).map (fun x => if got x then { x with lastSeq := none } else x) }

/-- R324: a NAK makes the sender replay from ACK + 1. -/
def Port.nakked (p : Port) (a : BitVec 12) : Port :=
  let p := p.acked a
  if p.unacked.isEmpty then p
  else { p with retry := satAdd p.retry 1, replays := p.replays + 1, replayed := p.replayed + p.unacked.length }

/-- R53: the units that await a packet among those named have CAUSE REPLAY. -/
def State.causeReplay (s : State) (l : List Packet) : State :=
  let us := (s.torus.awaits.filter (fun a => l.any (fun k => k.rtag == a.rtag && k.spkg == s.torus.pkg && k.spod == s.torus.pod))).map
    (fun a => a.unit)
  { s with dp := us.foldl (fun (d : Dp) u => d.setUnit u (fun x => { x with cause := x.cause ||| 0x10#6 })) s.dp }

/-- The packets of a port with a slot in an unacknowledged flit. -/
def Port.flying (p : Port) : List Packet := (p.out.filter (fun x => !x.ctrl && x.lastSeq.isSome)).map (fun x => x.pkt)

/-- R53, R324: when port `p` has replayed since `was`, the units whose packets its flits carry have CAUSE REPLAY. -/
def State.replayed (s : State) (p : Nat) (was : Port) : State :=
  if (s.torus.port p).replayed ≤ was.replayed then s else s.causeReplay (s.torus.port p).flying

/-- R429: class 3 recovery is complete when every resent packet has been acknowledged. -/
def State.portRecovered (s : State) : State :=
  if (s.torus.ports).any (fun x => x.2.out.any (fun y => y.resent)) then s
  else s.onDp (fun e => completeRecov e 3)

/-! ### Receiving slots -/

/-- R331: slots of a receiving buffer are free again: their credits are owed. -/
def Port.free (p : Port) (vk n : Nat) : Port := { p with owed := p.owed.upd 0 vk (· + n) }

/-- One data slot of a good flit (R323, R325, R331): a packet keeps its slots until it leaves the port; a discarded slot is free. -/
def Port.slot (p : Port) (desc : Nat) (l : BitVec 512) : Port :=
  let vk := 2 * (desc % 8) + (desc / 8) % 2
  let kind := (desc / 16) % 8
  match kind with
  | 0 => p
  | 1 =>
    match p.opened.get none vk with
    | some k => { p.free vk (k.lines.length + 2) with opened := p.opened.put none vk none, drop := satAdd p.drop 2 }
    | none =>
      if bits l 8 8 = 0 then { p with inbox := p.inbox ++ [⟨l, []⟩] }
      else { p with opened := p.opened.put none vk (some ⟨l, []⟩) }
  | 2 =>
    match p.opened.get none vk with
    | none => { p.free vk 1 with drop := satAdd p.drop 1 }
    | some k =>
      let k := { k with lines := k.lines ++ [l] }
      if k.lines.length = k.nlines then { p with opened := p.opened.put none vk none, inbox := p.inbox ++ [k] }
      else { p with opened := p.opened.put none vk (some k) }
  | 3 => if 1 ≤ bits l 0 8 && bits l 0 8 ≤ 6 then { p with symbols := p.symbols ++ [l] } else { p with drop := satAdd p.drop 1 }
  | _ => { p with drop := satAdd p.drop 1 }

/-- R331: the oldest packet leaves the port's buffer, and its credits are owed unless the link that brought it has failed. -/
def Port.popInbox (p : Port) : Port :=
  match p.inbox with
  | [] => p
  | k :: r =>
    if p.uncredited = 0 then { p.free (2 * k.vc + k.cls) (k.lines.length + 1) with inbox := r }
    else { p with inbox := r, uncredited := p.uncredited - 1 }

/-- R323, R325, R407: why a slot is dropped, for its record: 5 a reserved kind, 6 DATA without an open packet, 7 HEADER over an open packet,
8 a reserved control symbol; none when it is taken. -/
def Port.slotDrop (p : Port) (desc : Nat) (l : BitVec 512) : Option Nat :=
  let isOpen := (p.opened.get none (2 * (desc % 8) + (desc / 8) % 2)).isSome
  match (desc / 16) % 8 with
  | 0 => none
  | 1 => if isOpen then some 7 else none
  | 2 => if isOpen then none else some 6
  | 3 => if 1 ≤ bits l 0 8 && bits l 0 8 ≤ 6 then none else some 8
  | _ => some 5

/-- R323: one slot reaches port `p`, and a dropped one is recorded. -/
def State.takeSlot (s : State) (p desc : Nat) (l : BitVec 512) : State :=
  let t := s.setPort p (fun x => x.slot desc l)
  match (s.torus.port p).slotDrop desc l with
  | none => t
  | some why => t.note (portUid p) 0x32 ([(24, p), (25, why)] ++
      if why = 7 then [(26, bits l 0 8), (28, bits l 32 12), (30, bits l 48 8)] else [])

/-- The slots of a flit in order, with their descriptors. -/
def State.takeSlots (s : State) (p : Nat) (f : Flit) : State :=
  (f.slots.zipIdx).foldl (fun s y => s.takeSlot p (f.desc (y.2 + 1)) y.1) s

/-! ### Routing -/

/-- R338: the entry of the active remap table whose logical package is (pod, pkg), if VALID. -/
def Torus.remapOf (t : Torus) (pod pkg : Nat) : Option (Nat × Nat) :=
  ((List.range 16).map (fun n => t.remap.get 0 n)).findSome? (fun e =>
    if bit e 63 && bits e 12 6 == pod && bits e 0 12 == pkg then some (bits e 44 6, bits e 32 12) else none)

/-- R338: the three extents and origins of a CG entry by dimension number. -/
def cgExt (e : BitVec 256) (dim : Nat) : Nat := bits e (128 + 8 * dim) 8
def cgOrg (e : BitVec 256) (dim : Nat) : Nat := bits e (104 + 8 * dim) 8
def cgSize (e : BitVec 256) : Nat := bits e 32 32
def cgRank (e : BitVec 256) : Nat := bits e 64 32
def cgValid (e : BitVec 256) : Bool := bit e 0
def cgOrder (e : BitVec 256) (i : Nat) : Nat := bits e (8 + 2 * i) 2
def cgNpod (e : BitVec 256) : Nat := bits e 152 8

/-- R338: the logical package of rank `r`: pod and package index. -/
def cgLogical (e : BitVec 256) (r : Nat) : Nat × Nat :=
  let d0 := cgOrder e 0
  let d1 := cgOrder e 1
  let d2 := cgOrder e 2
  let r0 := r % max 1 (cgExt e d0)
  let q0 := r / max 1 (cgExt e d0)
  let r1 := q0 % max 1 (cgExt e d1)
  let q1 := q0 / max 1 (cgExt e d1)
  let r2 := q1 % max 1 (cgExt e d2)
  let q2 := q1 / max 1 (cgExt e d2)
  let digit := fun dim => if dim = d0 then r0 else if dim = d1 then r1 else r2
  let c := fun dim => (cgOrg e dim + digit dim) % 16
  (bits e 96 8 + q2, c 0 + 16 * c 1 + 256 * c 2)

/-- R338: the physical package of rank `r` of CG `n`. -/
def Torus.rankPkg (t : Torus) (n r : Nat) : Nat × Nat :=
  let l := cgLogical (t.cgs.get 0 n) r
  (t.remapOf l.1 l.2).getD l

/-- R338: the conditions of a VALID entry. -/
def cgOk (e : BitVec 256) : Bool :=
  let ds := [cgOrder e 0, cgOrder e 1, cgOrder e 2]
  ds.all (fun x => decide (x < 3)) && cgOrder e 0 != cgOrder e 1 && cgOrder e 1 != cgOrder e 2 && cgOrder e 0 != cgOrder e 2 &&
    [0, 1, 2].all (fun i => decide (1 ≤ cgExt e i) && decide (cgExt e i ≤ 16) && decide (cgOrg e i ≤ 15)) &&
    decide (1 ≤ cgNpod e) && decide (cgNpod e ≤ 64) && decide (cgSize e = cgExt e 0 * cgExt e 1 * cgExt e 2 * cgNpod e) &&
    decide (1 ≤ cgSize e) && decide (cgSize e ≤ 262144) && decide (cgRank e < cgSize e)

/-- R333, R334: the routing entry of a destination. -/
def Torus.route (t : Torus) (pod pkg : Nat) : BitVec 8 := if pod = t.pod then t.pkgTab.get 0 pkg else t.podTab.get 0 pod

/-- What the routing decides (R334, R341). -/
inductive Hop where
  | local_
  | unreachable
  | out (dir : Nat) (dl : Bool)
  | park (dir : Nat)
  deriving DecidableEq, Repr

/-- R334, R338, R341: local delivery, an output direction, or a wait for one. -/
def Torus.hop (t : Torus) (pod pkg : Nat) : Hop :=
  if pod = t.pod && pkg = t.pkg then .local_
  else if (t.remapOf pod pkg).isSome then .unreachable
  else
    let e := t.route pod pkg
    let dir := bits e 0 3
    let alt := bits e 3 3
    if dir = 7 || alt = 6 then .unreachable
    else if dir = 6 then .local_
    else if !(t.carryOf dir).isEmpty then .out dir (bit e 6)
    else if alt = 7 then .park dir
    else .out alt (bit e 6)

/-- R320, R340: the port that carries a packet of plane `d` in direction `i`: the plane's own when it can, else a live sibling in
rotation; a direction with ports in LOCK alone wakes the lowest (R343). -/
def Torus.portFor (t : Torus) (d i : Nat) : Nat × Torus :=
  let own := 6 * d + i
  if (t.port own).state == .live || (t.port own).state == .lock then (own, t)
  else
    match t.liveOf i with
    | [] => ((t.lockOf i).headD own, t)
    | l =>
      let k := t.rot.get 0 own
      (l.getD (k % l.length) own, { t with rot := t.rot.put 0 own (k + 1) })

/-- R332: the class a packet leaves in. -/
def outClass (dl : Bool) (arrived : Option (Nat × Nat)) (dir : Nat) : Nat :=
  if dl then 1
  else match arrived with
    | none => 0
    | some (fromDir, c) => if fromDir / 2 = dir / 2 then c else 0

/-- A dropped packet: LK_DROP and a record with its reason, in the order of R328's list. -/
def State.dropPacket (s : State) (p reason : Nat) (k : Packet) : State :=
  (s.setPort p (fun x => { x with drop := satAdd x.drop 1 })).note (portUid p) 0x32
    [(24, p), (25, reason), (26, k.typ), (28, k.dpkg), (30, k.dpod)]

/-- The address a packet carries across the die fabric: only PUT, FLUE and EMBER packets with lines have one (R372). -/
def fabricAddr (k : Packet) : Option Nat := if k.lines.isEmpty then none else some k.addr

/-- R320, R372: lines of a packet that leaves by another die's port cross the edges to that die. -/
def State.crossPort (s : State) (d p : Nat) (k : Packet) : State :=
  s.onDp (fun _ x => x.cross (edgeRoute d (p / 6) (fabricAddr k)) k.lines.length)

/-- Send a packet on direction `dir` from plane `d`, with a fresh HSEQ (R329). -/
def State.launchOn (s : State) (d dir cls : Nat) (arrived : Option (Nat × Nat)) (k : Packet) : State :=
  let hk := 16 * dir + 2 * k.vc + cls
  let n := s.torus.hseq.get 0 hk
  let k := k.rehop k.hops cls n.toNat
  let pf := s.torus.portFor d dir
  let t := { pf.2 with hseq := pf.2.hseq.put 0 hk (n + 1) }
  (({ s with torus := t.setPort pf.1 (fun p => p.enqueue k arrived) }).crossPort d pf.1 k).pumpPort pf.1

/-- The key a packet waits under: direction, plane, and how it arrived (R341). -/
def parkKey (dir d : Nat) : Option (Nat × Nat) → Nat
  | none => dir + 8 * d
  | some (f, c) => dir + 8 * d + 32 * (1 + 2 * f + c)

/-- Route a packet that leaves plane `d`: `arrived` is its incoming direction and class, none at its origin. -/
def State.routePacket (s : State) (d : Nat) (arrived : Option (Nat × Nat)) (k : Packet) : State :=
  match s.torus.hop k.dpod k.dpkg with
  | .local_ => { s with torus := { s.torus with inbox := s.torus.inbox ++ [k] } }
  | .unreachable => s.dropPacket (6 * d) 4 k
  | .park dir => { s with torus := { s.torus with waiting := s.torus.waiting.upd [] (parkKey dir d arrived) (fun l => l ++ [k]) } }
  | .out dir dl => s.launchOn d dir (outClass dl arrived dir) arrived k

/-- R341: every packet that waits for a direction is routed again: after a commit, and when a port returns to LIVE. -/
def State.releaseWaiting (s : State) : State :=
  s.torus.waiting.foldl (fun (s : State) (x : Nat × List Packet) =>
    let a := x.1 / 32
    x.2.foldl (fun (s : State) k => s.routePacket (x.1 / 8 % 4) (if a = 0 then none else some ((a - 1) / 2, (a - 1) % 2)) k) s)
    { s with torus := { s.torus with waiting := [] } }

/-- A packet this package originates from a unit on die `d` (R320, R327): it draws an RTAG when it carries lines (R415). -/
def State.originate (s : State) (d unit typ vc dpkg dpod addr : Nat) (tag : BitVec 64) (args : BitVec 256)
    (lines : List (BitVec 512)) : State :=
  let k : Packet := ⟨mkHdr typ lines.length vc 0 0 dpkg dpod s.torus.pod s.torus.pkg 0 addr tag args, lines⟩
  let s := if lines.isEmpty then s
    else s.onDp (fun e dp => trace e unit { kind := 7, sub := vc, a0 := bits tag 0 32, a1 := lines.length, ppkg := dpkg, ppod := dpod,
                                            a2 := typ } dp)
  s.routePacket d none k

/-- The next RTAG, and the counter advanced (R415). -/
def State.nextRtag (s : State) : BitVec 32 × State :=
  (s.dp.log.rtag, { s with dp := { s.dp with log := { s.dp.log with rtag := s.dp.log.rtag + 1 } } })

/-- An ACK packet back to a packet's source, on the plane of die `d` (R320, R328). -/
def State.sendAck (s : State) (d : Nat) (k : Packet) : State :=
  s.originate d 0 2 0 k.spkg k.spod 0 (BitVec.ofNat 64 k.rtag.toNat) 0 []

/-- R329: a hop's HSEQ window: discard, or the window after delivery. -/
def Torus.hseqSeen (t : Torus) (dir : Nat) (k : Packet) : Bool × Torus :=
  let hk := 16 * dir + 2 * k.vc + k.cls
  let top := t.top.get 0 hk
  let seen := t.seen.get [] hk
  let ahead := (k.hseq + 2 ^ 24 - top % 2 ^ 24) % 2 ^ 24
  if ahead < 2 ^ 23 then
    -- at or above the top of the window: the window moves up
    let new := top + ahead + 1
    (false, { t with top := t.top.put 0 hk new, seen := t.seen.put [] hk ((top + ahead) :: seen.filter (fun x => decide (x + 4096 ≥ new))) })
  else
    let back := 2 ^ 24 - ahead
    if back > top then (true, t)
    else
      let n := top - back
      if back > 4096 then (decide (back ≤ 4096 + 2048), t)
      else if seen.contains n then (true, t)
      else (false, { t with seen := t.seen.put [] hk (n :: seen) })

/-- Remove a packet a typed command acts on from the package's inbox. -/
def State.takeInbox (s : State) (k : Packet) : State := { s with torus := { s.torus with inbox := s.torus.inbox.erase k } }

end Sys2Proof.Machine
end

