-- ==== Sys2Proof/Machine/LaunchOps.lean ====
section
/-! DEFINITION. Shared operations of launches (05_host_rings.md R131, R132; 06_scripts.md R157–R164; 11_training_step.md R281–R285):
refusals, layout and areas, zero-fill, the step line, acceptance and the end of a launch. -/

namespace Sys2Proof.Machine

/-! ### Refusals (R162) -/

/-- The running launches other than partition `p`'s, with their images. -/
def State.otherLaunches (s : State) (p : Nat) : List (Nat × Image) :=
  [0, 1, 2, 3].filterMap (fun k => if k = p then none else
    match (s.getPartn k).launch with
    | none => none
    | some l => (s.imageOf l).map (fun g => (k, g)))

/-- R87: ILV in units of 64 MiB under a script's layout. -/
def Image.ilv (g : Image) (ink : Nat) : Nat := 1024 - 16 * g.localGib - ink

/-- R162: the first refusal of a LAUNCH, with WHERE. A LOCAL_GIB above 63 has no reason of its own: only 0x21 bounds it (DESIGN CHOICE,
log 105). -/
def State.launchRefusal (s : State) (p : Nat) (g : Image) (start : Nat) : Option (Nat × Nat) :=
  let m := s.dp.mem
  let ilv := g.ilv m.ink.toNat
  let cgs := (List.range g.nCg).map g.cg
  let others := s.otherLaunches p
  let first := fun (c : Nat × Nat → Bool) => (cgs.find? c).map (fun x => x.1)
  if g.pUs != s.clk.period.toNat then some (0x20, s.clk.period.toNat)
  else if g.localGib * 16 + m.ink.toNat > 1024 || (g.ivBase + g.ivSize) * 2 ^ 30 > 12 * (ilv * 2 ^ 26) then some (0x21, g.localGib)
  else if g.ember + g.acc + g.stage > 16 * g.localGib then some (0x22, 0)
  else if m.hdmSize != 0 && decide ((m.hdmBase.toNat + m.hdmSize.toNat) * 2 ^ 30 > 12 * (ilv * 2 ^ 26)) then some (0x23, 0)
  else match first (fun x => !(s.torus.cgOpen.contains x.1)) with
  | some n => some (0x24, n)
  | none => match first (fun x => cgSize (s.torus.cgs.get 0 x.1) != x.2) with
  | some n => some (0x25, n)
  | none =>
  if (s.getPartn p).dies.toNat != g.dies then some (0x26, (s.getPartn p).dies.toNat)
  else match others.find? (fun o => o.2.localGib != g.localGib || o.2.ember != g.ember || o.2.acc != g.acc || o.2.stage != g.stage) with
  | some o => some (0x27, o.1)
  | none => match others.find? (fun o => g.ivSize != 0 && o.2.ivSize != 0 && decide (g.ivBase < o.2.ivBase + o.2.ivSize) && decide (o.2.ivBase < g.ivBase + g.ivSize)) with
  | some o => some (0x28, o.1)
  | none => match g.xtConflict m with
  | some n => some (0x29, n)
  | none => match first (fun x => (s.ownerOf (16 + x.1)).isSome) with
  | some n => some (0x2A, n)
  | none => match first (fun x => decide (start = 0) && decide (x.2 > 1)) with
  | some _ => some (0x2B, 0)
  | none => none

/-- R131, R463: a unit the script uses is disabled; a stack under test holds its Blotter disabled. -/
def State.usesDisabled (s : State) (g : Image) : Bool :=
  s.dp.units.any (fun x => (x.2.disabled || x.2.deferred) && g.uses x.1) ||
    (List.range 12).any (fun j => s.dp.mem.isoStacks.getLsbD j && g.uses (duid (j / 3) 1 (j % 3)))

/-! ### Zero-fill (R164, R283) -/

/-- The package address of a physical HBM byte in the interleaved view, if it lies in the interleaved part (R88, inverted). -/
def ivAddr (k : Nat) : Nat :=
  let j := k / 2 ^ 36
  let o := k % 2 ^ 36
  let q := o / 4096
  (12 * q + (j + 12 - q % 12) % 12) * 4096 + o % 4096

/-- The package address of a physical key under the layout in force; none for the inkwell area. -/
def Mem.addrOf (m : Mem) (k : Nat) : Option Nat :=
  if k < 2 ^ 40 then
    let o := k % 2 ^ 36
    if o < m.ilv.toNat * 2 ^ 26 then some (ivAddr k)
    else if o < m.ilv.toNat * 2 ^ 26 + m.localGib.toNat * 2 ^ 30 then some (localAddr (k / 2 ^ 36) (o - m.ilv.toNat * 2 ^ 26))
    else none
  else if k < 2 ^ 40 + 2 ^ 32 then some (sramAddr ((k - 2 ^ 40) / 2 ^ 22) ((k - 2 ^ 40) % 2 ^ 22))
  else if k < 2 ^ 40 + 2 * 2 ^ 32 then some (accAddr ((k - 2 ^ 40 - 2 ^ 32) / 2 ^ 17) ((k - 2 ^ 40 - 2 ^ 32) % 2 ^ 17))
  else some (rbufAddr ((k - 2 ^ 40 - 2 * 2 ^ 32) / 2 ^ 24) ((k - 2 ^ 40 - 2 * 2 ^ 32) % 2 ^ 24))

/-- Clear every byte whose package address satisfies `p`, with fresh check bits. -/
def Mem.clear (m : Mem) (p : Nat → Bool) : Mem :=
  let out := fun k => match m.addrOf k with
    | some a => !(p a)
    | none => true
  { m with cells := m.cells.filter (fun x => out x.1), marks := m.marks.filter (fun x => out (x.1 * 64)) }

/-- An address in the accumulation area of a stack of the dies (R283). -/
def Mem.accAddrOf (m : Mem) (dies a : Nat) : Bool :=
  match m.resolve a with
  | some l => m.inAcc l && l.inDies dies
  | none => false

/-- R164, R283: an address that clearing zeroes: in a zero-fill range of the script, or in an accumulation area of its dies. -/
def Mem.zeroes (m : Mem) (g : Image) (a : Nat) : Bool := (g.inZero a || m.accAddrOf g.dies a) && (m.resolve a).isSome

/-- R164, R283: what is cleared, in order: the zero-fill ranges, then the accumulation areas, as (address, 64-byte lines). -/
def Mem.zeroRanges (m : Mem) (g : Image) : List (Nat × Nat) :=
  (List.range g.nZero).map (fun i => ((g.zero i).1, (g.zero i).2 / 64)) ++
    ((List.range 12).filter (fun j => g.dies.testBit (j / 3))).map (fun j =>
      (localAddr j (bits m.areaAcc 16 16 * 2 ^ 26), bits m.areaAcc 0 16 * 2 ^ 20))

/-- R307: the residency counts after `n` lines from `a` on have been written. -/
def Mem.stageFill (m : Mem) (x : Nat × Nat) (t : Tab Nat) : Tab Nat :=
  let lo := x.1 - 0xC000000000
  if x.1 < 0xC000000000 || decide (0xC000000000 + 12 * 2 ^ 36 ≤ x.1) then t
  else
    (List.range ((lo + 64 * x.2 + 2 ^ 20 - 1) / 2 ^ 20 - lo / 2 ^ 20)).foldl (fun t i =>
      let b := lo / 2 ^ 20 + i
      if areaHas m.areaStage (b * 2 ^ 20 % 2 ^ 36) then
        t.upd 0 b (· + (min (lo + 64 * x.2) ((b + 1) * 2 ^ 20) - max lo (b * 2 ^ 20)) / 64)
      else t) t

/-- R105, R116, R164, R283, R307: the zero-fill ranges of a script and the accumulation areas of its dies are zero: fresh check bits, lines the
host caches back-invalidated, staging lines counted. -/
def Mem.zeroFill (m : Mem) (g : Image) : Mem :=
  let gone := m.snoop.filter (fun x => m.zeroes g (64 * x))
  { m.clear (m.zeroes g) with
    snoop := m.snoop.filter (fun x => !(m.zeroes g (64 * x))), backInv := m.backInv + gone.length,
    staged := (m.zeroRanges g).foldl (fun t x => m.stageFill x t) m.staged }

/-- R231: of `l` lines in pieces of 64, dealt from the `k`-th of all pieces on to `n` clusters in turn, those of cluster `i`. -/
def dealt (n k l i : Nat) : Nat :=
  let p := ceilDiv l 64
  let f := (i + n - k % n) % n
  64 * (if f < p then (p - 1 - f) / n + 1 else 0) - (if p ≠ 0 ∧ (p - 1) % n = f then 64 * p - l else 0)

/-- A FILL of clearing performs the line at `a`: mapped, or behind an external entry that admits writes (R107). -/
def Mem.zeroHits (m : Mem) (a : Nat) : Bool :=
  match m.resolve a with
  | none => false
  | some (.ext n o) => (m.xtHpa n o true).isSome
  | some _ => true

/-- R107: a FILL of clearing writes an external line. -/
def Mem.zeroHost (m : Mem) (a : Nat) : Mem :=
  match m.resolve a with
  | some (.ext n o) =>
    (match m.xtHpa n o true with
     | some h => m.hostSetLine h 0
     | none => m)
  | _ => m

/-- R85, R231: channel 0 of the clusters `cl` clears one range, its first piece the `k`-th: their SD_WRLINES counts, the lines that are
unmapped, and the host lines of an external range. The bytes in the package are `Mem.zeroFill`'s. -/
def zeroRange (e : Env) (cl : List Nat) (k : Nat) (x : Nat × Nat) (d : Dp) : Dp :=
  let lost := if x.1 < 0x20000000000 && d.mem.isoStacks == 0 then []
    else (List.range x.2).filter (fun i => !(d.mem.zeroHits (x.1 + 64 * i)))
  let who := fun i => cl.getD ((k + i / 64) % cl.length) 0
  let d := cl.zipIdx.foldl (fun d c =>
    d.perf (sdUid c.1 0) 0x14 (dealt cl.length k x.2 c.2 - (lost.filter (fun i => who i == c.1)).length)) d
  let d := lost.foldl (fun d i => unmapped e (sdUid (who i) 0) 1 (x.1 + 64 * i) d) d
  if x.1 < 0x100000000000 then d else { d with mem := (List.range x.2).foldl (fun m i => m.zeroHost (x.1 + 64 * i)) d.mem }

/-- R164, R231: the clusters of a script's dies clear its ranges, pieces of 4 KiB in turn. -/
def zeroFillBy (e : Env) (g : Image) (d : Dp) : Dp :=
  let cl := (List.range 512).filter (fun i => g.dies.testBit (i / 128))
  let rs := d.mem.zeroRanges g
  let r := rs.foldl (fun (r : Nat × Dp) x => (r.1 + ceilDiv x.2 64, zeroRange e cl r.1 x r.2)) (0, d)
  { r.2 with mem := r.2.mem.zeroFill g }

/-! ### The step line (R281, R282) -/

/-- 2^e as an FP32 word, for −126 ≤ e ≤ 127. -/
def pow2f32 (e : Int) : Nat := (e + 127).toNat * 2 ^ 23

/-- R281: the 64 bytes of the step line. -/
def stepLine (q : Part) (prev : Nat) : BitVec 512 :=
  BitVec.ofNat 512 (packBytes [(0, q.step.toNat), (8, q.skip.toNat), (12, q.clean.toNat), (16, q.ls.toNat), (17, prev),
    (20, pow2f32 q.ls.toInt), (24, pow2f32 (-q.ls.toInt))])

/-- R282: where TS_LINE.ADDR must lie at acceptance; LINEBAD is set where it does not, with TS_LINE.EN 0 as well (DEDUCED, log 107). -/
def lineOkAt (m : Mem) (g : Image) (a : Nat) : Bool :=
  match m.resolve a with
  | some (.local_ j _) => g.dies.testBit (j / 3)
  | some (.iview _ _) => decide (g.ivBase * 2 ^ 30 ≤ a) && decide (a < (g.ivBase + g.ivSize) * 2 ^ 30)
  | some (.sram i _) => g.dies.testBit (i / 128)
  | _ => false

/-- R310–R312: a pass ends for a Blotter: its slot is no longer open. -/
def Upu.endPass (u : Upu) : Upu := { u with opened := false, openIssued := false, sealIssued := false, emberLines := 0, edrop := false }

/-- R281: write the step line of partition `p` when the launch has one. -/
def writeStepLine (p prev : Nat) (d : Dp) : Dp :=
  let q := d.getPart p
  if q.lineEn && q.lineOk then
    match d.mem.resolve q.lineAddr.toNat with
    | some l => storeLoc q.lineAddr.toNat l (stepLine q prev) d
    | none => d
  else d

/-! ### Acceptance and end -/

/-- R195, R215, R273: clear the sticky counters of the units on the dies; a launch starts every unit afresh. -/
def clearUnits (dies : Nat) (t : Tab Unit) : Tab Unit :=
  t.foldl (fun r x => if dies.testBit (uidDie x.1) then
    r.put {} x.1 { x.2 with sticky := {}, illFirst := 0, idx := 0, blocked := none, done := false, cause := 0 } else r) t

/-- R283: the partition's state at acceptance. -/
def Part.accept (q : Part) (seed : BitVec 128) (step0 : BitVec 64) : Part :=
  { q with seed := seed, step := step0, seedSet := true, covered := true, ls := q.lsInit, blot := false, lateBlot := 0, early := 0,
           gate := .opened, torn := false, floor := false, voted := false, blotAtVote := false, blotS0 := false, lateSrc := 0,
           voteIn := none, wrote := false, ungated := false, sealed := false, eseq := q.eseqHost }

/-- R87, R90: the layout a launch puts in force. -/
def Mem.layout (m : Mem) (g : Image) : Mem :=
  let top := 16 * g.localGib
  let area := fun base size => BitVec.ofNat 32 (base * 2 ^ 16 + size)
  { m with localGib := BitVec.ofNat 8 g.localGib, ilv := BitVec.ofNat 16 (g.ilv m.ink.toNat), layoutOn := true,
           areaEmber := area (top - g.ember) g.ember, areaAcc := area (top - g.ember - g.acc) g.acc,
           areaStage := area (top - g.ember - g.acc - g.stage) g.stage }

/-- R436: the direction of the ember target, and the lines of a slot. -/
def Torus.emberDir (t : Torus) : Nat := bits t.embCfg 0 3
def Torus.srcDir (t : Torus) : Nat := bits t.embCfg 4 3
def Mem.slotBytes (m : Mem) : Nat := bits m.areaEmber 0 16 / 2 * 2 ^ 26

/-- R436: one RECOV_RD for `n` lines at `addr` of stack `j` (of the tally when `tally`). -/
def State.sendRecovRd (s : State) (j addr n : Nat) (parity tally : Bool) : State :=
  let dir := s.torus.emberDir
  let tag := s.dp.log.rtag.toNat + j % 16 * 2 ^ 32 + b2n parity * 2 ^ 36 + b2n tally * 2 ^ 37 + n * 2 ^ 40
  s.originate (j / 3) pmcUid 6 4 (s.torus.nbPkg dir) (s.torus.nbPod dir) addr (BitVec.ofNat 64 tag) 0 []

/-- R435, R436: ask the holder for every line of the recovery point's slot, seal line included, on every stack of the dies, and for its
tally when the package is a spare (R440). -/
def State.beginRestore (s : State) (dies : Nat) (withTally : Bool) : State :=
  let par := s.dp.fr.recpt.getLsbD 0
  let lines := s.dp.mem.slotBytes / 64
  let stks := (List.range 12).filter (fun j => dies.testBit (j / 3))
  let s := if s.torus.emberDir ≥ 6 then s
    else
      let s := stks.foldl (fun s j => (List.range (ceilDiv lines 64)).foldl (fun s i =>
        s.sendRecovRd j (i * 4096) (min 64 (lines - 64 * i)) par false) s) s
      if withTally then (List.range 11).foldl (fun s i => s.sendRecovRd 0 (i * 4096) (min 64 (677 - 64 * i)) par true) s else s
  let aw := (stks.map (fun j => (j, lines))).filter (fun x => x.2 != 0) ++ (if withTally then [(12, 677)] else [])
  { s with dp := { s.dp with fr := { s.dp.fr with restoring := !aw.isEmpty, awaited := aw } } }

/-- R35, R131, R164, R281, R283, R387: a LAUNCH is accepted; the rate trim comes within ±50 ppm and what was learned of the partition's
phases is forgotten. -/
def State.acceptLaunch (s : State) (p q seq : Nat) (g : Image) (slot : Fin 8) (seed : BitVec 128) (step0 steps start : BitVec 64) :
    State :=
  let rest := s.dp.fr.restore
  let s := s.markStarted q seq
  let l : Launch := { slot := slot, q := q, seq := seq, step0 := step0, steps := steps, start := start, began := false, entry := 0,
                      stops := [], zeroing := true, restore := rest }
  let s := s.setPartn p (fun x => { x with launch := some l })
  let d := s.dp.setPart p (fun x => x.accept seed step0)
  let m := d.mem.layout g
  let ok := lineOkAt m g (d.getPart p).lineAddr.toNat
  let m := { m with staged := m.staged.filter (fun x => !(g.dies.testBit (x.1 / 2 ^ 16 / 3))) }
  let d := { d with mem := m, units := clearUnits g.dies d.units, fr := { d.fr with restore := false } }
  let d := d.setPart p (fun x => { x with lineOk := x.lineEn && ok, lineBad := x.lineBad || !ok })
  let s := { s with dp := writeStepLine p 0 d, torus := { s.torus with vcwRej := false },
                    clk := { s.clk with trim := BitVec.ofInt 32 (max (-50000) (min 50000 s.clk.trim.toInt)) },
                    pw := { s.pw with learned := s.pw.learned.filter (fun x => x.1 / 4096 != p) } }
  if rest then ({ s with dp := { s.dp with fr := { s.dp.fr with hold := true, resume := start } } }).beginRestore g.dies true else s

/-- R131, R132, R285, R286, R312: partition `p`'s launch ends, and the pass with it for its Blotters; its record precedes those of its STOPs.
Every STOP that waits gets one DETAIL: 0 when a
STOP, of either mode, ended the launch (DESIGN CHOICE, log 97). -/
def State.endLaunch (s : State) (p st detail : Nat) (stopEnded : Bool) (torn : Bool) : State :=
  match (s.getPartn p).launch with
  | none => s
  | some l =>
    let v := (s.dp.getPart p).step
    let s := s.setPartn p (fun x => { x with launch := none })
    let d := s.dp.setPart p (fun x => { x with covered := false, seedSet := false, torn := x.torn || (torn && x.wrote) })
    let d : Dp := { d with upu := d.upu.map (fun (x : Nat × Upu) => if (s.getPartn p).dies.getLsbD (x.1 / 3) then (x.1, x.2.endPass) else x) }
    let d : Dp := { d with mem := { d.mem with layoutOn := s.launched },
                           units := d.units.foldl (fun r x => if x.2.deferred && (match s.imageOf l with
                             | some g => g.uses x.1
                             | none => false) then r.put {} x.1 { x.2 with deferred := false, disabled := true } else r) d.units }
    let s := ({ s with dp := d }).finish l.q l.seq st detail v
    l.stops.foldl (fun s x => s.finish x.q x.seq stOk (if stopEnded then 0 else 1) v) s

/-- R8, R444: a class 11 fault ends every launch of the package with FAULT. -/
def State.settleStop (s : State) : State :=
  match s.dp.fr.jobStop with
  | none => s
  | some n =>
    let s := [0, 1, 2, 3].foldl (fun s p => s.endLaunch p stFault n.toNat false true) s
    { s with dp := { s.dp with fr := { s.dp.fr with jobStop := none, voided := false, hold := false, pendHold := false, restoring := false, regen := false,
                                                    awaited := [] } } }

end Sys2Proof.Machine
end

