-- ==== Sys2Proof/Machine/Zcg.lean ====
section
/-! DEFINITION. The Zilrun counter generator (03_determinism_contract.md, R70–R72): a pure function of key and counter. -/

namespace Sys2Proof.Machine

/-- Four 32-bit words. -/
structure Quad where
  a : Word
  b : Word
  c : Word
  d : Word
  deriving DecidableEq, Repr

/-- Word `i mod 4` of a quad. -/
def Quad.at (q : Quad) (i : Nat) : Word :=
  match i % 4 with
  | 0 => q.a | 1 => q.b | 2 => q.c | _ => q.d

/-- Word-by-word exclusive OR. -/
def Quad.xor (p q : Quad) : Quad := ⟨p.a ^^^ q.a, p.b ^^^ q.b, p.c ^^^ q.c, p.d ^^^ q.d⟩

/-- One round of R70, with the key word `k` and the round constant `rc`. -/
def zcgRound (k rc : Word) (x : Quad) : Quad :=
  let x0 := x.a + x.b + k
  let x3 := (x.d ^^^ x0).rotateLeft 13
  let x2 := x.c + x3 + rc
  let x1 := (x.b ^^^ x2).rotateLeft 9
  let x0 := x0 + x1
  let x3 := (x3 ^^^ x0).rotateLeft 5
  let x2 := x2 + x3
  let x1 := (x1 ^^^ x2).rotateLeft 11
  ⟨x1, x2, x3, x0⟩

/-- Rounds `r`, `r + 1`, … of R70. -/
def zcgRounds (k : Quad) : Nat → Nat → Quad → Quad
  | 0, _, x => x
  | n + 1, r, x => zcgRounds k n (r + 1) (zcgRound (k.at r) (BitVec.ofNat 32 (0x9E3779B9 * (r + 1))) x)

/-- R70: zcg(k, c). -/
def zcg (k c : Quad) : Quad :=
  let x := zcgRounds k 10 0 c
  ⟨x.a + c.a, x.b + c.b, x.c + c.c, x.d + c.d⟩

/-- R71: the random word of element `e` of tensor `t` at step `s` under a launch seed. -/
def zcgWord (seed : BitVec 128) (e t s : Nat) : Word :=
  let k : Quad := ⟨seed.extractLsb' 0 32, seed.extractLsb' 32 32, seed.extractLsb' 64 32, seed.extractLsb' 96 32⟩
  let blk := e / 4
  (zcg k ⟨BitVec.ofNat 32 blk, BitVec.ofNat 32 ((blk / 2 ^ 32) % 2 ^ 30), BitVec.ofNat 32 t, BitVec.ofNat 32 s⟩).at e

end Sys2Proof.Machine
end

