-- ==== Sys2Proof/Machine/UnitOps.lean ====
section
/-! DEFINITION. What every unit that runs a stream shares: when its next instruction runs, invalid instructions (R179, R219, R250),
credits (R180–R182, R221, R222), and lines of cluster memory reached under claims and windows (R76, R77, R85, R92–R95, R154). -/

namespace Sys2Proof.Machine

/-- Units that run during regeneration (R437). -/
def regenRuns (u : Nat) : Bool := unitKind u == 3 || unitKind u == 6

/-- R463: a unit of a region isolated for a self-test: the always-on logic reports done for it. -/
def Mem.isoUnit (m : Mem) (u : Nat) : Bool := decide (unitKind u < 5) && m.isoRegions.getLsbD (uidCluster u / 8)

/-- R152, R154, R181, R164, R430, R435: unit `u` dispatches its next instruction now: it is a unit of a launch that runs, is enabled,
is not blocked in a WAIT, has its segment, has not reported done, and its stroke is not voided. -/
def Dp.canRun (e : Env) (u : Nat) (d : Dp) : Bool :=
  match e.ofUnit u with
  | none => false
  | some p =>
    let x := d.getUnit u
    isStreamUnit u && p.runs && !p.zeroing && !x.disabled && x.blocked.isNone && !x.held && !x.done && !x.fetchLate && !d.fr.voided &&
      (!d.fr.regen || regenRuns u) && !(d.mem.isoUnit u)

/-- The bytes of a unit's segment for the entry in force. -/
def PEnv.segBytes (p : PEnv) (u : Nat) : Nat :=
  match p.img.streamOf u with
  | none => 0
  | some t => (p.img.seg t p.entry).2

/-- R177, R219, R250: what stands at the unit's index is a final fragment shorter than an instruction. -/
def Dp.atFragment (e : Env) (u : Nat) (d : Dp) : Bool :=
  match e.ofUnit u with
  | none => false
  | some p =>
    let o := (d.getUnit u).idx * instrBytes u
    decide (o < p.segBytes u) && decide (p.segBytes u < o + instrBytes u)

/-- R16, R151, R152: the bytes at index `i` of the segment unit `u` runs in the entry in force, a final fragment as far as it goes;
none without a stream and past the segment's end. -/
def PEnv.wordAt (p : PEnv) (u i : Nat) : Option Nat :=
  match p.img.streamOf u with
  | none => none
  | some t =>
    let g := p.img.seg t p.entry
    let o := i * instrBytes u
    if o < g.2 then some (p.img.at (t.codeOff + g.1 + o) (min (instrBytes u) (g.2 - o))) else none

/-- R16, R152, R178, R220, R234, R251, R295, R349: what unit `u` finds at its index is the word `w`, and that word has opcode `opc`; a
final fragment stands for a NOP. -/
def Dp.fetches (e : Env) (u opc w : Nat) (d : Dp) : Bool :=
  match e.ofUnit u with
  | none => false
  | some p =>
    match p.wordAt u (d.getUnit u).idx with
    | none => false
    | some v => v == w % 2 ^ (8 * instrBytes u) && opc == (if d.atFragment e u then 0 else unitOpcode (unitKind u) w)

/-- The instruction of opcode `opc` and word `w` is the one unit `u` dispatches now. -/
def Dp.runs (e : Env) (u opc w : Nat) (d : Dp) : Bool := d.canRun e u && d.fetches e u opc w

/-- R179: an invalid instruction executes as NOP: ILL counts it, the first since launch is latched, a record and an event are
written. -/
def illegal (e : Env) (u opc : Nat) (d : Dp) : Dp :=
  let x := d.getUnit u
  let entry := e.entryOf u
  let first := BitVec.ofNat 40 (entry % 2 ^ 16 + (opc % 256) * 2 ^ 16 + (x.idx % 2 ^ 16) * 2 ^ 24)
  let d := d.setUnit u (fun x => { x with sticky := { x.sticky with ill := satAdd x.sticky.ill 1 },
                                          illFirst := if x.sticky.ill = 0 then first else x.illFirst })
  let d := record e u 0x22 false [(24, x.idx % 2 ^ 16), (26, opc % 256), (28, entry % 2 ^ 16)] d
  trace e u { kind := 14, a0 := x.idx, a1 := opc % 256 } d

/-- R254: the index after the instruction at `i`, with the loops in progress: the end of a body returns to its top while iterations
are left. -/
def loopNext (i : Nat) : List (Nat × Nat × Nat) → Nat × List (Nat × Nat × Nat)
  | [] => (i + 1, [])
  | (first, last, left) :: r =>
    if i < last then (i + 1, (first, last, left) :: r)
    else if left > 1 then (first, (first, last, left - 1) :: r)
    else loopNext i r

/-- The unit moves to its next instruction. -/
def Dp.advance (u : Nat) (d : Dp) : Dp :=
  if unitKind u = 1 then
    let c := uidCluster u
    let n := loopNext (d.getUnit u).idx (d.brush.get {} c).loops
    { d.setUnit u (fun x => { x with idx := n.1 }) with brush := d.brush.upd {} c (fun b => { b with loops := n.2 }) }
  else d.setUnit u (fun x => { x with idx := x.idx + 1 })

/-! ### Credits -/

/-- R180, R181: `n` credits arrive at counter `ctr` of unit `u` from unit `src` (of package `pkg`, 4096 · pod + index, when remote); a WAIT they satisfy
subtracts its count and ends. -/
def addCredit (e : Env) (u ctr n src pkg : Nat) (d : Dp) : Dp :=
  let v := min 65535 (((d.getUnit u).cnt.get 0 ctr).toNat + n)
  let d := trace e u { kind := 6, sub := ctr, a0 := src, a1 := v, ppkg := pkg, ppod := pkg / 4096 }
    (d.setUnit u (fun x => { x with cnt := x.cnt.put 0 ctr (BitVec.ofNat 16 v) }))
  match (d.getUnit u).blocked with
  | some (c, m) =>
    if c = ctr && m ≤ v then
      trace e u { kind := 4, sub := ctr }
        (d.setUnit u (fun x => { x with blocked := none, cnt := x.cnt.put 0 ctr (BitVec.ofNat 16 (v - m)) }))
    else d
  | none => d

/-- R181: WAIT for `n` on counter `ctr`: taken at once, or the unit blocks. -/
def waitCredit (e : Env) (u ctr n : Nat) (d : Dp) : Dp :=
  let v := ((d.getUnit u).cnt.get 0 ctr).toNat
  if n ≤ v then d.setUnit u (fun x => { x with cnt := x.cnt.put 0 ctr (BitVec.ofNat 16 (v - n)) })
  else trace e u { kind := 3, sub := ctr, a0 := n, a1 := v } (d.setUnit u (fun x => { x with blocked := some (ctr, n) }))

/-- A credit of `n` leaves unit `u` for counter `ctr` of unit `dst` of this package (R182, R222). -/
def sendCredit (e : Env) (u dst ctr n : Nat) (d : Dp) : Dp :=
  addCredit e dst ctr n u 0 (trace e u { kind := 5, sub := ctr, a0 := dst, a1 := n } d)

/-! ### Lines of a cluster -/

/-- R84, R92, R93: the package address of offset `off` in a cluster's SRAM window or accumulator bank, and whether it is mapped. -/
def clAddr (i : Nat) (acc : Bool) (off : Nat) : Nat := if acc then accAddr i off else sramAddr i off
def clMapped (acc : Bool) (off : Nat) : Bool := if acc then decide (off < 0x20000) else decide (off < 0x300000)

/-- R92, R93, R175: the bank of an offset. -/
def clBank (acc : Bool) (off : Nat) : Nat := if acc then (off / 64) % 8 else (off / 64) % 32

/-- R154: unit `u` claims the bank in the phase in force. -/
def Env.claims (e : Env) (u : Nat) (acc : Bool) (off : Nat) : Bool :=
  match e.ofUnit u with
  | none => false
  | some p => p.img.claimed u p.entry acc (clBank acc off)

/-- The location of an offset of cluster `i`. -/
def clLoc (i : Nat) (acc : Bool) (off : Nat) : Loc := if acc then .acc i off else .sram i off

/-- Read the line at line-aligned offset `off` of cluster `i` as unit `u` (its claims): zeros where unmapped (R85, R154); none where an
uncorrectable error voids (R103). -/
def clRead (e : Env) (u i : Nat) (acc : Bool) (off : Nat) (d : Dp) : Option (BitVec 512) × Dp :=
  if clMapped acc off && e.claims u acc off then readLoc e u (clAddr i acc off) (clLoc i acc off) d
  else (some 0, unmapped e u 0 (clAddr i acc off) d)

/-- Read `n` lines from line number `l` on, as one little-endian number. -/
def clLines (e : Env) (u i : Nat) (acc : Bool) : Nat → Nat → Dp → Option Nat × Dp
  | 0, _, d => (some 0, d)
  | n + 1, l, d =>
    match clRead e u i acc (64 * l) d with
    | (none, d) => (none, d)
    | (some v, d) =>
      match clLines e u i acc n (l + 1) d with
      | (none, d) => (none, d)
      | (some r, d) => (some (v.toNat + 2 ^ 512 * r), d)

/-- Read the bytes `off` to `off + n − 1`: every line that holds one of them, once. -/
def clBytes (e : Env) (u i : Nat) (acc : Bool) (off n : Nat) (d : Dp) : Option Nat × Dp :=
  match clLines e u i acc (ceilDiv (off % 64 + n) 64) (off / 64) d with
  | (none, d) => (none, d)
  | (some v, d) => (some ((v >>> (8 * (off % 64))) % 2 ^ (8 * n)), d)

/-- Read several runs (offset, bytes) of a cluster's memory in order. -/
def clRuns (e : Env) (u i : Nat) (acc : Bool) : List (Nat × Nat) → Dp → Option (List Nat) × Dp
  | [], d => (some [], d)
  | (off, n) :: r, d =>
    match clBytes e u i acc off n d with
    | (none, d) => (none, d)
    | (some v, d) =>
      match clRuns e u i acc r d with
      | (none, d) => (none, d)
      | (some l, d) => (some (v :: l), d)

/-- Bytes of `v` where the mask has a 1, of `old` elsewhere; byte `i` is mask bit `i`. -/
def maskBytes (mask : Nat) (old v : Nat) : Nat :=
  packBytes ((List.range 64).map (fun i => (i, if mask.testBit i then (v >>> (8 * i)) % 256 else (old >>> (8 * i)) % 256)))

/-- Every byte enable of a line. -/
def fullMask : Nat := 2 ^ 64 - 1

/-- A line stored under byte enables: a whole line with fresh check bits, a part leaves the line's error as it is (R105). -/
def storeMask (a : Nat) (loc : Loc) (mask v : Nat) (d : Dp) : Dp :=
  if mask = fullMask then storeLoc a loc (BitVec.ofNat 512 v) d
  else
    let k := d.mem.key loc
    let marks := d.mem.marks
    let m := d.mem.store a k (BitVec.ofNat 512 (maskBytes mask (readBytes d.mem.cells k 64) v))
    { d with mem := { m with marks := marks } }

/-- Write the line at offset `off` of cluster `i` as unit `u`: not performed where unmapped (R85, R154) or outside the windows (R77).
Answers whether it was performed. -/
def clWrite (e : Env) (u i : Nat) (acc : Bool) (off mask v : Nat) (d : Dp) : Bool × Dp :=
  let a := clAddr i acc off
  if !(clMapped acc off && e.claims u acc off) then (false, unmapped e u 1 a d)
  else if !(e.mayWrite u a) then (false, windowViolation e u a d)
  else (true, storeMask a (clLoc i acc off) mask v d)

/-- Write `n` bytes at offset `off`, line by line under byte enables; for each line in turn, whether it was performed. -/
def clPut (e : Env) (u i : Nat) (acc : Bool) (off n v : Nat) (d : Dp) : List Bool × Dp :=
  let first := off / 64
  (List.range (ceilDiv (off % 64 + n) 64)).foldl (fun (r : List Bool × Dp) k =>
    let lo := max off (64 * (first + k))
    let hi := min (off + n) (64 * (first + k) + 64)
    let sh := lo - 64 * (first + k)
    let w := clWrite e u i acc (64 * (first + k)) ((2 ^ (hi - lo) - 1) <<< sh) (((v >>> (8 * (lo - off))) % 2 ^ (8 * (hi - lo))) <<< (8 * sh)) r.2
    (r.1 ++ [w.1], w.2)) ([], d)

/-- R71, R72: the random word of element index `n` of tensor `t` for the launch of unit `u`. -/
def Env.word (e : Env) (u n t : Nat) (d : Dp) : Nat :=
  match e.ofUnit u with
  | none => 0
  | some p =>
    let q := d.getPart p.part
    (zcgWord q.seed (n % 2 ^ 62) t q.step.toNat).toNat

end Sys2Proof.Machine
end

