-- ==== Sys2Proof/Machine/UnitSys.lean ====
section
/-! DEFINITION. Running one instruction of a unit, and acts that wait for acknowledgements (R98, R182, R221, R223, R312, R328). -/

namespace Sys2Proof.Machine

/-- The instruction of unit `u` with opcode `opc` and word `w`, when it is the one the unit dispatches now: its effect when valid, else
as R179 says; a final fragment is one NOP (R177); then the unit moves on. Any other does not take place. A fault that stops the job ends
its launches. -/
def State.runUnit (s : State) (u opc w : Nat) (valid : Bool) (f : State → State) : State :=
  if s.dp.runs s.env u opc w then
    let s := if s.dp.atFragment s.env u then s else if valid then f s else s.onDp (fun e => illegal e u (w % 256))
    ({ s with dp := s.dp.advance u }).settleStop
  else s

/-- An instruction whose whole effect lies in the data path. -/
def State.runDp (s : State) (u opc w : Nat) (valid : Bool) (f : Env → Dp → Dp) : State := s.runUnit u opc w valid (fun s => s.onDp f)

/-- R223: an act takes place. -/
def State.perform (s : State) (u : Nat) : Act → State
  | .remote tag pkg pod =>
    s.originate (uidDie u) u 3 0 pkg pod 0 (BitVec.ofNat 64 tag) 0 []
  | .credit dst ctr n => s.onDp (fun e => sendCredit e u dst ctr n)
  | .release => { s with dp := s.dp.setUnit u (fun x => { x with held := false }) }
  | .seal j off line =>
    let r := s.nextRtag
    let dir := bits s.torus.embCfg 0 3
    let s := { r.2 with torus := { r.2.torus with awaits := r.2.torus.awaits ++ [Await.mk r.1 u (s.dp.getUnit u).idx] } }
    s.originate (j / 3) u 5 3 (s.torus.nbPkg dir) (s.torus.nbPod dir) off (BitVec.ofNat 64 (r.1.toNat + j % 16 * 2 ^ 32)) 0 [line]

/-- R366: host-issued operations of the queues named end on every Flue; nothing waits for their packets any more. -/
def State.endHostOps (s : State) (p : Nat → Bool) : State :=
  let ended := s.dp.cle.flatMap (fun x => (x.2.ops.filter (fun o => match o.host with
    | some (q, _) => p q
    | none => false)).flatMap (·.rtags))
  { s with dp := s.dp.dropHostOps p,
           torus := { s.torus with awaits := s.torus.awaits.filter (fun a => !(ended.contains a.rtag)) } }

/-- The RTAGs unit `u` still awaits. -/
def State.awaitsOf (s : State) (u : Nat) : List (BitVec 32) := (s.torus.awaits.filter (fun a => a.unit == u)).map (·.rtag)

/-- R223: an act of unit `u` takes place now, or once every packet the unit has outstanding is acknowledged. -/
def State.whenAcked (s : State) (u : Nat) (a : Act) : State :=
  let l := s.awaitsOf u
  if l.isEmpty then s.perform u a else { s with torus := { s.torus with later := s.torus.later ++ [⟨u, l, a⟩] } }

/-- Perform the acts of a list that wait for nothing more. -/
def State.performAll (s : State) (l : List Later) : State := l.foldl (fun s x => s.perform x.unit x.act) s

/-- R328: the packet with an RTAG is acknowledged by package `pkg` of pod `pod`: the sender's event is written and the acts that
waited for it alone take place. -/
def State.ackArrives (s : State) (r : BitVec 32) (pkg pod : Nat) : State :=
  match s.torus.awaits.find? (fun a => a.rtag == r) with
  | none => s
  | some a =>
    let s := s.onDp (fun e d => trace e a.unit { kind := 9, a0 := r.toNat, ppkg := pkg, ppod := pod } d)
    let later := s.torus.later.map (fun x => { x with after := x.after.filter (fun y => y != r) })
    let s := { s with torus := { s.torus with awaits := s.torus.awaits.filter (fun x => x.rtag != r),
                                              later := later.filter (fun x => !x.after.isEmpty) } }
    s.performAll (later.filter (fun x => x.after.isEmpty))

/-- A line-carrying packet unit `u` sends and awaits the ACK of (R97, R328, R415): it draws an RTAG, placed in TAG [31:0]. -/
def State.sendAwaited (s : State) (d u typ vc pkg pod addr : Nat) (tag : Nat) (args : BitVec 256) (lines : List (BitVec 512)) : State :=
  let r := s.nextRtag
  let s := { r.2 with torus := { r.2.torus with awaits := r.2.torus.awaits ++ [Await.mk r.1 u (s.dp.getUnit u).idx] } }
  s.originate d u typ vc pkg pod addr (BitVec.ofNat 64 (r.1.toNat + tag)) args lines

end Sys2Proof.Machine
end

