-- ==== Sys2Proof/Machine/Brush.lean ====
section
/-! DEFINITION. Meanings of the tile vector engine's instructions (10_tile_vector_engine.md R245–R269). -/

namespace Sys2Proof.Machine

/-- Identifier of the Brush of cluster `c`. -/
def tveUid (c : Nat) : Nat := cuid c 1 0

def Dp.getBrush (d : Dp) (c : Nat) : Brush := d.brush.get {} c
def Dp.setBrush (d : Dp) (c : Nat) (f : Brush → Brush) : Dp := { d with brush := d.brush.upd {} c f }

/-- R246: lane `l` of tile register `t`, and scalar register `i`. -/
def Brush.lane (b : Brush) (t l : Nat) : Word := (b.tiles.get 0 t).extractLsb' (32 * l) 32
def Brush.scalar (b : Brush) (i : Nat) : BitVec 64 := b.x.get 0 i

/-- R248: write a tile register: active lanes take their result, inactive lanes FILL. -/
def Brush.setTile (b : Brush) (t : Nat) (f : Nat → Word) : Brush :=
  { b with tiles := b.tiles.put 0 t (BitVec.ofNat 8192 (packElems 32 ((List.range 256).map (fun l =>
    (if l < b.pvl.toNat then f l else b.fill).toNat)))) }

/-- R252: the register fields and the function code. -/
def bTD (w : BitVec 64) : Nat := bits w 8 5
def bTA (w : BitVec 64) : Nat := bits w 13 5
def bTB (w : BitVec 64) : Nat := bits w 18 5
def bTC (w : BitVec 64) : Nat := bits w 23 5
def bFN (w : BitVec 64) : Nat := bits w 28 4

/-- The active lanes. -/
def Brush.active (b : Brush) : List Nat := List.range (min 256 b.pvl.toNat)

/-- R268: the lanes among `l` that hold a NaN result from inputs none of which is NaN. -/
def invopLanes (l : List Nat) (ins : List (Nat → Word)) (f : Nat → Word) : Nat :=
  (l.filter (fun i => isNan32 (f i) && !(ins.any (fun g => isNan32 (g i))))).length

/-- One tile instruction of the Brush of cluster `c`; TV_ISSUE counts it. -/
def State.tileInstr (s : State) (c opc w : Nat) (valid : Bool) (f : Env → Dp → Dp) : State :=
  s.runDp (tveUid c) opc w valid (fun e d => (f e d).perf (tveUid c) 0x24 1)

/-! ### Scalar control (R249, R253, R254) -/

/-- R249: SETVL sets PVL and, with FSET, FILL. -/
def setvlValid (w : BitVec 64) : Bool :=
  decide (1 ≤ bits w 8 9) && decide (bits w 8 9 ≤ 256) && !(anyBits w 18 14) && (bit w 17 || bits w 32 32 == 0)
def runSetvl (c : Nat) (w : BitVec 64) (_ : Env) (d : Dp) : Dp :=
  d.setBrush c (fun b => { b with pvl := BitVec.ofNat 16 (bits w 8 9), fill := if bit w 17 then w.extractLsb' 32 32 else b.fill })
def execSetvl (c : Fin 512) (w : BitVec 64) (s : State) : Host.Outcome State Fault Refusal :=
  .next (s.runDp (tveUid c.val) 0x04 w.toNat (setvlValid w) (runSetvl c.val w))

/-- R253: SETX writes an immediate, zero-extended or into the upper half. -/
def runSetx (c : Nat) (w : BitVec 64) (_ : Env) (d : Dp) : Dp :=
  d.setBrush c (fun b =>
    let i := bits w 8 4
    let v := if bit w 12 then BitVec.ofNat 64 ((b.scalar i).toNat % 2 ^ 32 + bits w 32 32 * 2 ^ 32) else BitVec.ofNat 64 (bits w 32 32)
    { b with x := b.x.put 0 i v })
def execSetx (c : Fin 512) (w : BitVec 64) (s : State) : Host.Outcome State Fault Refusal :=
  .next (s.runDp (tveUid c.val) 0x05 w.toNat (!(anyBits w 13 19)) (runSetx c.val w))

/-- R253: ADDX adds a signed immediate modulo 2^64. -/
def runAddx (c : Nat) (w : BitVec 64) (_ : Env) (d : Dp) : Dp :=
  d.setBrush c (fun b => { b with x := b.x.put 0 (bits w 8 4) (b.scalar (bits w 12 4) + (w.extractLsb' 32 32).signExtend 64) })
def execAddx (c : Fin 512) (w : BitVec 64) (s : State) : Host.Outcome State Fault Refusal :=
  .next (s.runDp (tveUid c.val) 0x06 w.toNat (!(anyBits w 16 16)) (runAddx c.val w))

/-- R253: IDX loads E0, ES and TID from scalar registers. -/
def tveIdxValid (w : BitVec 64) (b : Brush) : Bool :=
  !(anyBits w 16 16) && !(anyBits (b.scalar (bits w 8 4)) 62 2) && !(anyBits (b.scalar (bits w 12 4)) 62 2)
def runTveIdx (c : Nat) (w : BitVec 64) (_ : Env) (d : Dp) : Dp :=
  d.setBrush c (fun b => { b with idx := { e0 := b.scalar (bits w 8 4), es := b.scalar (bits w 12 4), tid := w.extractLsb' 32 32 } })
def execTveIdx (c : Fin 512) (w : BitVec 64) (s : State) : Host.Outcome State Fault Refusal :=
  .next (s.runDp (tveUid c.val) 0x08 w.toNat (tveIdxValid w (s.dp.getBrush c.val)) (runTveIdx c.val w))

/-- R254: LOOP's fields are valid, a level is free, and its body ends within the segment and the enclosing body. -/
def loopValid (w : BitVec 64) (i segBytes : Nat) (loops : List (Nat × Nat × Nat)) : Bool :=
  bits w 8 8 != 0 && bits w 16 16 != 0 && !(anyBits w 32 32) && decide (loops.length < 4) &&
    decide ((i + bits w 8 8 + 1) * 8 ≤ segBytes) &&
    (match loops with
     | [] => true
     | (_, last, _) :: _ => decide (i + bits w 8 8 ≤ last))

/-- R254: LOOP opens a level over the BODY instructions that follow. -/
def runLoop (c : Nat) (w : BitVec 64) (_ : Env) (d : Dp) : Dp :=
  let i := (d.getUnit (tveUid c)).idx
  d.setBrush c (fun b => { b with loops := (i + 1, i + bits w 8 8, bits w 16 16) :: b.loops })
def execLoop (c : Fin 512) (w : BitVec 64) (s : State) : Host.Outcome State Fault Refusal :=
  let u := tveUid c.val
  let seg := match s.env.ofUnit u with
    | none => 0
    | some p => p.segBytes u
  .next (s.runDp u 0x07 w.toNat (loopValid w (s.dp.getUnit u).idx seg (s.dp.getBrush c.val).loops) (runLoop c.val w))

/-! ### Loads and stores (R255–R257) -/

/-- R255: the formats of LD and ST. -/
def ldFmt (n : Nat) : Option Fmt := if n ≤ 3 || n = 7 || n = 9 || n = 10 then Fmt.ofCode n else none

/-- R256: the address of row `r`; only the base wraps. -/
def rowBase (w : BitVec 64) (b : Brush) : Nat := (b.scalar (bits w 24 4) + ((w.extractLsb' 32 16).signExtend 64 <<< 4)).toNat
def rowAddr (w : BitVec 64) (b : Brush) (r : Nat) : Nat := rowBase w b + r * 16 * bits w 48 16

/-- R256: base and pitch are aligned to a row. -/
def rowAligned (w : BitVec 64) (b : Brush) (f : Fmt) : Bool :=
  rowBase w b % (2 * f.width) == 0 && (16 * bits w 48 16) % (2 * f.width) == 0

/-- Rows that hold an active lane (R256). -/
def Brush.rows (b : Brush) : Nat := ceilDiv (min 256 b.pvl.toNat) 16

/-- R255: LD's fields are valid. -/
def ldValid (w : BitVec 64) (b : Brush) : Bool :=
  match ldFmt (bits w 16 4) with
  | none => false
  | some f => !(anyBits w 13 3) && !(anyBits w 21 3) && !(anyBits w 28 4) && rowAligned w b f

/-- Read rows `r` on, `n` of them; none where one voids. -/
def ldRows (e : Env) (c : Nat) (w : BitVec 64) (b : Brush) (f : Fmt) : Nat → Nat → Dp → Option (List Nat) × Dp
  | 0, _, d => (some [], d)
  | n + 1, r, d =>
    match clBytes e (tveUid c) c (bit w 20) (rowAddr w b r) (2 * f.width) d with
    | (none, d) => (none, d)
    | (some v, d) =>
      match ldRows e c w b f n (r + 1) d with
      | (none, d) => (none, d)
      | (some l, d) => (some (v :: l), d)

/-- R247, R256: an element as a lane: integer formats and FP32 unchanged, others decoded exactly. -/
def laneOf (f : Fmt) (v : Nat) : Word :=
  match f with
  | .fp32 => BitVec.ofNat 32 v | .int32 => BitVec.ofNat 32 v | .uint32 => BitVec.ofNat 32 v
  | _ => toF32 (f.decode v)

/-- R256: LD loads the active lanes of TD. -/
def runLd (c : Nat) (w : BitVec 64) (e : Env) (d : Dp) : Dp :=
  match ldFmt (bits w 16 4) with
  | none => d
  | some f =>
    let b := d.getBrush c
    match ldRows e c w b f b.rows 0 d with
    | (none, d) => d
    | (some rows, d) => d.setBrush c (fun b => b.setTile (bTD w) (fun l => laneOf f (elemOf f.width (rows.getD (l / 16) 0) (l % 16))))

def execLd (c : Fin 512) (w : BitVec 64) (s : State) : Host.Outcome State Fault Refusal :=
  .next (s.tileInstr c.val 0x10 w.toNat (ldValid w (s.dp.getBrush c.val)) (runLd c.val w))

/-- R255, R257: ST's fields are valid. -/
def stValid (w : BitVec 64) (b : Brush) : Bool :=
  match ldFmt (bits w 16 4) with
  | none => false
  | some f =>
    !(anyBits w 14 2) && !(anyBits w 21 3) && rowAligned w b f &&
      (if bits w 16 4 ≤ 3 then (Cvc.ofBits (bits w 28 4)).isSome else bits w 28 4 == 0) && !(bit w 13 && f.isInt)

/-- R71, R253: the random word of lane `l`. -/
def tveWord (e : Env) (c l : Nat) (d : Dp) : Nat :=
  let x := (d.getBrush c).idx
  e.word (tveUid c) (x.e0.toNat + l / 16 * x.es.toNat + l % 16) x.tid.toNat d

/-- R247, R257: a lane as it is stored, with its counts. -/
def storeEl (f : Fmt) (cv : Cvc) (word : Nat) (v : Word) : Conv :=
  match f with
  | .fp32 => { bits := v.toNat, nanw := isNan32 v }
  | .int32 => { bits := v.toNat } | .uint32 => { bits := v.toNat }
  | _ => f.conv cv word (f32 v)

/-- R257: ST writes the active lanes row by row, counts what was written, and raises the blot flag under GRAD. -/
def runSt (c : Nat) (w : BitVec 64) (e : Env) (d : Dp) : Dp :=
  match ldFmt (bits w 16 4) with
  | none => d
  | some f =>
    let b := d.getBrush c
    let u := tveUid c
    let cv := (Cvc.ofBits (bits w 28 4)).getD Cvc.nearest
    let r := (List.range b.rows).foldl (fun (a : Bool × Dp) r =>
      let n := min 16 (b.pvl.toNat - 16 * r)
      let els := (List.range n).map (fun k =>
        storeEl f cv (if cv.rnd = .sr then tveWord e c (16 * r + k) a.2 else 0) (b.lane (bTD w) (16 * r + k)))
      let wr := clPut e u c (bit w 20) (rowAddr w b r) (n * f.width / 8) (packElems f.width (els.map (·.bits))) a.2
      if wr.1.all id then
        (a.1 || (!f.isInt && els.any (fun x => (f.decode x.bits).nonFinite)),
         wr.2.sticky u (fun x => { x with nanw := satAdd x.nanw (els.filter (·.nanw)).length,
                                          ovfw := satAdd x.ovfw (els.filter (·.ovfw)).length }))
      else (a.1, wr.2)) (false, d)
    if bit w 13 && r.1 then raiseBlot e u 2 r.2 else r.2

def execSt (c : Fin 512) (w : BitVec 64) (s : State) : Host.Outcome State Fault Refusal :=
  .next (s.tileInstr c.val 0x11 w.toNat (stValid w (s.dp.getBrush c.val)) (runSt c.val w))

/-! ### Lane arithmetic (R259–R263) -/

/-- R259: FOP's functions of three FP32 operands. -/
def fopOf : Nat → Option (Word → Word → Word → Word)
  | 0 => some (fun a b _ => add32 a b)
  | 1 => some (fun a b _ => sub32 a b)
  | 2 => some (fun a b _ => mul32 a b)
  | 3 => some fma32
  | 4 => some (fun a b _ => max32 a b)
  | 5 => some (fun a b _ => min32 a b)
  | _ => none

/-- Write a tile from lane results and count INVOP over the inputs given (R248, R268). -/
def fpTile (c : Nat) (t : Nat) (ins : List Nat) (f : Nat → Word) (d : Dp) : Dp :=
  let b := d.getBrush c
  let n := invopLanes b.active (ins.map (fun i l => b.lane i l)) f
  (d.setBrush c (fun b => b.setTile t f)).sticky (tveUid c) (fun x => { x with invop := satAdd x.invop n })

/-- R259: FOP. -/
def runFop (c : Nat) (w : BitVec 64) (_ : Env) (d : Dp) : Dp :=
  match fopOf (bFN w) with
  | none => d
  | some g =>
    let b := d.getBrush c
    let ins := if bFN w = 3 then [bTA w, bTB w, bTC w] else [bTA w, bTB w]
    fpTile c (bTD w) ins (fun l => g (b.lane (bTA w) l) (b.lane (bTB w) l) (b.lane (bTC w) l)) d
def execFop (c : Fin 512) (w : BitVec 64) (s : State) : Host.Outcome State Fault Refusal :=
  .next (s.tileInstr c.val 0x20 w.toNat ((fopOf (bFN w)).isSome && (bFN w == 3 || bTC w == 0) && !(anyBits w 32 32)) (runFop c.val w))

/-- R263: FUN. -/
def runFun (c : Nat) (w : BitVec 64) (_ : Env) (d : Dp) : Dp :=
  match funOf (bFN w) with
  | none => d
  | some g =>
    let b := d.getBrush c
    fpTile c (bTD w) [bTA w] (fun l => g (b.lane (bTA w) l)) d
def execFun_ (c : Fin 512) (w : BitVec 64) (s : State) : Host.Outcome State Fault Refusal :=
  .next (s.tileInstr c.val 0x21 w.toNat ((funOf (bFN w)).isSome && bTB w == 0 && bTC w == 0 && !(anyBits w 32 32)) (runFun c.val w))

/-- R212, R260: the FP32 comparisons: false with a NaN, but for ≠; zeros are equal. -/
def feq32 (a b : Word) : Bool := !(isNan32 a) && !(isNan32 b) && key32 a == key32 b
def flt32 (a b : Word) : Bool := !(isNan32 a) && !(isNan32 b) && decide (key32 a < key32 b)
def fle32 (a b : Word) : Bool := !(isNan32 a) && !(isNan32 b) && decide (key32 a ≤ key32 b)

/-- R260: CMP's conditions. -/
def cmpOf : Nat → Option (Word → Word → Bool)
  | 0 => some feq32
  | 1 => some flt32
  | 2 => some fle32
  | 3 => some (fun a b => !(feq32 a b))
  | 4 => some (fun a b => a == b)
  | 5 => some (fun a b => a.slt b)
  | 6 => some (fun a b => a.sle b)
  | 7 => some (fun a b => a.ult b)
  | 8 => some (fun a b => a.ule b)
  | _ => none

/-- R260: CMP. -/
def runCmp (c : Nat) (w : BitVec 64) (_ : Env) (d : Dp) : Dp :=
  match cmpOf (bFN w) with
  | none => d
  | some g => d.setBrush c (fun b => b.setTile (bTD w) (fun l => if g (b.lane (bTA w) l) (b.lane (bTB w) l) then 0xFFFFFFFF#32 else 0))
def execCmp (c : Fin 512) (w : BitVec 64) (s : State) : Host.Outcome State Fault Refusal :=
  .next (s.tileInstr c.val 0x22 w.toNat ((cmpOf (bFN w)).isSome && bTC w == 0 && !(anyBits w 32 32)) (runCmp c.val w))

/-- R260: SEL writes TA where TC is not 0, TB elsewhere. -/
def runSel (c : Nat) (w : BitVec 64) (_ : Env) (d : Dp) : Dp :=
  d.setBrush c (fun b => b.setTile (bTD w) (fun l => if b.lane (bTC w) l = 0 then b.lane (bTB w) l else b.lane (bTA w) l))
def execSel (c : Fin 512) (w : BitVec 64) (s : State) : Host.Outcome State Fault Refusal :=
  .next (s.tileInstr c.val 0x23 w.toNat (bFN w == 0 && !(anyBits w 32 32)) (runSel c.val w))

/-- R260: IOP's functions; shifts use TB[4:0]. -/
def iopOf : Nat → Option (Word → Word → Word)
  | 0 => some (fun a b => a + b)
  | 1 => some (fun a b => a - b)
  | 2 => some (fun a b => a * b)
  | 3 => some (fun a b => a &&& b)
  | 4 => some (fun a b => a ||| b)
  | 5 => some (fun a b => a ^^^ b)
  | 6 => some (fun a b => a <<< (b.toNat % 32))
  | 7 => some (fun a b => a >>> (b.toNat % 32))
  | 8 => some (fun a b => a.sshiftRight (b.toNat % 32))
  | _ => none

/-- R260: IOP. -/
def runIop (c : Nat) (w : BitVec 64) (_ : Env) (d : Dp) : Dp :=
  match iopOf (bFN w) with
  | none => d
  | some g => d.setBrush c (fun b => b.setTile (bTD w) (fun l => g (b.lane (bTA w) l) (b.lane (bTB w) l)))
def execIop (c : Fin 512) (w : BitVec 64) (s : State) : Host.Outcome State Fault Refusal :=
  .next (s.tileInstr c.val 0x24 w.toNat ((iopOf (bFN w)).isSome && bTC w == 0 && !(anyBits w 32 32)) (runIop c.val w))

/-- R260: MOVI writes an immediate, the lane number, the row or the column. -/
def runMovi (c : Nat) (w : BitVec 64) (_ : Env) (d : Dp) : Dp :=
  d.setBrush c (fun b => b.setTile (bTD w) (fun l =>
    match bFN w with
    | 0 => w.extractLsb' 32 32
    | 1 => BitVec.ofNat 32 l
    | 2 => BitVec.ofNat 32 (l / 16)
    | _ => BitVec.ofNat 32 (l % 16)))
def execMovi (c : Fin 512) (w : BitVec 64) (s : State) : Host.Outcome State Fault Refusal :=
  .next (s.tileInstr c.val 0x2A w.toNat
    (decide (bFN w ≤ 3) && bTA w == 0 && bTB w == 0 && bTC w == 0 && (bFN w == 0 || bits w 32 32 == 0)) (runMovi c.val w))

/-- R261: CVT of one lane. -/
def cvtLane (fn : Nat) (cv : Cvc) (word : Nat) (v : Word) : Word :=
  let q := fun (f : Fmt) => toF32 (f.decode (f.conv cv word (f32 v)).bits)
  match fn with
  | 0 => BitVec.ofNat 32 (Fmt.int32.conv cv word (f32 v)).bits
  | 1 => BitVec.ofNat 32 (Fmt.uint32.conv cv word (f32 v)).bits
  | 2 => BitVec.ofNat 32 (Fmt.fp32.conv cv word (Fmt.int32.decode v.toNat)).bits
  | 3 => BitVec.ofNat 32 (Fmt.fp32.conv cv word (Fmt.uint32.decode v.toNat)).bits
  | 4 => q .bf16
  | 5 => q .fp16
  | 6 => q .e4m3
  | _ => q .e5m2

/-- R261: CVT's fields are valid. -/
def cvtValid (w : BitVec 64) : Bool :=
  match Cvc.ofBits (bits w 32 4) with
  | none => false
  | some cv => decide (bFN w ≤ 7) && bTB w == 0 && bTC w == 0 && !(anyBits w 36 28) && !(decide (bFN w ≤ 1) && decide (cv.rnd = .sr))

/-- R261, R268: CVT; a NaN that FN 4 to 7 make of another value counts in INVOP. -/
def runCvt (c : Nat) (w : BitVec 64) (e : Env) (d : Dp) : Dp :=
  match Cvc.ofBits (bits w 32 4) with
  | none => d
  | some cv =>
    let b := d.getBrush c
    let f := fun l => cvtLane (bFN w) cv (if cv.rnd = .sr then tveWord e c l d else 0) (b.lane (bTA w) l)
    if bFN w ≥ 4 then fpTile c (bTD w) [bTA w] f d else d.setBrush c (fun b => b.setTile (bTD w) f)
def execCvt (c : Fin 512) (w : BitVec 64) (s : State) : Host.Outcome State Fault Refusal :=
  .next (s.tileInstr c.val 0x25 w.toNat (cvtValid w) (runCvt c.val w))

/-- R262: RAND writes each active lane's random word, raw or as a number in [0, 1). -/
def runRand (c : Nat) (w : BitVec 64) (e : Env) (d : Dp) : Dp :=
  d.setBrush c (fun b => b.setTile (bTD w) (fun l =>
    let v := tveWord e c l d
    if bFN w = 0 then BitVec.ofNat 32 v else BitVec.ofNat 32 (Fmt.fp32.conv ⟨.rz, false⟩ 0 (.fin false v (-32))).bits))
def execRand (c : Fin 512) (w : BitVec 64) (s : State) : Host.Outcome State Fault Refusal :=
  .next (s.tileInstr c.val 0x29 w.toNat (decide (bFN w ≤ 1) && bTA w == 0 && bTB w == 0 && bTC w == 0 && !(anyBits w 32 32)) (runRand c.val w))

/-! ### Permutations and reductions (R265–R267) -/

/-- R265: write each active lane from its source lane; a source at or above PVL gives FILL and counts in OOR. -/
def permTile (c : Nat) (w : BitVec 64) (src : Nat → Nat) (d : Dp) : Dp :=
  let b := d.getBrush c
  let n := (b.active.filter (fun l => decide (src l ≥ b.pvl.toNat))).length
  (d.setBrush c (fun b => b.setTile (bTD w) (fun l => if src l < b.pvl.toNat then b.lane (bTA w) (src l) else b.fill))).sticky (tveUid c)
    (fun x => { x with oor := satAdd x.oor n })

/-- R265: PERM takes the source lanes from TB. -/
def runPerm (c : Nat) (w : BitVec 64) (_ : Env) (d : Dp) : Dp :=
  let b := d.getBrush c
  permTile c w (fun l => (b.lane (bTB w) l).toNat) d
def execPerm (c : Fin 512) (w : BitVec 64) (s : State) : Host.Outcome State Fault Refusal :=
  .next (s.tileInstr c.val 0x27 w.toNat (bTC w == 0 && bFN w == 0 && !(anyBits w 32 32)) (runPerm c.val w))

/-- R266: the fixed permutations. -/
def pfixLane (fn k l : Nat) : Nat :=
  let r := l / 16
  let c := l % 16
  match fn with
  | 0 => 16 * c + r
  | 1 => 16 * r + (c + k) % 16
  | 2 => 16 * ((r + k) % 16) + c
  | 3 => 16 * k + c
  | _ => 16 * r + k
def runPfix (c : Nat) (w : BitVec 64) (_ : Env) (d : Dp) : Dp := permTile c w (pfixLane (bFN w) (bits w 32 4)) d
def execPfix (c : Fin 512) (w : BitVec 64) (s : State) : Host.Outcome State Fault Refusal :=
  .next (s.tileInstr c.val 0x28 w.toNat
    (decide (bFN w ≤ 4) && bTB w == 0 && bTC w == 0 && !(anyBits w 36 28) && (bFN w != 0 || bits w 32 4 == 0)) (runPfix c.val w))

/-- R267: the lanes of lane `l`'s group, in tree order. -/
def redGroup (grp l : Nat) : List Nat :=
  match grp with
  | 0 => (List.range 16).map (fun k => 16 * (l / 16) + k)
  | 1 => (List.range 16).map (fun k => 16 * k + l % 16)
  | _ => List.range 256

/-- R267: RED's combine. -/
def redOp (fn : Nat) (a b : Nat) : Nat :=
  let x := BitVec.ofNat 32 a
  let y := BitVec.ofNat 32 b
  (match fn with
   | 0 => add32 x y
   | 1 => max32 x y
   | _ => min32 x y).toNat

/-- R267: the result of the group led by lane `l`, over its active lanes. R202, R247: a NaN is the canonical one, also when the group
has one active lane and nothing is combined. -/
def redResult (b : Brush) (fn grp t l : Nat) : Word :=
  let lanes := (redGroup grp l).filter (fun k => decide (k < b.pvl.toNat))
  let r := BitVec.ofNat 32 (canonicalReduce (redOp fn) 256 (lanes.map (fun k => (b.lane t k).toNat)))
  if isNan32 r then nan32 else r

/-- R267: the first lane of lane `l`'s group. -/
def redLead (grp l : Nat) : Nat := match grp with
  | 0 => 16 * (l / 16) | 1 => l % 16 | _ => 0

/-- R267, R268: RED; a group whose tree makes a NaN of inputs none of which is NaN counts each of its active lanes. -/
def runRed (c : Nat) (w : BitVec 64) (_ : Env) (d : Dp) : Dp :=
  let b := d.getBrush c
  let grp := bits w 32 2
  let leads := match grp with
    | 0 => (List.range 16).map (16 * ·) | 1 => List.range 16 | _ => [0]
  let res : Tab (BitVec 32) := leads.foldl (fun t l => t.put 0 l (redResult b (bFN w) grp (bTA w) l)) []
  let n := (b.active.filter (fun l =>
    isNan32 (res.get 0 (redLead grp l)) &&
      !(((redGroup grp l).filter (fun k => decide (k < b.pvl.toNat))).any (fun k => isNan32 (b.lane (bTA w) k))))).length
  (d.setBrush c (fun b => b.setTile (bTD w) (fun l => res.get 0 (redLead grp l)))).sticky (tveUid c)
    (fun x => { x with invop := satAdd x.invop n })
def execRed (c : Fin 512) (w : BitVec 64) (s : State) : Host.Outcome State Fault Refusal :=
  .next (s.tileInstr c.val 0x26 w.toNat (decide (bFN w ≤ 2) && bTB w == 0 && bTC w == 0 && decide (bits w 32 2 ≤ 2) && !(anyBits w 34 30))
    (runRed c.val w))

end Sys2Proof.Machine
end

