-- ==== Sys2Proof/Machine/SlantOps.lean ====
section
/-! DEFINITION. How a Slant channel reaches memory (09_slant_dma_and_format_engine.md R217, R218, R228; R85, R86, R99, R103, R107, R154),
add-writes at the HBM controller (R99), and the credit field of a Slant instruction (R222, R223). -/

namespace Sys2Proof.Machine

/-- R85: a package address as an instruction's arithmetic gives it: bits above 47 make it unmapped. -/
def Mem.at48 (m : Mem) (a : Nat) : Option Loc := if a < 2 ^ 48 then m.resolve a else none

/-- R86: the dies of the partition a unit works for. -/
def Env.diesOf (e : Env) (u : Nat) : Nat :=
  match e.ofUnit u with
  | none => 0
  | some p => p.dies

/-- A channel has a stream under the running script (R218). -/
def Env.hasStream (e : Env) (u : Nat) : Bool :=
  match e.ofUnit u with
  | none => false
  | some p => (p.img.streamOf u).isSome

/-- The cluster a location lies in, with its space and offset. -/
def Loc.cluster? : Loc → Option (Nat × Bool × Nat)
  | .sram i o => some (i, false, o)
  | .acc i o => some (i, true, o)
  | _ => none

/-- R154: channel `via` claims the bank of an offset in the phase of entry `n`. -/
def Env.claimsAt (e : Env) (via n : Nat) (acc : Bool) (off : Nat) : Bool :=
  match e.ofUnit via with
  | none => false
  | some p => p.img.claimed via n acc (clBank acc off)

/-- R228: what a Slant instruction may reach besides package memory. -/
inductive Reach where
  /-- COPY: the external window too. -/
  | any
  /-- No external window. -/
  | inside
  /-- SKEW's destination: the SRAM of the issuing cluster. -/
  | ownSram
  deriving DecidableEq, Repr

/-- R52, R232: the unit awaited external or remote data in this stroke. -/
def Dp.inbound (u : Nat) (d : Dp) : Dp := d.setUnit u (fun x => { x with cause := x.cause ||| 8#6 })

/-- Channel `ch` of cluster `c` reads the line at package address `a` (R217, R218, R228); SD_RDLINES counts a line that is read, not
an unmapped one. None where the read voids. -/
def slRead (e : Env) (c ch : Nat) (r : Reach) (a : Nat) (d : Dp) : Option (BitVec 512) × Dp :=
  let u := sdUid c ch
  match d.mem.at48 a with
  | none => (some 0, unmapped e u 0 a d)
  | some (.ext n o) =>
    if r ≠ .any then (some 0, unmapped e u 0 a d)
    else
      match d.mem.xtHpa n o false with
      | none => (some 0, unmapped e u 0 a d)
      | some h =>
        let d := (d.perf u 0x10 1).inbound u
        match d.mem.hostLine h with
        | none => (none, ueVoid e u a 4 d)
        | some v => (some v, d.crossFrom (uidDie u) a (.ext n o))
  | some l =>
    if !(l.inDies (e.diesOf u)) then (some 0, unmapped e u 0 a d)
    else
      match l.cluster? with
      | none => readLoc e u a l (d.perf u 0x10 1)
      | some (i, acc, off) =>
        let via := sdUid i ch
        if !(e.claims via acc off) then (some 0, unmapped e via 0 a d)
        else readLoc e u a l (if i = c then d.perf u 0x10 1 else (d.perf u 0x10 1).perf via 0x18 1)

/-- R77, R154, R218, R227: the write of a whole line into cluster memory by receiving channel `via` under entry `n`, arriving from outside
the cluster when `from_`. Answers whether it was performed. -/
def chanWrite (e : Env) (via n : Nat) (from_ : Bool) (a : Nat) (l : Loc) (acc : Bool) (off : Nat) (v : BitVec 512) (d : Dp) : Bool × Dp :=
  if !(e.claimsAt via n acc off) && !(from_ && !(e.hasStream via)) then (false, unmapped e via 1 a d)
  else if !(e.mayWriteAt via n a) then (false, windowViolation e via a d)
  else (true, storeLoc a l v (if from_ then d.perf via 0x18 1 else d))

/-- Channel `ch` of cluster `c` writes the line at package address `a` (R77, R90, R107, R218, R228); SD_WRLINES counts a line that is
performed. -/
def slWrite (e : Env) (c ch : Nat) (r : Reach) (a : Nat) (v : BitVec 512) (d : Dp) : Dp :=
  let u := sdUid c ch
  let wrote := fun (d : Dp) => d.perf u 0x14 1
  match d.mem.at48 a with
  | none => unmapped e u 1 a d
  | some (.ext n o) =>
    if r ≠ .any then unmapped e u 1 a d
    else
      match d.mem.xtHpa n o true with
      | none => unmapped e u 1 a d
      | some h =>
        if e.mayWrite u a then wrote ({ d with mem := d.mem.hostSetLine h v }.crossTo (uidDie u) a (.ext n o)) else windowViolation e u a d
  | some l =>
    if !(l.inDies (e.diesOf u)) then unmapped e u 1 a d
    else
      match l.cluster? with
      | none =>
        if r = .ownSram then unmapped e u 1 a d
        else if e.mayStore d.mem u a l then wrote ((storeLoc a l v d).crossTo (uidDie u) a l) else windowViolation e u a d
      | some (i, acc, off) =>
        if r = .ownSram && (decide (i ≠ c) || acc) then unmapped e u 1 a d
        else
          let r := chanWrite e (sdUid i ch) (e.entryOf u) (decide (i ≠ c)) a l acc off v d
          if r.1 then wrote (r.2.crossTo (uidDie u) a l) else r.2

/-- R227: one line of a PUT that arrives here, performed by channel `ch` of the addressed cluster under entry `n`. -/
def putLine (e : Env) (ch n a : Nat) (v : BitVec 512) (d : Dp) : Bool × Dp :=
  match d.mem.at48 a with
  | none => (false, unmapped e (sdUid 0 ch) 1 a d)
  | some l =>
    match l.cluster? with
    | none => (false, unmapped e (sdUid 0 ch) 1 a d)
    | some (i, acc, off) =>
      if (e.ofDie (i / 128)).isNone then (false, unmapped e (sdUid i ch) 1 a d)
      else chanWrite e (sdUid i ch) n true a l acc off v d

/-! ### Add-writes (R99) -/

/-- R99: the new line: each FP32 element plus its addend, rounded to nearest even. -/
def addLine (old : Nat) (addends : List Fp) : List Nat :=
  addends.zipIdx.map (fun y => Fmt.fp32.rne ((Fmt.fp32.decode (elemOf 32 old y.2)).add y.1))

/-- R77, R90, R99, R103, R275: one add-write of 16 addends to the line at `a` for unit `u`. -/
def addWriteLine (e : Env) (u a : Nat) (addends : List Fp) (d : Dp) : Dp :=
  match d.mem.at48 a with
  | none => unmapped e u 2 a d
  | some l =>
    if !(l.inDies (e.diesOf u) && d.mem.inAcc l) then unmapped e u 2 a d
    else if !(e.mayWrite u a) then windowViolation e u a d
    else
      match readHome e u a l (d.crossTo (uidDie u) a l) with
      | (none, d) => d
      | (some v, d) =>
        let els := addLine v.toNat addends
        let d := taint ((storeLoc a l (BitVec.ofNat 512 (packElems 32 els)) d).perf u 0x14 1)
        if els.any (fun x => (Fmt.fp32.decode x).nonFinite) then raiseBlot e u 5 d else d

/-- R99, R226: the formats of addends and how many a line holds. -/
def addFmt (n : Nat) : Option (Fmt × Nat) :=
  match n with
  | 0 => some (.bf16, 32) | 1 => some (.fp16, 32) | 7 => some (.fp32, 16)
  | _ => none

/-- R226: the add-writes one source line yields, from destination address `a` on. -/
def addSource (e : Env) (u a : Nat) (f : Fmt) (n : Nat) (v : BitVec 512) (d : Dp) : Dp :=
  (List.range (n / 16)).foldl (fun d c =>
    addWriteLine e u (a + 64 * c) ((List.range 16).map (fun i => f.decode (elemOf f.width v.toNat (16 * c + i)))) d) d

/-! ### Rows of lines -/

/-- Read `n` lines from `a` on as a channel; none where one voids. -/
def slReads (e : Env) (c ch : Nat) (r : Reach) (a : Nat) : Nat → Dp → Option (List (BitVec 512)) × Dp
  | 0, d => (some [], d)
  | n + 1, d =>
    match slRead e c ch r a d with
    | (none, d) => (none, d)
    | (some v, d) =>
      match slReads e c ch r (a + 64) n d with
      | (none, d) => (none, d)
      | (some l, d) => (some (v :: l), d)

/-- Move one row of lines: each line is read, then written (R223, R224). -/
def copyRow (e : Env) (c ch : Nat) (src dst : Nat) : Nat → Dp → Dp
  | 0, d => d
  | n + 1, d =>
    match slRead e c ch .any src d with
    | (none, d) => d
    | (some v, d) => if d.fr.voided then d else copyRow e c ch (src + 64) (dst + 64) n (slWrite e c ch .any dst v d)

/-- Write one row with one line value (R225). -/
def fillRow (e : Env) (c ch : Nat) (dst : Nat) (v : BitVec 512) : Nat → Dp → Dp
  | 0, d => d
  | n + 1, d => fillRow e c ch (dst + 64) v n (slWrite e c ch .inside dst v d)

/-- Send one row as add-writes (R226). -/
def addRow (e : Env) (c ch : Nat) (f : Fmt) (per src dst : Nat) : Nat → Dp → Dp
  | 0, d => d
  | n + 1, d =>
    match slRead e c ch .inside src d with
    | (none, d) => d
    | (some v, d) => addRow e c ch f per (src + 64) (dst + 4 * per) n (addSource e (sdUid c ch) dst f per v d)

/-! ### Credits of Slant instructions (R222) -/

/-- R222: the credit field in bits [255:224] is valid for a partition of dies `dies`; a PUT's cluster is judged by its receiver. -/
def creditOk (w : BitVec 256) (put : Bool) (dies : Nat) : Bool :=
  if bit w 224 then
    !(anyBits w 244 12) && decide (bits w 234 3 ≤ 4) && (bits w 234 3 == 3 || bits w 237 3 == 0) &&
      (put || dies.testBit (bits w 225 9 / 128))
  else bits w 224 32 == 0

/-- R222: the unit a credit field's bits [18:0] above CEN name, and its counter. -/
def creditUnit (tag : Nat) : Nat := cuid (tag % 512) (tag / 512 % 8) (if tag / 512 % 8 = 3 then tag / 4096 % 8 else 0)
def creditCtr (tag : Nat) : Nat := tag / 2 ^ 15 % 16

/-- R222, R223: the credit of a complete instruction to a unit of this package. Its scope is CLUSTER or PACKAGE, at which every earlier
write of the channel has been performed when its command has run; an instruction that a void ended is not complete. -/
def State.slCredit (s : State) (u : Nat) (w : BitVec 256) : State :=
  if bit w 224 && !s.dp.fr.voided then s.perform u (.credit (creditUnit (bits w 225 19)) (creditCtr (bits w 225 19)) 1) else s

/-- R222, R328: a PUT's credit reaches this package: added, or dropped and counted as unmapped when it names a cluster outside the
partitions that run. -/
def putCredit (e : Env) (tag src pkg : Nat) (d : Dp) : Dp :=
  if (e.ofDie (tag % 512 / 128)).isSome && decide (tag / 512 % 8 ≤ 4) then addCredit e (creditUnit tag) (creditCtr tag) 1 src pkg d
  else unmapped e (sdUid (tag % 512) 0) 1 0 d

/-- R53, R232: a WAIT that a CREDIT packet of another package ends has awaited remote data. -/
def remoteCredit (e : Env) (tag pkg : Nat) (d : Dp) : Dp :=
  let u := creditUnit tag
  let r := putCredit e tag 0 pkg d
  if (d.getUnit u).blocked.isSome && (r.getUnit u).blocked.isNone then r.inbound u else r

/-! ### Instructions in flight (R223) -/

/-- The instructions of unit `u` that wait for acknowledgements. -/
def State.inFlight (s : State) (u : Nat) : Nat :=
  ((s.torus.awaits.filter (fun a => a.unit == u)).foldl (fun l a => NSet.add l a.idx) []).length

/-- R117, R223, R227: a data instruction of a channel. It does not start while four are in flight, nor while it waits for an access that
cannot be made now (`waits`); else it runs. -/
def State.runMove (s : State) (u opc w : Nat) (valid waits : Bool) (f : State → State) : State :=
  if !(s.dp.runs s.env u opc w) then s
  else if valid && !(s.dp.atFragment s.env u) && (waits || decide (4 ≤ s.inFlight u)) then
    { s with dp := s.dp.setUnit u (fun x => { x with awaitExt := waits }) }
  else ({ s with dp := s.dp.setUnit u (fun x => { x with awaitExt := false }) }).runUnit u opc w valid f

end Sys2Proof.Machine
end

