-- ==== Sys2Proof/Machine/BlotterOps.lean ====
section
/-! DEFINITION. Shared operations of the update units (12_update_unit.md R291–R313): lines of a stack's local view, element programs,
the update of 64 elements, statistics, and ember lines. -/

namespace Sys2Proof.Machine

/-- The Blotter of stack `j`. -/
def upuUid (j : Nat) : Nat := duid (j / 3) 1 (j % 3)

def Dp.getUpu (d : Dp) (j : Nat) : Upu := d.upu.get {} j
def Dp.setUpu (d : Dp) (j : Nat) (f : Upu → Upu) : Dp := { d with upu := d.upu.upd {} j f }

/-! ### Lines of the local view (R291) -/

/-- R291, R85: the offset lies in the local view. -/
def Mem.inView (m : Mem) (off : Nat) : Bool := decide (off < m.localGib.toNat * 2 ^ 30)

/-- Read the line at offset `off` of stack `j`'s local view: zeros where unmapped, none where the read voids. -/
def upRead (e : Env) (j off : Nat) (d : Dp) : Option (BitVec 512) × Dp :=
  if d.mem.inView off then readLoc e (upuUid j) (localAddr j off) (.local_ j off) d
  else (some 0, unmapped e (upuUid j) 0 (localAddr j off) d)

/-- Write that line under the unit's windows; answers whether it was performed. -/
def upWrite (e : Env) (j off : Nat) (v : BitVec 512) (d : Dp) : Bool × Dp :=
  let a := localAddr j off
  if !(d.mem.inView off) then (false, unmapped e (upuUid j) 1 a d)
  else if !(e.mayStore d.mem (upuUid j) a (.local_ j off)) then (false, windowViolation e (upuUid j) a d)
  else (true, storeLoc a (.local_ j off) v d)

/-- R278, R301: a line of the accumulation area is read, and zeros are left in it when `take`. -/
def accRead (e : Env) (j off : Nat) (take : Bool) (d : Dp) : Option (BitVec 512) × Dp :=
  let a := localAddr j off
  if !(d.mem.inView off && d.mem.inAcc (.local_ j off)) then (some 0, unmapped e (upuUid j) 0 a d)
  else
    match readLoc e (upuUid j) a (.local_ j off) d with
    | (none, d) => (none, d)
    | (some v, d) =>
      if !take then (some v, d)
      else if e.mayWrite (upuUid j) a then (some v, taint (storeLoc a (.local_ j off) 0 d))
      else (some v, taint (windowViolation e (upuUid j) a d))

/-- Read `n` lines from offset `off` on with a reader, as one little-endian number. -/
def linesBy (rd : Nat → Dp → Option (BitVec 512) × Dp) : Nat → Nat → Dp → Option Nat × Dp
  | 0, _, d => (some 0, d)
  | n + 1, off, d =>
    match rd off d with
    | (none, d) => (none, d)
    | (some v, d) =>
      match linesBy rd n (off + 64) d with
      | (none, d) => (none, d)
      | (some r, d) => (some (v.toNat + 2 ^ 512 * r), d)

/-- The `n` 32-bit words of a number. -/
def wordsOf (v n : Nat) : List Word := (List.range n).map (fun i => BitVec.ofNat 32 (elemOf 32 v i))

/-- The lines of a run of 32-bit words: 16 words to a line, the last filled with zeros (R304). -/
def linesOf (l : List Word) : List (BitVec 512) :=
  (List.range (ceilDiv l.length 16)).map (fun i => BitVec.ofNat 512 (packElems 32 (((l.drop (16 * i)).take 16).map (·.toNat))))

/-! ### Element programs (R296–R298) -/

def uopOp (u : BitVec 32) : Nat := bits u 0 5

/-- R298: opcodes that use B and C. -/
def uopUsesB (n : Nat) : Bool := n ≤ 5 || n == 11 || n == 12
def uopUsesC (n : Nat) : Bool := n == 3 || n == 11

/-- R296, R297: a micro-op is valid. -/
def uopOk (u : BitVec 32) : Bool :=
  decide (uopOp u ≤ 14) && !(anyBits u 25 7) && decide (bits u 5 5 ≤ 15) && (uopUsesB (uopOp u) || bits u 15 5 == 0) &&
    (uopUsesC (uopOp u) || bits u 20 5 == 0)

/-- R298: SIGN. -/
def sign32 (a : Word) : Word :=
  if isNan32 a then nan32 else if a.toNat % 2 ^ 31 = 0 then a else if a.getLsbD 31 then 0xBF800000#32 else one32

/-- R298: the value a micro-op computes. -/
def uopVal (op : Nat) (a b c : Word) : Word :=
  match op with
  | 0 => add32 a b | 1 => sub32 a b | 2 => mul32 a b | 3 => fma32 a b c | 4 => max32 a b | 5 => min32 a b | 6 => neg32 a
  | 7 => abs32 a | 8 => rcp32 a | 9 => rsqrt32 a | 10 => sqrt32 a | 11 => if c ≠ 0 then a else b
  | 12 => if flt32 a b then one32 else 0 | 13 => sign32 a
  | _ => a

/-- R297: run a program on the 32 registers of one element lane. -/
def runUops (ops : List (BitVec 32)) (r : List Word) : List Word :=
  ops.foldl (fun r u => r.set (bits u 5 5) (uopVal (uopOp u) (r.getD (bits u 10 5) 0) (r.getD (bits u 15 5) 0) (r.getD (bits u 20 5) 0))) r

/-- R296: the slot holds a program. -/
def UpSlot.ready (x : UpSlot) : Bool := x.len != 0 && (decide (x.len ≤ 14) || x.half1)

/-- R296: the 14 micro-ops of a PROG. -/
def progOps (w : BitVec 512) : List (BitVec 32) := (List.range 14).map (fun k => w.extractLsb' (64 + 32 * k) 32)

/-- R296: micro-ops below the length are valid, the others are 0. -/
def progOpsOk (l : List (BitVec 32)) (left : Nat) : Bool :=
  l.zipIdx.all (fun x => if x.2 < left then uopOk x.1 else x.1 == 0)

/-! ### Operations (R301, R302, R304) -/

/-- R301: the fields of UPD, STAT and TAKE. -/
structure UpOp where
  slot : Nat
  gsrc : Nat
  unsc : Bool
  ven : Bool
  rven : Bool
  cven : Bool
  wcen : Bool
  emb : Bool
  wb : Bool
  stg : Bool
  wfmt : Nat
  cvc : Nat
  rows : Nat
  cols : Nat
  gaddr : Nat
  maddr : Nat
  vaddr : Nat
  waddr : Nat
  raddr : Nat
  caddr : Nat

def upOp (w : BitVec 512) : UpOp where
  slot := bits w 8 2
  gsrc := bits w 10 2
  unsc := bit w 12
  ven := bit w 13
  rven := bit w 14
  cven := bit w 15
  wcen := bit w 16
  emb := bit w 17
  wb := bit w 18
  stg := bit w 19
  wfmt := bits w 20 4
  cvc := bits w 24 4
  rows := bits w 32 16 + 1
  cols := 64 * (bits w 48 16 + 1)
  gaddr := bits w 64 36
  maddr := bits w 128 36
  vaddr := bits w 192 36
  waddr := bits w 256 36
  raddr := bits w 320 36
  caddr := bits w 384 36

/-- Elements of an operation, and its chunks of 64. -/
def UpOp.elems (x : UpOp) : Nat := x.rows * x.cols
def UpOp.chunks (x : UpOp) : Nat := x.elems / 64

/-- R294, R301: an address field is aligned, and 0 where unused. -/
def upAddrOk (a : Nat) (used : Bool) : Bool := if used then a % 64 == 0 else a == 0

/-- Reserved fields of the shared layout are 0. -/
def upRsvOk (w : BitVec 512) : Bool :=
  !(anyBits w 28 4) && !(anyBits w 100 28) && !(anyBits w 164 28) && !(anyBits w 228 28) && !(anyBits w 292 28) && !(anyBits w 356 28) &&
    !(anyBits w 420 92)

/-- R205, R301: the conversion of the working copy. -/
def UpOp.conv (x : UpOp) : Option (Fmt × Cvc) :=
  if x.wfmt > 3 then none
  else match Fmt.ofCode x.wfmt, Cvc.ofBits x.cvc with
    | some f, some c => some (f, c)
    | _, _ => none

/-- R90, R301: a range of `n` bytes of stack `j`'s view lies in the staging area. -/
def Mem.stageRange (m : Mem) (a n : Nat) : Bool := areaHas m.areaStage a && areaHas m.areaStage (a + n - 1)

/-- R301: UPD is valid. -/
def updValid (w : BitVec 512) (u : Upu) (m : Mem) : Bool :=
  let x := upOp w
  upRsvOk w && (u.slots.get {} x.slot).ready && (x.wcen || (x.wfmt == 0 && x.cvc == 0)) && (!x.wcen || x.conv.isSome) &&
    (!x.wb || x.stg) && upAddrOk x.gaddr true && upAddrOk x.maddr true && upAddrOk x.vaddr x.ven && upAddrOk x.waddr x.wcen &&
    upAddrOk x.raddr x.rven && upAddrOk x.caddr x.cven &&
    (!x.stg || (m.stageRange x.maddr (4 * x.elems) && (!x.ven || m.stageRange x.vaddr (4 * x.elems))))

/-- R301, R304: STAT is valid. -/
def statValid (w : BitVec 512) (u : Upu) : Bool :=
  let x := upOp w
  upRsvOk w && (u.slots.get {} x.slot).ready && !x.wcen && !x.emb && !x.wb && !x.stg && x.wfmt == 0 && x.cvc == 0 && x.maddr == 0 &&
    x.waddr == 0 && upAddrOk x.gaddr true && upAddrOk x.vaddr x.ven && upAddrOk x.raddr x.rven && upAddrOk x.caddr x.cven

/-- R301: TAKE sets no field but RM1, CM1 and GADDR. -/
def takeValid (w : BitVec 512) : Bool :=
  !(anyBits w 8 24) && upAddrOk (bits w 64 36) true && !(anyBits w 100 412)

/-- The partition of a Blotter's launch. -/
def Env.partOf (e : Env) (j : Nat) : Nat :=
  match e.ofUnit (upuUid j) with
  | some p => p.part
  | none => 0

/-- R306: the gate of the pass is SET. -/
def gateSet (e : Env) (j : Nat) (d : Dp) : Bool := decide ((d.getPart (e.partOf j)).gate = .set)

/-- R297: 2^−LS, the loss-scale reciprocal in force. -/
def lsRecip (e : Env) (j : Nat) (d : Dp) : Word := BitVec.ofNat 32 (pow2f32 (-(d.getPart (e.partOf j)).ls.toInt))

/-- R301, R302: the 64 gradients of chunk `q`, decoded and unscaled. -/
def upGrad (e : Env) (j : Nat) (x : UpOp) (take : Bool) (q : Nat) (d : Dp) : Option (List Word) × Dp :=
  let un := fun (g : Word) => if x.unsc then mul32 g (lsRecip e j d) else g
  match x.gsrc with
  | 0 =>
    match linesBy (fun off d => accRead e j off take d) 4 (x.gaddr + 256 * q) d with
    | (none, d) => (none, d)
    | (some v, d) => (some ((wordsOf v 64).map un), d)
  | 3 =>
    match linesBy (upRead e j) 4 (x.gaddr + 256 * q) d with
    | (none, d) => (none, d)
    | (some v, d) => (some ((wordsOf v 64).map un), d)
  | n =>
    let f := if n = 1 then Fmt.bf16 else Fmt.fp16
    match linesBy (upRead e j) 2 (x.gaddr + 128 * q) d with
    | (none, d) => (none, d)
    | (some v, d) => (some ((List.range 64).map (fun i => un (toF32 (f.decode (elemOf 16 v i))))), d)

/-- 64 FP32 operands from offset `off`, or +0 in each where not read. -/
def upVec (e : Env) (j : Nat) (on : Bool) (off : Nat) (d : Dp) : Option (List Word) × Dp :=
  if on then
    match linesBy (upRead e j) 4 off d with
    | (none, d) => (none, d)
    | (some v, d) => (some (wordsOf v 64), d)
  else (some (List.replicate 64 0), d)

/-- The row operand of chunk `q`. -/
def upRow (e : Env) (j : Nat) (on : Bool) (a r : Nat) (d : Dp) : Option Word × Dp :=
  if on then
    match upRead e j ((a + 4 * r) / 64 * 64) d with
    | (none, d) => (none, d)
    | (some v, d) => (some (lineWord v (r % 16)), d)
  else (some 0, d)

/-- R297, R303: an operation as it issues, with the program, constants and registers it takes. -/
def Upu.issue (u : Upu) (w : BitVec 512) : UpRun :=
  let sl := u.slots.get {} (upOp w).slot
  { w := w, prog := sl.ops.take sl.len, k := u.k, e0 := u.e0, tid := u.tid, xdelta := u.xdelta, emBase := u.emBase, next := 0,
    grads := [], since := none, back := [] }

/-- R297, R302: the registers after the program for the 64 elements of chunk `q` with gradients `g`; row and column operands are loaded
when `vec`. -/
def upRegs (e : Env) (j : Nat) (r : UpRun) (vec : Bool) (q : Nat) (g : List Word) (d : Dp) : Option (List (List Word)) × Dp :=
  let x := upOp r.w
  let n := 64 * q
  match upVec e j true (x.maddr + 4 * n) d with
  | (none, d) => (none, d)
  | (some m, d) =>
  match upVec e j x.ven (x.vaddr + 4 * n) d with
  | (none, d) => (none, d)
  | (some v, d) =>
  match upRow e j (vec && x.rven) x.raddr (n / x.cols) d with
  | (none, d) => (none, d)
  | (some rv, d) =>
  match upVec e j (vec && x.cven) (x.caddr + 4 * (n % x.cols)) d with
  | (none, d) => (none, d)
  | (some cv, d) =>
    let ks := (List.range 16).map (fun i => r.k.get 0 i)
    let two := lsRecip e j d
    (some ((List.range 64).map (fun i =>
      runUops r.prog ([g.getD i 0, m.getD i 0, v.getD i 0, rv, cv.getD i 0, two] ++ List.replicate 10 0 ++ ks))), d)

/-- R297, R302: the same for a chunk whose gradients are read now, taken when `take`, by an operation that issues now. -/
def upChunk (e : Env) (j : Nat) (w : BitVec 512) (take vec : Bool) (q : Nat) (d : Dp) : Option (List (List Word)) × Dp :=
  match upGrad e j (upOp w) take q d with
  | (none, d) => (none, d)
  | (some g, d) => upRegs e j ((d.getUpu j).issue w) vec q g d

/-- What an UPD carries from chunk to chunk: the data path, the master and moment lines performed (offset, line; newest first), the
gradients read ahead, and whether it goes on. -/
structure UpAcc where
  d : Dp
  lines : List (Nat × BitVec 512) := []
  grads : List (List Word) := []
  ok : Bool := true

/-- R302, R308: the gradients of chunk `q`, out of those read ahead if there are any. -/
def UpAcc.grad (e : Env) (j : Nat) (x : UpOp) (q : Nat) (a : UpAcc) : Option (List Word) × UpAcc :=
  match a.grads with
  | g :: r => (some g, { a with grads := r })
  | [] =>
    let y := upGrad e j x true q a.d
    (y.1, { a with d := y.2, ok := y.1.isSome })

/-- R285: an update unit of the pass has written persistent state; regeneration only repeats what a pass wrote (R437). -/
def pastWrite (e : Env) (j : Nat) (d : Dp) : Dp :=
  if d.fr.regen then d else d.setPart (e.partOf j) (fun q => { q with wrote := true })

/-- R285: write lines from offset `off` on; those performed are added when `keep`. Answers the number of the 64-element slots written,
as a test by line. -/
def upPut (e : Env) (j off : Nat) (keep : Bool) (l : List (BitVec 512)) (a : UpAcc) : List Bool × UpAcc :=
  (l.zipIdx).foldl (fun (r : List Bool × UpAcc) x =>
    let o := off + 64 * x.2
    let w := upWrite e j o x.1 r.2.d
    (r.1 ++ [w.1], { r.2 with d := if w.1 then pastWrite e j w.2 else w.2, lines := if w.1 && keep then (o, x.1) :: r.2.lines else r.2.lines })) ([], a)

/-- R315: count the NaNs and overflows among elements of performed lines, `per` elements to a line. -/
def upCount (j per : Nat) (done : List Bool) (nan ovf : List Bool) (a : UpAcc) : UpAcc :=
  let cnt := fun (l : List Bool) => ((l.zipIdx).filter (fun x => x.1 && done.getD (x.2 / per) false)).length
  { a with d := a.d.sticky (upuUid j) (fun x => { x with nanw := satAdd x.nanw (cnt nan), ovfw := satAdd x.ovfw (cnt ovf) }) }

/-- R302: the working copy of 64 masters, from element `n` on. -/
def upConv (e : Env) (j : Nat) (r : UpRun) (f : Fmt) (c : Cvc) (n : Nat) (m : List Word) (d : Dp) : List Conv :=
  m.zipIdx.map (fun y => f.conv c (if c.rnd = .sr then e.word (upuUid j) (r.e0.toNat + n + y.2) r.tid.toNat d else 0) (f32 y.1))

/-- Write the working copy of 64 masters. -/
def upWork (e : Env) (j : Nat) (r : UpRun) (q : Nat) (m : List Word) (count : Bool) (a : UpAcc) : UpAcc :=
  let x := upOp r.w
  match x.conv with
  | none => a
  | some (f, c) =>
    if !x.wcen then a
    else
      let cv := upConv e j r f c (64 * q) m a.d
      let v := packElems f.width (cv.map (·.bits))
      let ln := (List.range (f.width / 8)).map (fun i => BitVec.ofNat 512 (v >>> (512 * i)))
      let r := upPut e j (x.waddr + 8 * f.width * q) false ln a
      if count then upCount j (512 / f.width) r.1 (cv.map (·.nanw)) (cv.map (·.ovfw)) r.2 else r.2

/-- R302: one chunk of an ungated UPD. -/
def updChunk (e : Env) (j : Nat) (r : UpRun) (q : Nat) (a : UpAcc) : UpAcc :=
  let x := upOp r.w
  match a.grad e j x q with
  | (none, a) => a
  | (some g, a) =>
  match upRegs e j r true q g a.d with
  | (none, d) => { a with d := d, ok := false }
  | (some regs, d) =>
    let m := regs.map (fun r => r.getD 1 0)
    let v := regs.map (fun r => r.getD 2 0)
    let y := upPut e j (x.maddr + 256 * q) true (linesOf m) { a with d := d }
    let a := upCount j 16 y.1 (m.map isNan32) [] y.2
    let a := if x.ven then
        let y := upPut e j (x.vaddr + 256 * q) true (linesOf v) a
        upCount j 16 y.1 (v.map isNan32) [] y.2
      else a
    upWork e j r q m true a

/-- R437: one chunk of an UPD during regeneration: its working copy, if it has one. -/
def regenChunk (e : Env) (j : Nat) (r : UpRun) (q : Nat) (a : UpAcc) : UpAcc :=
  let x := upOp r.w
  if !x.wcen then a
  else match upVec e j true (x.maddr + 256 * q) a.d with
  | (none, d) => { a with d := d, ok := false }
  | (some m, d) => upWork e j r q m false { a with d := d }

/-- Chunks `q` to `q` + `n` − 1 in ascending order, until a read voids the stroke or `stop` holds a chunk back; answers the chunk it
stopped before. -/
def updLoop (f : Nat → UpAcc → UpAcc) (stop : Nat → UpAcc → Bool) : Nat → Nat → UpAcc → Nat × UpAcc
  | 0, q, a => (q, a)
  | n + 1, q, a => if !a.ok || stop q a then (q, a) else updLoop f stop n (q + 1) (f q a)

/-- R308: while it is parked before chunk `q` an operation reads gradients on, up to 512 KiB. -/
def readAhead (e : Env) (j : Nat) (x : UpOp) (q : Nat) (a : UpAcc) : UpAcc :=
  let cap := min (if x.gsrc = 1 ∨ x.gsrc = 2 then 4096 else 2048) (x.chunks - q)
  (List.range (cap - a.grads.length)).foldl (fun a _ =>
    if !a.ok then a
    else
      let y := upGrad e j x true (q + a.grads.length) a.d
      { a with d := y.2, ok := y.1.isSome, grads := a.grads ++ y.1.toList }) a

/-- Chunks in ascending order until a read voids the stroke. -/
def upChunks (f : Nat → UpAcc → UpAcc) (n : Nat) (d : Dp) : UpAcc :=
  (List.range n).foldl (fun a q => if a.ok then f q a else a) { d := d }

/-- Take the gradient lines of an operation of `n` FP32 elements at `g` (R278, R306). -/
def takeAll (e : Env) (j g n : Nat) (d : Dp) : Dp :=
  (upChunks (fun q a => match linesBy (fun off d => accRead e j off true d) 4 (g + 256 * q) a.d with
    | (none, d) => { a with d := d, ok := false }
    | (some _, d) => { a with d := d }) (n / 64) d).d

/-! ### Staging (R307, R308) -/

/-- R307: the staging blocks that `n` bytes from offset `a` on touch. -/
def blocksOf (a n : Nat) : List Nat := (List.range ((a + n - 1) / 2 ^ 20 - a / 2 ^ 20 + 1)).map (fun i => a / 2 ^ 20 + i)

/-- R307: the staging blocks an operation's master and moment ranges touch, and those of its chunk `q`. -/
def UpOp.blocks (x : UpOp) : List Nat := blocksOf x.maddr (4 * x.elems) ++ if x.ven then blocksOf x.vaddr (4 * x.elems) else []
def UpOp.need (x : UpOp) (q : Nat) : List Nat := blocksOf (x.maddr + 256 * q) 256 ++ if x.ven then blocksOf (x.vaddr + 256 * q) 256 else []

/-- R307: block `b` of stack `j` is resident. -/
def Mem.resident (m : Mem) (j b : Nat) : Bool := decide (m.staged.get 0 (j * 2 ^ 16 + b) ≥ 16384)

/-- R308: the block that holds back chunk `q` of an operation: not resident. -/
def Mem.short (m : Mem) (j : Nat) (x : UpOp) (q : Nat) : Option Nat :=
  if x.stg then (x.need q).find? (fun b => !(m.resident j b)) else none

/-- R307: the blocks of a completed operation are released. -/
def releaseBlocks (j : Nat) (x : UpOp) (d : Dp) : Dp :=
  if x.stg then { d with mem := { d.mem with staged := x.blocks.foldl (fun t b => t.put 0 (j * 2 ^ 16 + b) 0) d.mem.staged } } else d

/-! ### Ember lines and write-back (R309–R312) -/

/-- R309: write a line back to the slow tier. -/
def writeBack (e : Env) (j : Nat) (delta : BitVec 48) (x : Nat × BitVec 512) (d : Dp) : Dp :=
  let a : Int := Int.ofNat (localAddr j x.1) + delta.toInt
  let bad := unmapped e (upuUid j) 1 (a % 2 ^ 64).toNat d
  match (if a < 0 then none else d.mem.at48 a.toNat) with
  | some (.ext n o) =>
    if bits (d.mem.xt.get 0 n) 2 2 = 2 then
      match d.mem.xtHpa n o true with
      | some h => taint { d with mem := d.mem.hostSetLine h x.2 }
      | none => bad
    else bad
  | _ => bad

/-- R311: a line at view offset `off` is sent under EM_BASE `base`: its offset in the slot, or none when it is dropped. -/
def State.emberOff (s : State) (j base off : Nat) : Option Nat :=
  let o := off - base
  if off < base || o + 64 ≥ s.dp.mem.slotBytes || !(s.dp.getUpu j).opened || s.torus.emberDir ≥ 6 then none else some o

/-- R311: a dropped line: counted; the first of a pass sets EDROP and writes a record. -/
def emberDrop (e : Env) (j off : Nat) (d : Dp) : Dp :=
  let first := !(d.getUpu j).edrop
  let d := (d.perf (upuUid j) 0x2C 1).setUpu j (fun u => { u with edrop := true, edropF := u.edropF || first })
  if first then record e (upuUid j) 0x24 false [(28, off)] d else d

/-- Runs of at most 64 lines at consecutive offsets. -/
def runsOf : List (Nat × BitVec 512) → List (Nat × List (BitVec 512))
  | [] => []
  | (o, v) :: r =>
    match runsOf r with
    | (p, l) :: t => if p = o + 64 && decide (l.length < 64) then (o, v :: l) :: t else (o, [v]) :: (p, l) :: t
    | [] => [(o, [v])]

/-- R311, R328: the ember lines of an operation go out, those the slot does not take are dropped. -/
def State.sendEmber (s : State) (j base : Nat) (l : List (Nat × BitVec 512)) : State :=
  let kept := l.filterMap (fun x => (s.emberOff j base x.1).map (fun o => (o, x.2)))
  let lost := l.filter (fun x => (s.emberOff j base x.1).isNone)
  let dir := s.torus.emberDir
  let s := s.onDp (fun e d => lost.foldl (fun d x => emberDrop e j x.1 d)
    (d.setUpu j (fun u => { u with emberLines := u.emberLines + kept.length })))
  let s := if kept.isEmpty then s else s.onDp (fun _ => taint)
  (runsOf kept).foldl (fun s x =>
    s.sendAwaited (j / 3) (upuUid j) 5 3 (s.torus.nbPkg dir) (s.torus.nbPod dir) x.1 (j * 2 ^ 32) 0 x.2) s

/-! ### Operations in flight (R303, R308, R309) -/

/-- R303: the view ranges an operation reads, and those it writes; `op` is its opcode. -/
def UpOp.foot (x : UpOp) (op : Nat) : List (Nat × Nat) × List (Nat × Nat) :=
  let r := fun (on : Bool) (a n : Nat) => if on then [(a, a + n)] else []
  let n := x.elems
  let g := r true x.gaddr ((if x.gsrc = 1 ∨ x.gsrc = 2 then 2 else 4) * n)
  let m := r true x.maddr (4 * n)
  let v := r x.ven x.vaddr (4 * n)
  let rows := r x.rven x.raddr (64 * ceilDiv x.rows 16)
  let cols := r x.cven x.caddr (4 * x.cols)
  if op = 0x13 then (g ++ m ++ v ++ rows ++ cols, m ++ v ++ r x.wcen x.waddr (2 * n) ++ (if x.gsrc = 0 then g else []))
  else if op = 0x14 then (g ++ m ++ v, rows ++ cols)
  else (g, g)

/-- R303: two ranges share a byte. -/
def meets (a b : Nat × Nat) : Bool := decide (a.1 < b.2) && decide (b.1 < a.2)

/-- R303: a data instruction of the given reads and writes may start beside the operations in flight: fewer than two, and none writes a line
it reads or writes, or reads a line it writes. -/
def Upu.free (u : Upu) (f : List (Nat × Nat) × List (Nat × Nat)) : Bool :=
  decide (u.ops.length < 2) && u.ops.all (fun r =>
    let o := (upOp r.w).foot 0x13
    !(o.2.any (fun a => (f.1 ++ f.2).any (meets a))) && !(o.1.any (fun a => f.2.any (meets a))))

/-- R303: a data instruction of a Blotter; it waits while it is not free to start. -/
def State.runData (s : State) (j opc : Nat) (w : BitVec 512) (valid : Bool) (f : List (Nat × Nat) × List (Nat × Nat))
    (act : State → State) : State :=
  let u := upuUid j
  if s.dp.runs s.env u opc w.toNat && valid && !(s.dp.atFragment s.env u) && !((s.dp.getUpu j).free f) then s
  else s.runUnit u opc w.toNat valid act

/-- R308: an operation parks before its next chunk. -/
def State.park (s : State) (j : Nat) (r : UpRun) (b : Nat) : State :=
  let u := upuUid j
  let a := if s.dp.fr.regen then { d := s.dp, grads := r.grads } else readAhead s.env j (upOp r.w) r.next { d := s.dp, grads := r.grads }
  if !a.ok then { s with dp := a.d }
  else
    ({ s with dp := a.d }).onDp (fun e d => trace e u { kind := 10, a0 := b }
      (((d.perf u 0x34 1).setUnit u (fun x => { x with cause := x.cause ||| 2#6 })).setUpu j (fun x =>
        { x with ops := x.ops ++ [{ r with since := some e.tb, grads := a.grads }] })))

/-- R307, R308, R309: an operation that has run as far as it can: parked at a block, waiting for the host link with its write-back, or
complete, which releases its blocks. -/
def State.restOp (s : State) (j : Nat) (r : UpRun) : State :=
  let x := upOp r.w
  match (if r.next < x.chunks then s.dp.mem.short j x r.next else none) with
  | some b => s.park j r b
  | none =>
    if r.back.isEmpty then s.onDp (fun _ => releaseBlocks j x)
    else { s with dp := s.dp.setUpu j (fun u => { u with ops := u.ops ++ [r] }) }

/-- R302, R308, R309, R311, R437: an operation runs on from its next chunk as far as the staging blocks are resident: the update, or the
working copies of a regeneration, then write-backs when the host link is up, and ember lines. -/
def State.runOp (s : State) (j : Nat) (r : UpRun) : State :=
  let x := upOp r.w
  let u := upuUid j
  let e := s.env
  let regen := s.dp.fr.regen
  let y := updLoop (if regen then regenChunk e j r else updChunk e j r) (fun q a => (a.d.mem.short j x q).isSome) (x.chunks - r.next) r.next
    { d := s.dp, grads := r.grads }
  let l := y.2.lines.reverse
  let d := if regen then y.2.d else y.2.d.perf u 0x18 (64 * (y.1 - r.next - (if y.2.ok then 0 else 1)))
  let back := if x.wb then r.back ++ l else []
  let d := if s.hp.linkUp then back.foldl (fun d z => writeBack e j r.xdelta z d) d else d
  let s := { s with dp := d }
  let s := if x.emb then s.sendEmber j r.emBase.toNat l else s
  if y.2.ok then
    s.restOp j { r with next := y.1, grads := y.2.grads, since := none, back := if s.hp.linkUp then [] else back }
  else s

/-- R117, R309: the host link is up again: the write-backs of a Blotter that wait take place, and operations that waited for nothing else
complete. -/
def State.backUp (s : State) (j : Nat) : State :=
  if s.dp.fr.voided then s
  else
    let l := (s.dp.getUpu j).ops
    let s := s.onDp (fun e d => l.foldl (fun d r => r.back.foldl (fun d z => writeBack e j r.xdelta z d) d)
      (d.setUpu j (fun u => { u with ops := u.ops.filterMap (fun r =>
        if r.since.isSome || r.back.isEmpty then some { r with back := [] } else none) })))
    s.onDp (fun _ d => (l.filter (fun r => r.since.isNone && !r.back.isEmpty)).foldl (fun d r => releaseBlocks j (upOp r.w) d) d)

/-- R312: the seal line of stack `j` for the pass of partition state `q`. -/
def sealLine (pkg pod j lines : Nat) (q : Part) : BitVec 512 :=
  BitVec.ofNat 512 (packBytes [(0, 0x454D4231), (4, pkg), (6, pod), (7, j), (8, q.step.toNat), (16, q.eseq.toNat), (24, lines),
    (32, q.ls.toNat), (36, q.clean.toNat), (40, q.skip.toNat)])

end Sys2Proof.Machine
end

