-- ==== Sys2Proof/Machine/StrokeOps.lean ====
section
/-! DEFINITION. Shared operations at S+0 (the state units begin a stroke with, R180, R195, R246, R253, R293, R419; what a void returns
to, R430) and of rollback (18_faults_and_recovery.md R432–R437). -/

namespace Sys2Proof.Machine

/-- Every stream unit's identifier: cluster units, then the die units. -/
def Image.unitIds (g : Image) : List Nat := g.streams.map (fun t => t.unit)

/-- The units of a launch that have work in the entry in force. A held launch's units report done at S+0 (R435); during
regeneration only Blotters and Slant run (R437). -/
def PEnv.workers (p : PEnv) (regen : Bool) : List Nat :=
  if !p.runs then []
  else p.img.unitIds.filter (fun u => p.img.works u p.entry &&
    (!regen || (u / 0x2000) % 2 == 0 && (u / 8) % 8 == 3 || (u / 0x2000) % 2 == 1 && (u / 0x100) % 32 == 1))

/-! ### S+0 -/

/-- What S+0 of a stroke leaves of a unit: sticky and measuring counters, and its enables. -/
def Unit.startStroke (x : Unit) : Unit :=
  { x with idx := 0, cnt := [], blocked := none, done := false, cause := 0, fetchLate := false, fetched := false, held := false, awaitExt := false }

/-- R293: what S+0 of a stroke leaves of a Blotter. -/
def Upu.startStroke (u : Upu) : Upu :=
  { u with slots := [], k := [], e0 := 0, tid := 0, xdelta := 0, emBase := 0, ops := [] }

/-- R347: what S+0 leaves of a Flue: operation sequence numbers and the last side-band value. -/
def Cle.startStroke (c : Cle) : Cle := { c with ops := c.ops.filter (fun o => o.host.isSome) }

/-- Rebuild a table under a map of its values. -/
def Tab.mapv {α : Type} [DecidableEq α] (d : α) (t : Tab α) (f : α → α) : Tab α := t.foldl (fun r x => r.put d x.1 (f x.2)) []

/-- The units of a launch that work in the stroke: those of a region under test do not (R463). -/
def State.workersOf (s : State) (p : PEnv) : List Nat := (p.workers s.dp.fr.regen).filter (fun u => !(s.dp.mem.isoUnit u))
/-- The units that have work in the entries in force. -/
def State.workers (s : State) : List Nat := s.env.parts.flatMap s.workersOf

/-- What the voided stroke would return to (R430). -/
def Dp.shot (d : Dp) : Snap :=
  { units := d.units, mxa := d.mxa, brush := d.brush, idx := d.idx, dgu := d.dgu, upu := d.upu, cle := d.cle, part := d.part,
    staged := d.mem.staged }

/-- R152, R180, R184, R246, R253, R293, R419: every unit begins the stroke afresh, and its state at S+0 is kept for a replay. A unit
whose segment has not been fetched begins late. -/
def State.startUnits (s : State) : State :=
  let d := s.dp
  let w := s.workers
  let units := w.foldl (fun (t : Tab Unit) u => t.upd {} u (fun x => { x with fetchLate := !(d.getUnit u).fetched }))
    (Tab.mapv {} d.units Unit.startStroke)
  let d := { d with units := units, mxa := [], brush := [], idx := [], dgu := [], upu := Tab.mapv {} d.upu Upu.startStroke,
                    cle := Tab.mapv {} d.cle Cle.startStroke,
                    fr := { d.fr with voided := false, voidCause := 0, tainted := false } }
  let d := { d with snap := d.shot }
  let s := { s with dp := d }
  w.foldl (fun (s : State) u => s.onDp (fun e d => trace e u { kind := 1, a0 := e.stroke.toNat } d)) s

/-! ### Tallies (R433) -/

/-- Bytes `off` to `off + n − 1` of a tally, within one line. -/
def Tally.at (t : Tally) (off n : Nat) : Nat := bits (t.get 0 (off / 64)) (8 * (off % 64)) (8 * n)
def Tally.w32 (t : Tally) (off : Nat) : BitVec 32 := BitVec.ofNat 32 (Tally.at t off 4)
def Tally.w64 (t : Tally) (off : Nat) : BitVec 64 := BitVec.ofNat 64 (Tally.at t off 8)

/-- The sticky counters a tally holds for unit `u`. -/
def Tally.sticky (t : Tally) (u : Nat) : Sticky :=
  let d := uidDie u
  if isDieUnit u then
    (if (u / 0x100) % 32 = 0 then
      let o := 64 + 64 * d
      { nanw := Tally.w32 t o, ovfw := Tally.w32 t (o + 4), ill := Tally.w32 t (o + 8), drop := Tally.w32 t (o + 12),
        badix := Tally.w32 t (o + 16) }
    else
      let o := 64 + 64 * d + 20 + 12 * (u % 0x100)
      { nanw := Tally.w32 t o, ovfw := Tally.w32 t (o + 4), ill := Tally.w32 t (o + 8) })
  else
    let o := 2368 + 80 * uidCluster u
    match (u / 8) % 8 with
    | 0 => { nan := Tally.w32 t o, inf := Tally.w32 t (o + 4), ill := Tally.w32 t (o + 8) }
    | 1 => { nanw := Tally.w32 t (o + 12), ovfw := Tally.w32 t (o + 16), ill := Tally.w32 t (o + 20), oor := Tally.w32 t (o + 24),
             invop := Tally.w32 t (o + 28) }
    | 2 => { nanw := Tally.w32 t (o + 32), ovfw := Tally.w32 t (o + 36), ill := Tally.w32 t (o + 40) }
    | 3 => { ill := Tally.w32 t (o + 44 + 4 * (u % 8)) }
    | _ => { ill := Tally.w32 t (o + 76) }

/-- Every stream unit on the dies of a mask. -/
def unitsOfDies (dies : BitVec 4) : List Nat :=
  ((List.range 512).filter (fun i => dies.getLsbD (i / 128))).flatMap (fun i =>
    [cuid i 0 0, cuid i 1 0, cuid i 2 0, cuid i 4 0] ++ (List.range 8).map (fun c => cuid i 3 c)) ++
  ((List.range 4).filter (fun d => dies.getLsbD d)).flatMap (fun d => [duid d 0 0, duid d 1 0, duid d 1 1, duid d 1 2])

/-- R433: the step state a tally carries. What the interrupted pass wrote stays known until it is restored (R285, R435). -/
def Part.fromTally (q : Part) (t : Tally) : Part :=
  { q with step := Tally.w64 t 0, eseq := Tally.w64 t 8, ls := BitVec.ofNat 8 (Tally.at t 16 1), clean := Tally.w32 t 20,
           skip := Tally.w32 t 24, lastSkip := Tally.w64 t 28, lateBlot := Tally.w32 t 36, early := Tally.w32 t 40,
           gate := .opened, blot := false, blotS0 := false, voted := false, blotAtVote := false, lateSrc := 0, voteIn := none,
           sealed := false }

/-- R281, R284: PREV of the step line that a tally's close wrote: known of a close of this package; else read from the tally, which holds
no gate: 2 when the step before it was skipped, else 1 (DESIGN CHOICE, log 108). -/
def Fr.prevOf (f : Fr) (par : Nat) (q : Part) : Nat :=
  match f.prevs.get 0 par with
  | 0 => if q.skip != 0 && q.lastSkip + 1 == q.step then 2 else 1
  | n => n

/-- R284, R435: step state, step line, counters and operation sequence numbers of partition `p` come from the tally of the recovery point; a
package without one keeps its own. -/
def State.takeTally (s : State) (p : Nat) : State :=
  let t := s.dp.fr.ownTally.get [] (b2n (s.dp.fr.recpt.getLsbD 0))
  let dies := (s.getPartn p).dies
  if t.isEmpty then s
  else
    let d := s.dp.setPart p (fun q => q.fromTally t)
    let d := (unitsOfDies dies).foldl (fun (d : Dp) u => d.setUnit u (fun x => { x with sticky := Tally.sticky t u })) d
    let cle := ((List.range 4).filter (fun i => dies.getLsbD i)).foldl (fun (c : Tab Cle) i => c.upd {} i (fun x =>
      { x with oseq := (List.range 64).foldl (fun (o : Tab (BitVec 64)) n => o.put 0 n (Tally.w64 t (320 + 512 * i + 8 * n))) [] })) d.cle
    { s with dp := writeStepLine p (s.dp.fr.prevOf (b2n (s.dp.fr.recpt.getLsbD 0)) (d.getPart p)) { d with cle := cle } }

/-! ### Rollback (R435–R437) -/

/-- Change the launches that run, by partition. -/
def State.onLaunches (s : State) (f : Nat → Launch → Launch) : State :=
  [0, 1, 2, 3].foldl (fun (s : State) p => s.setPartn p (fun x => { x with launch := x.launch.map (f p) })) s

/-- R437: the body entries whose Blotter segments hold a UPD with WCEN 1 (R302). -/
def Image.regenEntries (g : Image) : List Nat :=
  ((List.range g.body).map (· + g.pro)).filter (fun e => g.streams.any (fun t => isDieUnit t.unit && (t.unit / 0x100) % 32 == 1 &&
    (List.range ((g.seg t e).2 / 64)).any (fun i =>
      let w := g.at (t.codeOff + (g.seg t e).1 + 64 * i) 64
      w % 256 == 0x13 && w.testBit 16)))

/-- The first body entry of a launch, and its regeneration entries. -/
def State.bodyEntry (s : State) (l : Launch) : Nat := match s.imageOf l with
  | some g => g.pro
  | none => 0
def State.regenOf (s : State) (l : Launch) : List Nat := match s.imageOf l with
  | some g => g.regenEntries
  | none => []

/-- R435, steps 2 to 4: at the boundary after RECOVER the job's launches are held; step state comes from the tally, the accumulation
areas are zeroed, and what the pass overwrote is asked back. -/
def State.beginHold (s : State) : State :=
  let need := fun (s : State) p => (s.getPartn p).launch.isSome && ((s.dp.getPart p).wrote || (s.dp.getPart p).ungated)
  let s := s.onLaunches (fun p l => { l with restore := need s p, entry := s.bodyEntry l, closed := false, regen := [] })
  let ps := [0, 1, 2, 3].filter (fun p => (s.getPartn p).launch.isSome)
  let back := ps.filter (need s)
  let dies := back.foldl (fun n p => n ||| (s.getPartn p).dies.toNat) 0
  let s := ps.foldl (fun (s : State) p =>
    (s.takeTally p).onMem (fun m => m.clear (fun a => m.accAddrOf (s.getPartn p).dies.toNat a))) s
  let d := s.dp
  let d := { d with fr := { d.fr with pendHold := false, hold := true, regen := false, replay := false },
                    upu := Tab.mapv {} d.upu (fun u => { u.endPass with ops := [] }),
                    cle := Tab.mapv {} d.cle Cle.startStroke }
  let s := { s with dp := d, torus := { s.torus with awaits := [], later := [] } }
  if back.isEmpty then s else s.beginRestore dies false

/-- R435: nothing the interrupted pass wrote stands any more in the partitions that run a launch. -/
def State.passUndone (s : State) : State :=
  { s with dp := [0, 1, 2, 3].foldl (fun (d : Dp) p =>
      if (s.getPartn p).launch.isSome then d.setPart p (fun q => { q with wrote := false, ungated := false }) else d) s.dp }

/-- R435, step 6: at the resume stroke the body begins, with s, ESEQ and step state of the tally. -/
def State.resumeBody (s : State) : State :=
  let s := [0, 1, 2, 3].foldl (fun (s : State) p => if (s.getPartn p).launch.isSome then s.takeTally p else s) s
  let s := s.onLaunches (fun _ l => { l with began := true, entry := s.bodyEntry l, regen := [], closed := false })
  ({ s with dp := { s.dp with fr := { s.dp.fr with hold := false, regen := false, pendHold := false } } }).passUndone

/-- R437: the regeneration entries in force: each launch stands at its next one, with s of the seal. -/
def State.regenNext (s : State) : State :=
  let s := s.onLaunches (fun _ l => { l with entry := l.regen.headD l.entry })
  { s with dp := { [0, 1, 2, 3].foldl (fun (d : Dp) p =>
      if (s.getPartn p).launch.isSome then d.setPart p (fun q => { q with step := q.sealStep }) else d) s.dp with
                   fr := { s.dp.fr with regen := true } } }

/-- R435, R437: one move of a rollback: the next regeneration entry, or the resume at its stroke, or a wait. -/
def State.recoverMove (s : State) : State :=
  if !s.dp.fr.hold || s.dp.fr.restoring then s
  else
    let s := if s.dp.fr.regen then s.onLaunches (fun _ l => { l with regen := l.regen.drop 1 }) else s
    if [0, 1, 2, 3].any (fun p => match (s.getPartn p).launch with
        | some l => !l.regen.isEmpty
        | none => false) then s.regenNext
    else if s.dp.fr.resume.toNat ≤ s.clk.stroke.toNat then s.resumeBody
    else { s with dp := { s.dp with fr := { s.dp.fr with regen := false } } }

/-- R435: the resume stroke has come and the package is not ready: its stroke runs late. -/
def State.lateResume (s : State) : Bool := s.dp.fr.hold && decide (s.dp.fr.resume.toNat ≤ s.clk.stroke.toNat)

/-- R53, R435: the package moves on within a stroke it is late in: units begin the entry it moves to, late with CAUSE RECOVERY. -/
def State.recoverNow (s : State) : State :=
  if s.lateResume && !s.dp.fr.restoring then
    let s := s.recoverMove.startUnits
    { s with dp := s.workers.foldl (fun (d : Dp) u => d.setUnit u (fun x => { x with cause := x.cause ||| 0x20#6 })) s.dp }
  else s

/-- R435, R437, R440: every line of a restore has come: step state from the tally, working copies to regenerate. -/
def State.restoreDone (s : State) : State :=
  let s := ({ s with dp := { s.dp with fr := { s.dp.fr with restoring := false, awaited := [] } } }).passUndone
  let s := [0, 1, 2, 3].foldl (fun (s : State) p => if (s.getPartn p).launch.isSome then s.takeTally p else s) s
  let s := s.onLaunches (fun _ l => if l.restore then { l with restore := false, regen := s.regenOf l } else l)
  s.recoverNow

end Sys2Proof.Machine
end

