-- ==== Sys2Proof/Machine/TimeOps.lean ====
section
/-! DEFINITION. Shared operations of the time base and of closing a stroke (02_strokes_and_time.md): the lock, done markers and their
merge, the root's choice of T, and go markers. -/

namespace Sys2Proof.Machine

/-! ### Markers (R52, R54) -/

def doneStroke (m : BitVec 128) : Nat := bits m 88 40
def doneReq (m : BitVec 128) : Nat := bits m 82 6
def doneCause (m : BitVec 128) : Nat := bits m 76 6
def donePkg (m : BitVec 128) : Nat := bits m 64 12
def doneUnit (m : BitVec 128) : Nat := bits m 48 16
def doneT (m : BitVec 128) : Nat := bits m 24 24
def mkDone (stroke req cause pkg unit t : Nat) : BitVec 128 :=
  BitVec.ofNat 128 ((stroke % 2 ^ 40) * 2 ^ 88 + (req % 64) * 2 ^ 82 + (cause % 64) * 2 ^ 76 + (pkg % 4096) * 2 ^ 64 +
    (unit % 2 ^ 16) * 2 ^ 48 + (satTo 24 t) * 2 ^ 24)

def goT (m : BitVec 128) : BitVec 64 := m.extractLsb' 64 64
def goStroke (m : BitVec 128) : Nat := bits m 24 40
def goK (m : BitVec 128) : Nat := bits m 18 6
def goPeriod (m : BitVec 128) : Nat := bits m 6 12
def mkGo (t stroke k p : Nat) : BitVec 128 :=
  BitVec.ofNat 128 ((t % 2 ^ 64) * 2 ^ 64 + (stroke % 2 ^ 40) * 2 ^ 24 + (k % 64) * 2 ^ 18 + (p % 4096) * 2 ^ 6)

/-- R53: the later of two entries: greatest DONE_T, then lowest PKG, then lowest UNIT. -/
def doneLater (a b : BitVec 128) : Bool :=
  decide (doneT a > doneT b) || (doneT a == doneT b && (decide (donePkg a < donePkg b) ||
    (donePkg a == donePkg b && decide (doneUnit a ≤ doneUnit b))))

/-- R53: merge two done markers of one stroke: the later entry, the greatest STRETCH_REQ. -/
def mergeDone (a b : BitVec 128) : BitVec 128 :=
  let w := if doneLater a b then a else b
  mkDone (doneStroke w) (max (doneReq a) (doneReq b)) (doneCause w) (donePkg w) (doneUnit w) (doneT w)

/-! ### Lock (R35–R38) -/

def Lock.code : Lock → Nat
  | .free => 0 | .acquire => 1 | .locked => 2 | .holdover => 3 | .fault => 4
def Role.code : Role → Nat
  | .member => 0 | .root => 1 | .backup => 2 | .masterRoot => 3
def Role.ofCode (n : Nat) : Role := match n with
  | 0 => .member | 1 => .root | 2 => .backup | _ => .masterRoot
/-- A role that closes strokes for its pod. -/
def Role.isRoot : Role → Bool
  | .root => true | .masterRoot => true | _ => false

/-- TB_STAT.LOCK changes, with its TIMESTATE record (R407). -/
def State.setLock (s : State) (l : Lock) : State :=
  if s.clk.lock = l then s
  else
    ({ s with clk := { s.clk with lock := l, holdAt := if l = Lock.holdover then s.clk.tb else s.clk.holdAt } }).note pmcUid 0x18
      [(24, s.clk.lock.code), (25, l.code)]

/-- A trim clamped to ±`lim` parts per 10⁹. -/
def clampTrim (lim : Int) (t : BitVec 32) : BitVec 32 := BitVec.ofInt 32 (max (-lim) (min lim t.toInt))

/-- R60, R35: the trim the loop sets: within ±200,000, and within ±50,000 while a script is launched. -/
def State.steer (s : State) (ofsPs : Int) : State :=
  let lim : Int := if s.launched then 50000 else 200000
  { s with clk := { s.clk with ofs := BitVec.ofInt 32 (max (-(2 ^ 31)) (min (2 ^ 31 - 1) ofsPs)),
                               trim := clampTrim lim (Config.trimLoop (BitVec.ofInt 32 ofsPs) s.clk.trim) } }

/-! ### Closing a stroke -/

/-- Every own unit is in: the stroke of the package is done (R52, R97). A voiding package holds back its marker unless a rollback absorbs
the void (R430), and a fenced or tripped one takes part in no further stroke (R379, R397). -/
def State.ownReady (s : State) : Bool :=
  !s.dp.fr.voidHolds && !s.dp.fr.fenced && !s.pw.tripped && (s.dp.fr.voided || s.workers.all (fun u => (s.dp.getUnit u).done))

/-- R53: enter a unit's done time into the package's own marker. -/
def State.enterDone (s : State) (unit cause : Nat) : State :=
  let t := (s.clk.tb.toNat - s.clk.sstart.toNat) / 16
  let m := mkDone s.clk.stroke.toNat 0 cause s.torus.pkg unit t
  { s with clk := { s.clk with own := if s.clk.own = 0 then m else mergeDone m s.clk.own, doneNs := s.clk.tb - s.clk.sstart } }

/-- The port a marker takes in direction `dir`: the port in use to the parent, else the lowest LIVE port, else the lowest in LOCK, which
carries control symbols (R325, R343). -/
def State.symbolPort (s : State) (dir : Nat) : Option Nat :=
  let up := s.clk.upPort.toNat
  if !s.clk.role.isRoot && s.clk.upDir.toNat = dir && (s.torus.carryOf dir).contains up then some up else (s.torus.carryOf dir).head?

/-- A marker goes out in direction `dir`. -/
def State.symbolTo (s : State) (dir : Nat) (sym : BitVec 512) : State :=
  match s.symbolPort dir with
  | none => s
  | some p => s.sendSymbol p sym

/-- R54: send a go marker to every child. -/
def State.sendGo (s : State) (m : BitVec 128) : State :=
  s.clk.kids.foldl (fun s dir => s.symbolTo dir (mkSymbol 3 [(16, m.toNat)])) s

/-- Nominal start of the next stroke (R50). -/
def Clk.nominal (c : Clk) : Nat := c.sstart.toNat + stretched c.period.toNat c.k.toNat

/-- R56: lateness of the next stroke, counted by every member and sampled (R413). -/
def State.countLate (s : State) (t : Nat) : State :=
  let late := t - s.clk.nominal
  let c := if late = 0 then s.clk
    else { s.clk with lateCnt := satAdd s.clk.lateCnt 1,
                      lateMax := BitVec.ofNat 32 (max s.clk.lateMax.toNat (satTo 32 late)) }
  ({ s with clk := c }).onDp (fun e => sample e 0 6 pmcUid late)

/-- R50: the root fixes T for stroke n + 1, sends go to every child, and records a late stroke (R56). DESIGN CHOICE (entry 85): before
its first stroke the root counts nominal from SSTART 0 and P, so the close that starts stroke 1 counts as late. -/
def State.rootClose (s : State) (m : BitVec 128) : State :=
  let n1 := s.clk.stroke.toNat + 1
  let t := max s.clk.nominal (s.clk.tb.toNat + s.clk.downNs.toNat)
  let k := min 48 (doneReq m)
  let p := match s.clk.req with
    | some r => if r.stroke.toNat ≤ n1 then r.period.toNat else s.clk.period.toNat
    | none => s.clk.period.toNat
  let g := mkGo t n1 k p
  let late := t - s.clk.nominal
  let s := { s with clk := { s.clk with sent := some m, lastSent := m, go := some g, goAt := s.clk.tb } }
  let s := (s.countLate t).sendGo g
  if late = 0 then s
  else s.note pmcUid 0x10 [(24, satTo 32 late), (28, donePkg m), (30, doneUnit m), (32, doneCause m)]

/-- R53, R57: a done marker whose STRETCH_REQ is at least `k`. -/
def raiseReq (m : BitVec 128) (k : Nat) : BitVec 128 :=
  mkDone (doneStroke m) (max (doneReq m) k) (doneCause m) (donePkg m) (doneUnit m) (doneT m)

/-- R441: a new root that has not started the stroke its children are in starts it at once, with k and P of the last go marker, and sends
go to the children still before it. -/
def State.catchUp (s : State) : State :=
  if !s.clk.role.isRoot || !s.clk.joined || s.clk.kidNext.isEmpty || s.clk.go.isSome then s
  else
    let t := s.clk.tb.toNat + s.clk.downNs.toNat
    let g := mkGo t (s.clk.stroke.toNat + 1) s.clk.k.toNat s.clk.period.toNat
    let s := (s.countLate t)
    let s := { s with clk := { s.clk with go := some g, goAt := s.clk.tb } }
    (s.clk.kids.filter (fun d => s.clk.kidNext.get 0 d = 0)).foldl (fun s dir => s.symbolTo dir (mkSymbol 3 [(16, g.toNat)])) s

/-- R48, R53: a package with no unit at work reports done at S+0, as the always-on logic. -/
def State.idleDone (s : State) : BitVec 128 := mkDone s.clk.stroke.toNat 0 0 s.torus.pkg pmcUid 0

/-- R48–R53: when every own unit and every child is in, the package sends its merged marker, or the root closes the stroke. A package
late at its resume stroke moves on instead (R435). -/
def State.tryClose (s : State) : State :=
  let s := if s.lateResume && s.dp.fr.regen && s.ownReady then s.recoverNow else s
  if s.clk.sent.isSome || (s.clk.role.isRoot && s.clk.go.isSome) || s.pw.cold || !s.ownReady || s.lateResume || !(s.clk.kids.all (fun d => s.clk.kidDone.get 0 d != 0)) || !s.torus.placed then s
  else
    let s := if s.clk.own = 0 then { s with clk := { s.clk with own := s.idleDone } } else s
    let s := s.choosePower
    let m := raiseReq (s.clk.kidDone.foldl (fun a x => mergeDone a x.2) s.clk.own) s.clk.reqK.toNat
    if s.clk.role.isRoot then s.rootClose m
    else ({ s with clk := { s.clk with sent := some m, lastSent := m } }).symbolTo s.clk.upDir.toNat (mkSymbol 2 [(16, m.toNat)])

/-- R55: a go marker a root never sends. -/
def goBad (c : Clk) (m : BitVec 128) : Bool :=
  decide (goK m > 48) || decide (goPeriod m < 25) || decide (goPeriod m > 4000) ||
    (c.joined && goStroke m != (c.stroke.toNat + 1) % 2 ^ 40)

/-- R55: a go marker for a stroke the package has already started. -/
def goOld (c : Clk) (m : BitVec 128) : Bool :=
  c.joined && decide ((c.stroke.toNat + 2 ^ 40 - goStroke m) % 2 ^ 40 < 2 ^ 39)

/-- R51, R54: take a good go marker: forward it, count lateness, schedule the start. -/
def State.acceptGo (s : State) (m : BitVec 128) : State :=
  let late := decide ((goT m).toNat < s.clk.tb.toNat)
  let s := if s.clk.joined then s.countLate (goT m).toNat else s
  let s := ({ s with clk := { s.clk with go := some m, goAt := s.clk.tb } }).sendGo m
  if late then s.note pmcUid 0x12 [(24, (goT m).toNat)] else s

end Sys2Proof.Machine
end

