-- ==== Sys2Proof/Machine/Training.lean ====
section
/-! DEFINITION. Step close (11_training_step.md R271–R280; R310, R432, R433): the gate, the loss scale, the ember sequence number, the
tally and the end of a launch by steps or STOP. -/

namespace Sys2Proof.Machine

/-- R277: the gate takes the value of a vote at the end of the vote stroke; SET never moves back. -/
def Part.latchGate (q : Part) : Part :=
  match q.voteIn with
  | none => q
  | some v => { q with gate := if v || q.gate = .set then .set else .clear, voteIn := none }

/-- R280: the loss-scale rule on the gate of the closing pass. -/
def Part.lossScale (q : Part) : Part :=
  match q.gate with
  | .set =>
    let atMin := decide (q.ls.toInt ≤ q.lsMin.toInt)
    { q with ls := if atMin then q.lsMin else q.ls - 1, clean := 0, skip := satAdd q.skip 1, lastSkip := q.step,
             floor := q.floor || atMin }
  | .clear =>
    if q.grow = 31 then { q with clean := satAdd q.clean 1 }
    else if q.clean.toNat + 1 ≥ 2 ^ q.grow.toNat then
      { q with clean := 0, ls := if q.ls.toInt < q.lsMax.toInt then q.ls + 1 else q.ls }
    else { q with clean := satAdd q.clean 1 }
  | .opened => q

/-- R281: PREV of the step line after a close. -/
def Gate.prev : Gate → Nat
  | .set => 2 | .clear => 1 | .opened => 3

/-- R276: a raise after the last vote's S+0 that no vote carried is counted and recorded, once per pass. -/
def countLateBlot (e : Env) (p : Nat) (d : Dp) : Dp :=
  let q := d.getPart p
  if q.voted && !q.blotAtVote && q.blot then
    record e q.lateUnit.toNat 0x23 false [(24, q.lateSrc)] (d.setPart p (fun x => { x with lateBlot := satAdd x.lateBlot 1 }))
  else d

/-! ### The tally (R432, R433) -/

/-- The 32-bit words of the unit counters a tally carries, as (byte offset, value). -/
def tallyCounters (t : Tab Unit) : List (Nat × Nat) :=
  t.flatMap (fun x =>
    let u := x.1
    let y := x.2.sticky
    let d := uidDie u
    let put := fun (o : Nat) (l : List (BitVec 32)) => l.zipIdx.map (fun z => (o + 4 * z.2, z.1.toNat))
    if isDieUnit u then
      (if (u / 0x100) % 32 = 0 then put (64 + 64 * d) [y.nanw, y.ovfw, y.ill, y.drop, y.badix]
       else put (64 + 64 * d + 20 + 12 * (u % 0x100)) [y.nanw, y.ovfw, y.ill])
    else if isClusterUnit u then
      let o := 2368 + 80 * uidCluster u
      match (u / 8) % 8 with
      | 0 => put o [y.nan, y.inf, y.ill]
      | 1 => put (o + 12) [y.nanw, y.ovfw, y.ill, y.oor, y.invop]
      | 2 => put (o + 32) [y.nanw, y.ovfw, y.ill]
      | 3 => put (o + 44 + 4 * (u % 8)) [y.ill]
      | _ => put (o + 76) [y.ill]
    else [])

/-- The 64-bit OSEQ words of a tally. -/
def tallyOseq (t : Tab Cle) : List (Nat × Nat) :=
  t.flatMap (fun x => x.2.oseq.map (fun y => (320 + 512 * x.1 + 8 * y.1, y.2.toNat)))

/-- Place fields into the lines of a tally. -/
def placeFields (t : Tally) (l : List (Nat × Nat)) : Tally :=
  l.foldl (fun t x => if x.2 = 0 then t else t.upd 0 (x.1 / 64) (fun v => v ||| BitVec.ofNat 512 (x.2 * 2 ^ (8 * (x.1 % 64))))) t

/-- R433: the tally at a step close of a partition. -/
def mkTally (q : Part) (d : Dp) : Tally :=
  placeFields [] ([(0, q.step.toNat), (8, q.eseq.toNat), (16, q.ls.toNat), (20, q.clean.toNat), (24, q.skip.toNat),
    (28, q.lastSkip.toNat), (36, q.lateBlot.toNat), (40, q.early.toNat)] ++ tallyCounters d.units ++ tallyOseq d.cle)

/-- R328, R432: send the tally's lines to the ember target as EMBER packets with TALLY set. -/
def State.sendTally (s : State) (t : Tally) (parity : Bool) : State :=
  let dir := s.torus.emberDir
  if dir ≥ 6 then s
  else
    (List.range 11).foldl (fun s i =>
      let n := min 64 (677 - 64 * i)
      let r := s.nextRtag
      let tag := BitVec.ofNat 64 (r.1.toNat + 2 ^ 36 + b2n parity * 2 ^ 37)
      let s := { r.2 with torus := { r.2.torus with awaits := ⟨r.1, pmcUid, 0⟩ :: r.2.torus.awaits } }
      s.originate 0 pmcUid 5 3 (s.torus.nbPkg dir) (s.torus.nbPod dir) (4096 * i) tag 0
        ((List.range n).map (fun k => t.get 0 (64 * i + k)))) s

/-! ### Step close (R272) -/

/-- R272, actions 1–3 on the partition's state: loss scale, step, ember sequence number, blot flag and gate. -/
def Part.close (q : Part) : Part :=
  let q := q.lossScale
  { q with step := q.step + 1, eseq := if q.sealed then q.eseq + 1 else q.eseq, blot := false, gate := .opened,
           voted := false, blotAtVote := false, lateSrc := 0, sealed := false, wrote := false, ungated := false }

/-- R272: the actions of a step close of partition `p`, in order, and its tally (R432). -/
def State.closeStep (s : State) (p : Nat) : State :=
  match (s.getPartn p).launch with
  | none => s
  | some l =>
    let d := s.dp.setPart p Part.latchGate
    let q := d.getPart p
    let send := q.sealed || (decide (q.gate = .set) && !q.ungated)
    let d := (countLateBlot s.env p d).setPart p Part.close
    let d := d.setPart p (fun x => { x with blotS0 := false })
    let d := { d with upu := d.upu.map (fun x => if (s.getPartn p).dies.getLsbD (x.1 / 3) then (x.1, x.2.endPass) else x) }
    let s := { s with dp := d }
    let q' := d.getPart p
    let par := (q'.eseq - 1).getLsbD 0
    let t := mkTally q' d
    let s := if send then
        let f := s.dp.fr
        let f := { f with ownTally := f.ownTally.put [] (b2n par) t, prevs := f.prevs.put 0 (b2n par) q.gate.prev }
        ({ s with dp := { s.dp with fr := f } }).sendTally t par
      else s
    let s := { s with dp := writeStepLine p q.gate.prev s.dp }
    let s := s.dp.fr.open_.foldl (fun s r => if r.cls = 3 || r.cls = 4 then s else s.onDp (fun e => completeRecov e r.cls)) s
    let s := s.setPartn p (fun x => { x with launch := some { l with closed := true } })
    if l.steps != 0 && q'.step = l.step0 + l.steps then s.endLaunch p stOk 0 false false
    else if l.stops.any (fun x => !x.mode1) then s.endLaunch p stStopped 0 true false
    else s

/-- R272: the launch of partition `p` stands at the end of its last body entry: all its units are in, the stroke is not voided, and no STOP
with MODE 1 ends the launch there, which would be no step close. -/
def State.atStepEnd (s : State) (p : Nat) : Bool :=
  match (s.getPartn p).launch, s.penv p with
  | some l, some e =>
    l.began && !l.closed && !(l.stops.any (fun x => x.mode1)) && !s.dp.fr.hold && !s.dp.fr.voided && decide (l.entry + 1 = e.img.entries) &&
      (s.workersOf e).all (fun u => (s.dp.getUnit u).done)
  | _, _ => false

/-- R272: step close, at the boundary that ends the last body entry. -/
def execStepClose (p : Fin 4) (s : State) : Host.Outcome State Fault Refusal :=
  .next (if s.atStepEnd p.val then s.closeStep p.val else s)

end Sys2Proof.Machine
end

