-- ==== Sys2Proof/Machine/Blotter.lean ====
section
/-! DEFINITION. Meanings of the update units' instructions and events (12_update_unit.md R294–R313), and of a tally's packets (R432). -/

namespace Sys2Proof.Machine

/-- R296: an invalid PROG leaves its slot empty. -/
def clearSlot (j slot : Nat) (d : Dp) : Dp := d.setUpu j (fun u => { u with slots := u.slots.put {} slot {} })

/-- R296: PROG is valid given its slot. -/
def progValid (w : BitVec 512) (u : Upu) : Bool :=
  let x := u.slots.get {} (bits w 8 2)
  let len := bits w 16 5
  !(anyBits w 11 5) && !(anyBits w 21 43) &&
    (if bit w 10 then len == 0 && decide (x.len > 14) && progOpsOk (progOps w) (x.len - 14)
     else decide (1 ≤ len) && decide (len ≤ 28) && progOpsOk (progOps w) len)

/-- R296: PROG loads half a slot. -/
def runProg (j : Nat) (w : BitVec 512) (_ : Env) (d : Dp) : Dp :=
  d.setUpu j (fun u => { u with slots := u.slots.upd {} (bits w 8 2) (fun x =>
    if bit w 10 then { x with half1 := true, ops := x.ops.take 14 ++ progOps w }
    else { len := bits w 16 5, half1 := false, ops := progOps w }) })

def execProg (j : Fin 12) (w : BitVec 512) (s : State) : Host.Outcome State Fault Refusal :=
  let u := upuUid j.val
  let ok := progValid w (s.dp.getUpu j.val)
  let t := s.runDp u 0x10 w.toNat ok (runProg j.val w)
  .next (if s.dp.runs s.env u 0x10 w.toNat && !(s.dp.atFragment s.env u) && !ok then { t with dp := clearSlot j.val (bits w 8 2) t.dp } else t)

/-- R299: CLD is valid. -/
def cldValid (w : BitVec 512) : Bool :=
  decide (bits w 8 4 + bits w 12 4 ≤ 15) && !(anyBits w 17 47) && bits w 64 6 == 0 && !(anyBits w 100 28) && !(anyBits w 224 288) &&
    (bit w 16 == (bits w 192 32 != 0))

/-- R299: the line CLD reads, for step counter `s`. -/
def cldOff (w : BitVec 512) (s : BitVec 64) : Nat :=
  if bit w 16 then bits w 64 36 + 64 * min (s - w.extractLsb' 128 64).toInt.toNat (bits w 192 32 - 1) else bits w 64 36

/-- R299: CLD loads words of one line into constants. -/
def runCld (j : Nat) (w : BitVec 512) (e : Env) (d : Dp) : Dp :=
  match upRead e j (cldOff w (d.getPart (e.partOf j)).step) d with
  | (none, d) => d
  | (some v, d) =>
    d.setUpu j (fun u => { u with k := (List.range (bits w 12 4 + 1)).foldl (fun k i => k.put 0 (bits w 8 4 + i) (lineWord v i)) u.k })

/-- R303: the line CLD reads. -/
def State.cldFoot (s : State) (j : Nat) (w : BitVec 512) : List (Nat × Nat) × List (Nat × Nat) :=
  let o := cldOff w (s.dp.getPart (s.env.partOf j)).step
  ([(o, o + 64)], [])

def execCld (j : Fin 12) (w : BitVec 512) (s : State) : Host.Outcome State Fault Refusal :=
  .next (s.runData j.val 0x11 w (cldValid w) (s.cldFoot j.val w) (fun s => s.onDp (runCld j.val w)))

/-- R294, R300: ARGS is valid. -/
def argsValid (w : BitVec 512) : Bool :=
  !(anyBits w 8 56) && !(anyBits w 126 2) && !(anyBits w 160 32) && bits w 192 6 == 0 && !(anyBits w 240 16) && bits w 256 6 == 0 &&
    !(anyBits w 292 220)

/-- R300: ARGS sets E0, TID, XDELTA and EM_BASE. -/
def runArgs (j : Nat) (w : BitVec 512) (_ : Env) (d : Dp) : Dp :=
  d.setUpu j (fun u => { u with e0 := w.extractLsb' 64 62, tid := w.extractLsb' 128 32, xdelta := w.extractLsb' 192 48,
                                emBase := w.extractLsb' 256 36 })

def execArgs (j : Fin 12) (w : BitVec 512) (s : State) : Host.Outcome State Fault Refusal :=
  .next (s.runDp (upuUid j.val) 0x12 w.toNat (argsValid w) (runArgs j.val w))

/-! ### UPD -/

/-- R278, R306, R437: UPD under the gate that holds at its issue: under SET it takes its gradient lines and releases its blocks, and never
parks. -/
def State.runUpd (s : State) (j : Nat) (w : BitVec 512) : State :=
  let x := upOp w
  let p := s.env.partOf j
  let r := (s.dp.getUpu j).issue w
  if s.dp.fr.regen then s.runOp j r
  else if gateSet s.env j s.dp then
    s.onDp (fun e d =>
      let d := if x.gsrc = 0 then takeAll e j x.gaddr x.elems d else d
      if d.fr.voided then d else releaseBlocks j x d)
  else
    (s.onDp (fun _ d => taint (d.setPart p (fun q =>
      { q with early := if q.gate = .opened then satAdd q.early 1 else q.early, ungated := true })))).runOp j r

def execUpd (j : Fin 12) (w : BitVec 512) (s : State) : Host.Outcome State Fault Refusal :=
  .next (s.runData j.val 0x13 w (updValid w (s.dp.getUpu j.val) s.dp.mem) ((upOp w).foot 0x13) (fun s => s.runUpd j.val w))

/-- R308: an operation of a Blotter is parked at block `blk`, which is resident, and no other block holds back its next chunk. -/
def UpRun.resumes (r : UpRun) (m : Mem) (j blk : Nat) : Bool :=
  r.since.isSome && ((upOp r.w).need r.next).contains blk && m.resident j blk && (m.short j (upOp r.w) r.next).isNone

/-- R308: a parked operation goes on. -/
def State.unpark (s : State) (j blk : Nat) (r : UpRun) : State :=
  let u := upuUid j
  let ns := s.clk.tb.toNat - (r.since.getD 0).toNat
  let s := s.onDp (fun e d =>
    let d := trace e u { kind := 11, a0 := blk, a1 := ns } (d.perf u 0x1C ns)
    sample e 3 10 u ns (d.setUpu j (fun x => { x with ops := x.ops.filter (fun y => y != r) })))
  s.runOp j r

/-- R307, R308: a staging block becomes resident; the operations parked at it go on. -/
def execStagingBlockResident (j : Fin 12) (blk : Nat) (s : State) : Host.Outcome State Fault Refusal :=
  .next (if s.dp.fr.voided then s
    else ((s.dp.getUpu j.val).ops.filter (fun r => r.resumes s.dp.mem j.val blk)).foldl (fun s r => s.unpark j.val blk r) s |>.settleStop)

/-! ### STAT and TAKE -/

/-- R304: sums of register 6: finished row sums (newest first), the row in progress, column sums. -/
structure StatAcc where
  d : Dp
  rows : List Word := []
  cur : Option Word := none
  cols : Tab (Option Word) := []
  ok : Bool := true

/-- R304: a sum starts at its first term; each further term is added with one rounding. -/
def sumTo (a : Option Word) (v : Word) : Word :=
  match a with
  | none => v
  | some x => add32 x v

/-- R304: one chunk of STAT. -/
def statChunk (e : Env) (j : Nat) (w : BitVec 512) (q : Nat) (a : StatAcc) : StatAcc :=
  let x := upOp w
  match upChunk e j w false false q a.d with
  | (none, d) => { a with d := d, ok := false }
  | (some regs, d) =>
    let c0 := 64 * q % x.cols
    let v := regs.map (fun r => r.getD 6 0)
    let row := v.foldl (fun r y => some (sumTo r y)) a.cur
    let last := c0 + 64 = x.cols
    { d := d, ok := a.ok, cur := if last then none else row, rows := if last then row.getD 0 :: a.rows else a.rows,
      cols := v.zipIdx.foldl (fun t y => t.upd none (c0 + y.2) (fun o => some (sumTo o y.1))) a.cols }

/-- Write whole lines from offset `off` on. -/
def upStore (e : Env) (j off : Nat) (l : List (BitVec 512)) (d : Dp) : Dp :=
  l.zipIdx.foldl (fun d x => (upWrite e j (off + 64 * x.2) x.1 d).2) d

/-- R304: STAT writes the row sums and the column sums of register 6. -/
def runStat (j : Nat) (w : BitVec 512) (e : Env) (d : Dp) : Dp :=
  let x := upOp w
  if d.fr.regen then d
  else
    let a := (List.range x.chunks).foldl (fun (a : StatAcc) q => if a.ok then statChunk e j w q a else a) { d := d }
    if !a.ok then a.d
    else
      let d := if x.rven then upStore e j x.raddr (linesOf a.rows.reverse) a.d else a.d
      if x.cven then upStore e j x.caddr (linesOf ((List.range x.cols).map (fun i => (a.cols.get none i).getD 0))) d else d

def execStat (j : Fin 12) (w : BitVec 512) (s : State) : Host.Outcome State Fault Refusal :=
  .next (s.runData j.val 0x14 w (statValid w (s.dp.getUpu j.val)) ((upOp w).foot 0x14) (fun s => s.onDp (runStat j.val w)))

/-- R278, R301: TAKE takes its gradient lines. -/
def runTake (j : Nat) (w : BitVec 512) (e : Env) (d : Dp) : Dp :=
  if d.fr.regen then d else takeAll e j (upOp w).gaddr (upOp w).elems d

def execTake (j : Fin 12) (w : BitVec 512) (s : State) : Host.Outcome State Fault Refusal :=
  .next (s.runData j.val 0x15 w (takeValid w) ((upOp w).foot 0x15) (fun s => s.onDp (runTake j.val w)))

/-! ### OPEN and SEAL -/

/-- R306, R437: OPEN and SEAL have no effect under gate SET and during regeneration. -/
def emberGated (e : Env) (j : Nat) (d : Dp) : Bool := gateSet e j d || d.fr.regen

/-- R312: an instruction with no field but OPC. -/
def bareWord (w : BitVec 512) : Bool := !(anyBits w 8 504)

/-- R312, R437: OPEN is valid: the first of its pass, which one under gate SET is too; regeneration is no part of a pass. -/
def openValid (j : Nat) (w : BitVec 512) (d : Dp) : Bool := bareWord w && (d.fr.regen || !(d.getUpu j).openIssued)

/-- R306, R312: OPEN sends a seal line of zeros; the unit goes on once it is acknowledged. Under gate SET it only counts as issued. -/
def State.runOpen (s : State) (j : Nat) : State :=
  let u := upuUid j
  if emberGated s.env j s.dp then
    { s with dp := if s.dp.fr.regen then s.dp else s.dp.setUpu j (fun x => { x with openIssued := true }) }
  else
    let s := s.onDp (fun _ d => taint (d.setUpu j (fun x => { x with openIssued := true, opened := true })))
    let z := s.dp.mem.slotBytes
    let dir := s.torus.emberDir
    if dir ≥ 6 || z = 0 then s
    else
      let s := s.sendAwaited (j / 3) u 5 3 (s.torus.nbPkg dir) (s.torus.nbPod dir) (z - 64) (j * 2 ^ 32) 0 [0]
      (s.onDp (fun _ d => d.setUnit u (fun x => { x with held := true }))).whenAcked u .release

def execOpen_ (j : Fin 12) (w : BitVec 512) (s : State) : Host.Outcome State Fault Refusal :=
  .next (s.runUnit (upuUid j.val) 0x16 w.toNat (openValid j.val w s.dp) (fun s => s.runOpen j.val))

/-- R312: SEAL is valid: the first of its pass, after an OPEN. -/
def sealValid (j : Nat) (w : BitVec 512) (d : Dp) : Bool :=
  bareWord w && (d.fr.regen || ((d.getUpu j).openIssued && !(d.getUpu j).sealIssued))

/-- R306, R310–R312: SEAL closes the slot; its line goes out once every ember line of the pass is acknowledged. Under gate SET it only counts
as issued. -/
def State.runSeal (s : State) (j : Nat) : State :=
  let u := upuUid j
  if emberGated s.env j s.dp then
    { s with dp := if s.dp.fr.regen then s.dp else s.dp.setUpu j (fun x => { x with sealIssued := true }) }
  else
    let p := s.env.partOf j
    let q := s.dp.getPart p
    let line := sealLine s.torus.pkg s.torus.pod j (s.dp.getUpu j).emberLines q
    let s := s.onDp (fun _ d => taint ((d.setUpu j (fun x => { x with sealIssued := true, opened := false })).setPart p (fun q =>
      { q with sealed := true, sealStep := q.step })))
    let z := s.dp.mem.slotBytes
    if s.torus.emberDir ≥ 6 || z = 0 then s else s.whenAcked u (.seal j (z - 64) line)

def execSeal (j : Fin 12) (w : BitVec 512) (s : State) : Host.Outcome State Fault Refusal :=
  .next (s.runUnit (upuUid j.val) 0x17 w.toNat (sealValid j.val w s.dp) (fun s => s.runSeal j.val))

/-! ### Receiving ember lines and tallies -/

/-- R311: the packet comes from the SRCDIR neighbour, or from the package a remap has put in its place (R338, R440). -/
def Torus.fromSource (t : Torus) (k : Packet) : Bool :=
  let i := t.srcDir
  decide (i < 6) && t.nbValid i && ((k.spod == t.nbPod i && k.spkg == t.nbPkg i) ||
    t.remapOf (t.nbPod i) (t.nbPkg i) == some (k.spod, k.spkg))

/-- R310: the slot of the present pass on stack `j` of this package. -/
def State.slotOf (s : State) (j : Nat) : Nat :=
  match [0, 1, 2, 3].find? (fun p => (s.getPartn p).dies.getLsbD (j / 3)) with
  | some p => (s.dp.getPart p).eseq.toNat % 2
  | none => 0

/-- R90, R310: view offset of offset `o` of slot `k` of the ember region. -/
def Mem.slotAt (m : Mem) (k o : Nat) : Nat := bits m.areaEmber 16 16 * 2 ^ 26 + k * m.slotBytes + o

/-- R311: one ember line at slot offset `o` of stack `j` is written, or dropped and counted as unmapped. -/
def emberLine (e : Env) (ok : Bool) (slot j o : Nat) (v : BitVec 512) (d : Dp) : Dp :=
  let off := d.mem.slotAt slot o
  if ok && decide (j < 12) && o % 64 == 0 && decide (o < d.mem.slotBytes) then
    taint ((storeLoc (localAddr j off) (.local_ j off) v d).perf (upuUid j) 0x30 1)
  else unmapped e (upuUid j) 1 (localAddr j off) d

/-- R311, R328: a received EMBER packet: written into the ember region without window checks, or dropped; then the ACK. -/
def execEmberReceive (k : Packet) (s : State) : Host.Outcome State Fault Refusal :=
  .next (if k.typ = 5 && !(k.tag.getLsbD 36) && s.torus.inbox.contains k then
      let s := s.takeInbox k
      let j := bits k.tag 32 4
      let ok := s.torus.fromSource k
      let slot := s.slotOf j
      (s.onDp (fun e d => k.lines.zipIdx.foldl (fun d x => emberLine e ok slot j (k.addr + 64 * x.2) x.1 d) d)).sendAck (j % 12 / 3) k
    else s)

/-- R432: lines of a tally arrive; the tally replaces the one of its parity once its last line has. -/
def Fr.tallyLines (f : Fr) (par line : Nat) (l : List (BitVec 512)) : Fr :=
  let t := l.zipIdx.foldl (fun (t : Tally) x => if line + x.2 < 677 then t.put 0 (line + x.2) x.1 else t) (f.inTally.get [] par)
  let got := l.zipIdx.foldl (fun g x => if line + x.2 < 677 then NSet.add g (line + x.2) else g) (f.inGot.get [] par)
  if got.length = 677 then
    { f with heldTally := f.heldTally.put [] par t, inTally := f.inTally.put [] par [], inGot := f.inGot.put [] par [] }
  else { f with inTally := f.inTally.put [] par t, inGot := f.inGot.put [] par got }

/-- R311, R328, R432: a received tally packet, accepted from the SRCDIR neighbour only; then the ACK. -/
def execTallyReceive (k : Packet) (s : State) : Host.Outcome State Fault Refusal :=
  .next (if k.typ = 5 && k.tag.getLsbD 36 && s.torus.inbox.contains k then
      let s := s.takeInbox k
      let s := if s.torus.fromSource k then
          { s with dp := { s.dp with fr := s.dp.fr.tallyLines (b2n (k.tag.getLsbD 37)) (k.addr / 64) k.lines } }
        else s
      s.sendAck 0 k
    else s)

end Sys2Proof.Machine
end

