-- ==== Sys2Proof/Machine/Ecdsa.lean ====
section
/-! DEFINITION. ECDSA over P-384 as a check of signatures (19_lifecycle_security_selftest.md R449, R453). The curve's constants and the
verification procedure are those of FIPS 186, which the spec names and does not print. -/

namespace Sys2Proof.Machine

/-- The field prime, the group order, the curve's constant and its base point. -/
def ecP : Nat := 2 ^ 384 - 2 ^ 128 - 2 ^ 96 + 2 ^ 32 - 1
def ecN : Nat := 0xffffffffffffffffffffffffffffffffffffffffffffffffc7634d81f4372ddf581a0db248b0a77aecec196accc52973
def ecB : Nat := 0xb3312fa7e23ee7e4988e056be3f82d19181d9c6efe8141120314088f5013875ac656398d8a2ed19d2a85c8edd3ec2aef
def ecG : Nat × Nat :=
  (0xaa87ca22be8b05378eb1c71ef320ad746e1d3b628ba79b9859f741e082542a385502f25dbf55296c3a545e3872760ab7,
   0x3617de4a96262c6f5d9e98bf9292dc29f8f41dbd289a147ce9da3113b5f0b8c00a60b1ce1d7e819d7a431d7c90ea0e5f)

/-- `b` to the power `e` mod `m`, for exponents of at most as many bits as the first argument. -/
def powMod (m b : Nat) : Nat → Nat → Nat
  | 0, _ => 1 % m
  | k + 1, e =>
    let h := powMod m b k (e / 2)
    let s := h * h % m
    if e % 2 = 1 then s * b % m else s

/-- The inverse mod a prime. -/
def invMod (m a : Nat) : Nat := powMod m a 384 (m - 2)

/-- Addition of points; none is the point at infinity. -/
def ecAdd : Option (Nat × Nat) → Option (Nat × Nat) → Option (Nat × Nat)
  | none, q => q
  | p, none => p
  | some (x1, y1), some (x2, y2) =>
    if x1 = x2 && (y1 + y2) % ecP = 0 then none
    else
      let l := if x1 = x2 then (3 * x1 * x1 + (ecP - 3)) * invMod ecP (2 * y1) % ecP
        else (y2 + ecP - y1) * invMod ecP (x2 + ecP - x1) % ecP
      let x3 := (l * l + 2 * ecP - x1 - x2) % ecP
      some (x3, (l * (x1 + ecP - x3) + ecP - y1) % ecP)

/-- `k` times a point, for `k` of at most as many bits as the first argument. -/
def ecMul (p : Option (Nat × Nat)) : Nat → Nat → Option (Nat × Nat)
  | 0, _ => none
  | n + 1, k =>
    let h := ecMul p n (k / 2)
    let d := ecAdd h h
    if k % 2 = 1 then ecAdd d p else d

/-- A point of the curve with reduced coordinates. -/
def ecOn (x y : Nat) : Bool :=
  decide (x < ecP) && decide (y < ecP) && (y * y) % ecP == (x * x * x + (ecP - 3) * x + ecB) % ecP

/-- The signature (r, s) on a 384-bit digest verifies under the public key (x, y). -/
def ecdsaOk (x y digest r s : Nat) : Bool :=
  if !(ecOn x y) || r = 0 || r ≥ ecN || s = 0 || s ≥ ecN then false
  else
    let w := invMod ecN s
    match ecAdd (ecMul (some ecG) 384 (digest * w % ecN)) (ecMul (some (x, y)) 384 (r * w % ecN)) with
    | none => false
    | some (x1, _) => x1 % ecN == r

/-- `n` bytes from byte `off` of a little-endian number, read big-endian. -/
def beAt (v off n : Nat) : Nat := (List.range n).foldl (fun a i => a * 256 + (v >>> (8 * (off + i))) % 256) 0

/-- SHA-384 read big-endian, as ECDSA takes it. -/
def shaBe (len data : Nat) : Nat := beAt (sha384 len data) 0 48

end Sys2Proof.Machine
end

