-- ==== Sys2Proof/Machine/Mgmt.lean ====
section
/-! DEFINITION. Thouri management messages (20_board_and_bringup.md R479–R482): requests, their common refusals, responses. -/

namespace Sys2Proof.Machine

/-- R482: statuses. -/
def msOk : Nat := 0
def msBusy : Nat := 1
def msBadField : Nat := 2
def msRefused : Nat := 3
def msUnsupported : Nat := 4

/-- The little-endian number in bytes `off` to `off + n − 1` of a payload. -/
def plAt (pl : List Byte) (off n : Nat) : Nat := leNat ((pl.drop off).take n)

/-- R480: a message. -/
def mkMsg (cmd flags st : Nat) (tag : BitVec 16) (pay : List Byte) : List Byte :=
  [0x7F#8, 0x00#8, 0x01#8, 0xF3#8, 0xA2#8, BitVec.ofNat 8 cmd, BitVec.ofNat 8 flags, BitVec.ofNat 8 st] ++ natBytes 2 tag.toNat ++
    natBytes 2 pay.length ++ pay

/-- The PMC answers a request, or sends a message unasked. -/
def State.respond (s : State) (cmd st : Nat) (tag : BitVec 16) (pay : List Byte) : State :=
  { s with out := { s.out with mgmt := mkMsg cmd 1 st tag pay :: s.out.mgmt } }
def State.sendAsync (s : State) (cmd : Nat) (pay : List Byte) : State :=
  { s with out := { s.out with mgmt := mkMsg cmd 2 0 0 pay :: s.out.mgmt } }

/-- R474, R479, R481, R482: a request reaches its command: no answer from a dark package, UNSUPPORTED before firmware boots, BUSY before READY, BAD_FIELD when the
payload is too short; else `f`. -/
def State.request (s : State) (cmd need : Nat) (tag : BitVec 16) (pl : List Byte) (f : State → State) : State :=
  if s.bu.dark then s
  else if !s.bu.booted then s.respond cmd msUnsupported tag []
  else if !s.bu.ready then s.respond cmd msBusy tag []
  else if pl.length < need then s.respond cmd msBadField tag []
  else f s

end Sys2Proof.Machine
end

