-- ==== Sys2Proof/Machine/SecOps.lean ====
section
/-! DEFINITION. Shared operations of the security block (19_lifecycle_security_selftest.md): key slots (R446), firmware images and boot
(R450–R453, R455), lifecycle transitions (R447, R448) and tokens (R449). -/

namespace Sys2Proof.Machine

/-- R446, R453: key slot `k` holds a hash, is not revoked and is honoured in the state in force. -/
def Sec.keyOk (c : Sec) (k : Nat) : Bool :=
  decide (k ≤ 3) && c.keyPres.getLsbD k && !(c.keyRev.getLsbD k) && (decide (k ≤ 2) || c.lc == 0)

/-- R452: 48 bytes, big-endian, of each coordinate as they stand in memory. -/
def keyBytes (x y : Nat) : Nat :=
  (List.range 48).foldl (fun a i => a + ((x >>> (8 * (47 - i))) % 256) * 2 ^ (8 * i) + ((y >>> (8 * (47 - i))) % 256) * 2 ^ (8 * (48 + i))) 0

/-- The fused hash of a key slot (R453): SHA-384 of its public key. -/
def slotHash (k : Nat) : Nat := sha384 96 (keyBytes (Config.slotKey k).1.toNat (Config.slotKey k).2.toNat)

/-- R451: header fields of a firmware image. -/
def Image.fwKey (g : Image) : Nat := g.at 6 1
def Image.fwAcv (g : Image) : Nat := g.at 7 1
def Image.fwSvn (g : Image) : Nat := g.at 8 4
def Image.fwVersion (g : Image) : Nat := g.at 12 4
def Image.fwLen (g : Image) : Nat := g.at 16 8

/-- R452: the trailer's layout. -/
def Image.trailerOk (g : Image) : Bool :=
  let t := g.fwLen - 256
  g.at t 4 == 0x5A465454 && g.at (t + 4) 2 == 1 && g.at (t + 6) 1 == g.fwKey && g.at (t + 7) 1 == 0 && g.at (t + 104) 152 == 0

/-- The image's bytes 0 to LENGTH − 1 with the signature set to 0 (R453). -/
def Image.signed (g : Image) : Nat :=
  let v := g.data % 2 ^ (8 * g.fwLen)
  v % 2 ^ 576 + (v >>> 1344) * 2 ^ 1344

/-- R453: an image passes every check, in order. -/
def Sec.fwPasses (c : Sec) (g : Image) : Bool :=
  let t := g.fwLen - 256
  g.at 0 4 == 0x5A465731 && g.at 4 2 == 1 && decide (512 ≤ g.fwLen) && g.fwLen % 64 == 0 && decide (g.fwLen ≤ g.len) &&
    c.keyOk g.fwKey && g.trailerOk && sha384 96 (g.at (t + 8) 96) == slotHash g.fwKey &&
    ecdsaOk (beAt g.data (t + 8) 48) (beAt g.data (t + 56) 48) (shaBe g.fwLen g.signed) (beAt g.data 72 48) (beAt g.data 120 48) &&
    decide (c.svn.toNat ≤ g.fwSvn)

/-- What a bank boots: ACV, SVN, VERSION; none where its check fails. The shipped image carries ACV 3 and SVN 0 under key slot 0. -/
def Sec.bootable (c : Sec) : Bank → Option (Nat × Nat × BitVec 32)
  | .empty => none
  | .shipped => if c.keyOk 0 && c.svn = 0 then some (3, 0, Config.shippedVersion) else none
  | .image g => if c.fwPasses g then some (g.fwAcv, g.fwSvn, BitVec.ofNat 32 g.fwVersion) else none

def Sec.bank (c : Sec) (b : Bool) : Bank := if b then c.bankB else c.bankA

/-- R447, R448: a pending transition takes effect at a reset: fuses are blown, the identity key made or erased, INSPECT held. -/
def Sec.applyPending (c : Sec) : Sec :=
  let c := if c.pend = 1 then (if c.fuse = 0 then { c with fuse := 1, idKey := true } else { c with inspect := false })
    else if c.pend = 2 then { c with inspect := true, ideKeys := [], ideOn := false }
    else if c.pend = 3 then { c with fuse := 3, inspect := false, idKey := false }
    else c
  { c with pend := 7, lc := if c.inspect && c.fuse == 1 then 2 else c.fuse }

/-- R454: the image in the inactive bank, when it passes its check: LC_FW_STG. -/
def Sec.staged (c : Sec) : BitVec 32 := match c.bootable (c.bank (!c.active)) with
  | some x => x.2.2
  | none => 0

/-- R446, R450, R454: the boot ROM checks the active bank, then the other: the image that runs, or none; a corrupt lifecycle fuse word
stops the boot. -/
def Sec.boot (c : Sec) : Sec × Bool :=
  let act := if c.armed then !c.active else c.active
  let c := { c with active := act, armed := false, xfer := none, nonce := none, version := none, sessions := [], large := [] }
  let stg := c.staged
  let run := fun (b : Bool) (fb : Bool) (x : Nat × Nat × BitVec 32) =>
    { c with booted := b, fallback := fb, ran := c.bank b, acv := BitVec.ofNat 8 x.1, fwSvn := BitVec.ofNat 16 x.2.1, fwAct := x.2.2, fwStg := stg }
  let rom := { c with ran := .empty, fwAct := 0, fwSvn := 0, fwStg := 0 }
  if c.lc.toNat ≥ 4 then (rom, false)
  else
    match c.bootable (c.bank act) with
    | some x => (run act false x, true)
    | none =>
      match c.bootable (c.bank (!act)) with
      | some x => (run (!act) true x, true)
      | none => (rom, false)

/-- R450, R485: the firmware check ends: the firmware runs and waits for PWR_EN, or the PMC stays in ROM_HOLD. The event recorder
runs once firmware has booted. -/
def State.bootFirmware (s : State) : State :=
  let r := s.sec.boot
  { s with sec := r.1, bu := { s.bu with booted := r.2, stage := if r.2 then .waitEn else .romHold },
           dp := { s.dp with log := { s.dp.log with ready := s.dp.log.ready || r.2 } } }

/-! ### Requests for transitions (R447–R449) -/

/-- R449: a token is good: magic, serial, the nonce issued within 60 s, a key honoured now, and its signature. `target` is its TARGET. -/
def State.tokenOk (s : State) (pl : List Byte) (target : Nat) : Bool :=
  let v := leNat (pl.take 160)
  let k := plAt pl 5 1
  pl.length ≥ 160 && plAt pl 0 4 == 0x4C43544B && plAt pl 4 1 == target && plAt pl 6 2 == 0 && s.sec.keyOk k &&
    plAt pl 8 8 == Config.serial.toNat &&
    (match s.sec.nonce with
     | some (n, t) => plAt pl 16 48 == n.toNat && decide (s.clk.tb.toNat ≤ t.toNat + 60000000000)
     | none => false) &&
    ecdsaOk (Config.slotKey k).1.toNat (Config.slotKey k).2.toNat (shaBe 64 (v % 2 ^ 512)) (beAt v 64 48) (beAt v 112 48)

/-- R448, R479, R481, R482: a LIFECYCLE request: answered from ROM on, BUSY while a script is launched or a transition pends, BAD_FIELD
when it is short, REFUSED when its check fails; else `f` gives its effect. A nonce is good for one request. -/
def State.lifecycle (s : State) (tag : BitVec 16) (long ok : Bool) (f : Sec → Sec) : State :=
  if s.bu.dark then s
  else if s.launched || s.sec.pend != 7 then s.respond 0x0F msBusy tag []
  else if !long then s.respond 0x0F msBadField tag []
  else
    let c := { s.sec with nonce := none }
    if ok then ({ s with sec := f c }).respond 0x0F msOk tag [] else ({ s with sec := c }).respond 0x0F msRefused tag []

end Sys2Proof.Machine
end

