-- ==== Sys2Proof/Machine/ResetOps.lean ====
section
/-! DEFINITION. Shared operations of resets and of losing power (15_die_to_die.md R377–R380; 20_board_and_bringup.md R474, R485, R486): what
a reset keeps, the boot that follows, and darkness. -/

namespace Sys2Proof.Machine

/-- Write every waiting completion that has ring space. -/
def State.flushQueue (s : State) (q : Nat) : State := (List.range (s.getQ q).comps.length).foldl (fun s _ => s.writeCompletion q) s
def State.flush (s : State) : State := (List.range 81).foldl State.flushQueue s

/-- R460: VALUE of a SELFTEST that completes OK. -/
def testValue (result passes nlog first : Nat) : BitVec 64 :=
  BitVec.ofNat 64 (result + (passes % 256) * 2 ^ 16 + (nlog % 2 ^ 16) * 2 ^ 32 + (first % 2 ^ 16) * 2 ^ 48)

/-- R27: a die-level block's class and index. -/
def uidClass (u : Nat) : Nat := (u / 0x100) % 32
def isRouter (u : Nat) : Bool := decide (u < 0x10000) && (u / 0x2000) % 2 == 1 && uidClass u == 5 && decide (u % 256 ≤ 15)
def isHbmc (u : Nat) : Bool := decide (u < 0x10000) && (u / 0x2000) % 2 == 1 && uidClass u == 2 && decide (u % 256 ≤ 2)
def isPortUnit (u : Nat) : Bool := decide (u < 0x10000) && (u / 0x2000) % 2 == 1 && uidClass u == 3 && decide (u % 256 ≤ 5)
/-- The region of a router, the stack of a memory controller. -/
def regionOf (u : Nat) : Nat := 16 * uidDie u + u % 256
def stackOf (u : Nat) : Nat := 3 * uidDie u + u % 256

/-- R463: the blocks powered for a test are isolated. -/
def St.isoRegions (t : St) : BitVec 64 :=
  t.tests.foldl (fun b x => if x.powered && isRouter x.unit then b ||| (1#64 <<< regionOf x.unit) else b) 0
def St.isoStacks (t : St) : BitVec 12 :=
  t.tests.foldl (fun b x => if x.powered && isHbmc x.unit then b ||| (1#12 <<< stackOf x.unit) else b) 0
def State.setTests (s : State) (t : St) : State :=
  { s with st := t, dp := { s.dp with mem := { s.dp.mem with isoRegions := t.isoRegions, isoStacks := t.isoStacks } } }

/-- R464: the units of region `r` return to their reset values; sticky counters are restored, enables are not touched, trace rings are
empty. -/
def Dp.reinitRegion (d : Dp) (r : Nat) : Dp :=
  let own := fun (u : Nat) => unitKind u < 5 && uidCluster u / 8 == r
  let cl := fun (c : Nat) => c / 8 == r
  { d with units := d.units.foldl (fun (t : Tab Unit) x => t.put {} x.1 (if own x.1 then
             { ({} : Unit) with sticky := x.2.sticky, illFirst := x.2.illFirst, disabled := x.2.disabled, deferred := x.2.deferred }
             else x.2)) [],
           mxa := d.mxa.filter (fun x => !(cl x.1)), brush := d.brush.filter (fun x => !(cl x.1)), idx := d.idx.filter (fun x => !(cl x.1)),
           dgu := d.dgu.filter (fun x => !(cl (x.1 / 4))),
           log := { d.log with rings := d.log.rings.filter (fun x => !(own x.1)) } }

/-- R464: the block of a test that ends, or of a pass. -/
def Dp.reinit (d : Dp) (u : Nat) : Dp := if isRouter u then d.reinitRegion (regionOf u) else d

/-- R460: a reset or a package fault ends every test ABORTED. -/
def State.abortTests (s : State) : State :=
  let l := s.st.tests
  let s := l.foldl (fun s t => s.finish t.q t.seq stOk 0 (testValue 2 t.passes 0 0)) s
  let d := l.foldl (fun (d : Dp) t => if t.powered then d.reinit t.unit else d) s.dp
  ({ s with dp := d }).setTests { s.st with tests := [] }

/-- R416–R418, R486: the recorder is kept through a reset of the dies; trace rings, snapshot, spill queues and inkwell pointers are lost. -/
def Log.dieReset (l : Log) : Log :=
  { l with rings := [], eseq := [], trSel := 0, snap := [], snapTs := 0, snapBad := false, classes := 0, spillPorts := false, spill := false,
           freeze := false, auto := false, frozen := false, spillQ := [], spillDrop := 0, inkOff := 0, inkStack := 0, inkLine := [],
           inkWraps := [], rtag := 0 }

/-- R432, R443, R486: reports and the neighbour's tallies lie in the always-on domain. -/
def Fr.dieReset (f : Fr) : Fr :=
  { Fr.reset with last := f.last, count := f.count, reports := f.reports, heldTally := f.heldTally, inTally := f.inTally, inGot := f.inGot,
                  toMgmt := f.toMgmt }

/-- R80, R486: every die's memory is lost; host memory is the host's. -/
def Dp.dieReset (d : Dp) : Dp :=
  { Dp.reset with mem := { Mem.reset with host := d.mem.host, poison := d.mem.poison }, log := d.log.dieReset,
                  irq := { Irq.reset with sent := d.irq.sent }, fr := d.fr.dieReset, rlog := d.rlog }

/-- R382, R402, R486: the Damper lies in the always-on domain: its settings, energy counters and measurements are kept; what concerns
the dies' present work returns to its reset value. -/
def Pw.dieReset (w : Pw) : Pw :=
  { Pw.reset with cap := w.cap, floorW := w.floorW, ramp := w.ramp, coldOk := w.coldOk, meas := w.meas, est := w.est, pastCap := w.pastCap,
                  peaks := w.peaks, used40 := w.used40, used50 := w.used50, tj := w.tj, tinAcc := w.tinAcc, scale := w.scale,
                  trimPj := w.trimPj, energy := w.energy, droopCnt := w.droopCnt, clampCnt := w.clampCnt, rampVCnt := w.rampVCnt }

/-- Edge ends all in one state, with fresh training words. -/
def Edge.all (e : Edge) (st : EdgeState) : Edge := { e with ends := (List.range 8).map (fun i => (i, { state := st })) }

/-- R380, R486: the dies and setup registers are reset; the always-on domain, the fuses, the repair list and the flash are kept. A fence,
and the record of the die that lost its clock, end only with a reset by the management controller (`mgmt`). -/
def State.dieReset (s : State) (cause : Nat) (mgmt : Bool) : State :=
  { State.reset with
    pending := s.pending, clk := { Clk.reset with running := s.clk.running, tb := s.clk.tb }, pw := s.pw.dieReset,
    dp := (let d := s.dp.dieReset; { d with fr := { d.fr with fenced := s.dp.fr.fenced && !mgmt } }),
    edge := { Edge.reset with defect := s.edge.defect, freset := s.edge.freset, lost := if mgmt then 0 else s.edge.lost,
                              faulted := s.edge.faulted && !mgmt },
    sec := { s.sec with ideKeys := [], ideOn := false },
    st := { s.st with tests := [], undecided := [], pass := 0, fail := 0, refuse := 0, lastUp := 0 },
    bu := { s.bu with stage := .fwcheck, mainOn := false, rstCause := BitVec.ofNat 8 cause, bootMs := 0, resetAt := s.clk.tb,
                      thermTrip := false, booted := false },
    out := s.out }

/-- R376, R478, R485: with firmware running, PWR_EN high and the reference good the rails rise, every PLL locks and every edge trains. -/
def State.raiseRails (s : State) : State :=
  if s.bu.stage == .waitEn && s.bu.pwrEn && s.bu.refOk && !s.bu.dark then
    { s with bu := { s.bu with stage := .train, mainOn := true }, edge := { s.edge.all .training with present := 0xF, failed := false } }
  else s

/-- R377, R446, R450, R486: a package reset: tests end, pending transitions take effect, firmware is checked and started, and bring-up
goes on as far as PWR_EN lets it. A package in DEFECT stays in reset with every edge DOWN. Every cause but a forced reset (4) is the management
controller's. -/
def State.packageReset (s : State) (cause : Nat) (slot : BitVec 6) : State :=
  let s := s.abortTests.flush.dieReset cause (decide (cause ≠ 4))
  let s := { s with bu := { s.bu with slot := slot, refOk := s.bu.refIn }, sec := s.sec.applyPending }.bootFirmware
  if s.edge.defect then { s with bu := { s.bu with stage := .defect }, edge := s.edge.all .down } else s.raiseRails

/-- R447, R486: a power-on reset: fuses, repair list and flash are kept, nothing else; the time base waits for its start. -/
def State.powerOn (s : State) (cause : Nat) (slot : BitVec 6) : State :=
  let c := ({ s.sec with pend := if s.sec.pend = 2 then 7 else s.sec.pend }).applyPending
  { State.reset with
    pending := s.pending,
    dp := { Dp.reset with mem := { Mem.reset with host := s.dp.mem.host, poison := s.dp.mem.poison },
                          irq := { Irq.reset with sent := s.dp.irq.sent } },
    sec := { Sec.reset with lc := c.fuse, fuse := c.fuse, keyRev := c.keyRev, keyPres := c.keyPres, idKey := c.idKey, svn := c.svn,
                            bankA := c.bankA, bankB := c.bankB, active := c.active, armed := c.armed, drawn := c.drawn },
    st := { St.reset with usedLines := s.st.usedLines, usedRows := s.st.usedRows },
    bu := { Bu.reset with slot := slot, rstCause := BitVec.ofNat 8 cause, pwrEn := s.bu.pwrEn, perst := s.bu.perst, vin := s.bu.vin,
                          iin := s.bu.iin },
    out := s.out }

/-- R474: the package goes dark: everything but fuses, repair list and flash is lost, and it does nothing until VIN returns. -/
def State.goDark (s : State) : State :=
  let t := s.powerOn s.bu.rstCause.toNat s.bu.slot
  { t with bu := { t.bu with dark := true, thermTrip := false } }

/-- R485, R488: the main rails fall: the dies lose their state, and the always-on domain runs on, waiting for PWR_EN. -/
def State.railsFall (s : State) (cause : Nat) : State :=
  let b := s.bu.booted
  let t := s.dieReset cause false
  { t with bu := { t.bu with booted := b, stage := if b then .waitEn else .romHold } }

/-! ### Faults of the whole package (R377, R379) -/

/-- DD_CLK (R381). -/
def Edge.clkWord (e : Edge) : Nat := e.present.toNat + 16 * e.lost.toNat

/-- R379: every edge end is FENCED, and the replays under way are abandoned. -/
def Edge.fenced (e : Edge) : Edge :=
  { e with ends := (List.range 8).map (fun i => (i, { (e.ends.get {} i) with state := .fenced, fails := [] })) }

/-- R379: the clocks of the dies in a mask are lost: the stroke is voided, the package fenced and one package fault reported (class 7);
an open uncorrectable error of a stroke still voided is replaced, and any other open fault makes it a multiple fault (R8). A second loss
changes LOST only. When d0 is lost, its host port stops. -/
def State.clockLoss (s : State) (dies : BitVec 4) : State :=
  let first := !s.edge.faulted
  let e := { s.edge with present := s.edge.present &&& ~~~dies, lost := s.edge.lost ||| dies, faulted := true }
  let down := dies.getLsbD 0 && s.hp.linkUp
  let s := { s with edge := if first then e.fenced else e,
                    hp := if dies.getLsbD 0 then { s.hp with speed := 0, width := 0, cacheEn := false, memEn := false,
                                                             errDown := s.hp.errDown || down } else s.hp }
  let s := if down then s.hpIrq else s
  if !first then s
  else
    let s := s.onDp (fun e d =>
      let voided := d.fr.voided
      let d := voidStroke e 2 d
      let d := { d with fr := { d.fr with open_ := if voided then d.fr.open_.filter (fun r => r.cls != 1) else d.fr.open_ } }
      autoFreeze e 2 (fence (raiseFault e 7 3 pmcUid s.edge.clkWord d)))
    s.abortTests.settleStop

/-! ### Requests held at a lost die (R379) -/

/-- R372, R379: a request from die `a` to die `b` is held: its route enters a die that has lost its clock. -/
def State.held (s : State) (a b : Nat) (addr : Option Nat) : Bool := (edgeRoute a b addr).any (fun x => s.edge.lost.getLsbD (edgePeer x / 2))

/-- A host request for `n` lines from address `a` on is held at d0. -/
def State.rangeHeld (s : State) (a : Nat) : Nat → Bool
  | 0 => false
  | n + 1 => (match s.dp.mem.resolve a with
    | some l => s.held 0 l.home (some a)
    | none => false) || s.rangeHeld (a + 64) n

/-- R379: a host request for `n` lines from `a` on waits. -/
def State.hostHeld (s : State) (a n : Nat) : Bool := s.edge.lost != 0 && s.rangeHeld a n

end Sys2Proof.Machine
end

