-- ==== Sys2Proof/Machine/Faults.lean ====
section
/-! DEFINITION. Meanings of the fault and recovery commands (18_faults_and_recovery.md): stalled units and suspects (R428), replay (R430),
RECOVER (R435) and the lines of a restore (R436). -/

namespace Sys2Proof.Machine

/-! ### Stalled units and suspects -/

/-- R227, R308, R309, R365: unit `u` waits for an acknowledgement, a staging block, the host link or a Flue exchange. -/
def State.waits (s : State) (u : Nat) : Bool :=
  s.torus.awaits.any (fun a => a.unit == u) || (s.dp.getUnit u).awaitExt ||
    (unitKind u == 6 && !(s.dp.getUpu (3 * uidDie u + u % 256)).ops.isEmpty) ||
    (unitKind u == 5 && !((s.dp.cle.get {} (uidDie u)).ops.isEmpty))

/-- R416, R428: a unit has waited 100 ms: every ring freezes, the stroke is voided, the package fenced and a class 8 fault reported. -/
def execStalledUnitTimeout (u : BitVec 16) (s : State) : Host.Outcome State Fault Refusal :=
  .next (if isStreamUnit u.toNat && s.waits u.toNat then
      (s.onDp (fun e d => fence (raiseFault e 8 3 u.toNat 0 (voidStroke e 3 (autoFreeze e 1 d))))).settleStop
    else s)

/-- R428: the management controller declares the package suspect: fenced, class 10. A dark package hears nothing. -/
def execSuspectDeclaration (s : State) : Host.Outcome State Fault Refusal :=
  .next (if s.bu.dark || !s.bu.booted then s
    else (s.onDp (fun e d => fence (raiseFault e 10 3 pmcUid 0 d))).settleStop)

/-! ### Replay (R430) -/

/-- R461: the progress of a pass in the voided stroke is discarded; it is run again. -/
def St.undoPass (t : St) (stroke : BitVec 64) : St :=
  { t with tests := t.tests.map (fun x => match x.passAt with
    | some (n, left) => if n = stroke then { x with left := left, passes := x.passes - 1, powered := false, passAt := none } else x
    | none => x) }

/-- R62, R430: a unit returns to its state at S+0; measuring counters, the segment buffer and enables are not part of it. -/
def Unit.revert (now s0 : Unit) : Unit :=
  { s0 with perf := now.perf, fetched := now.fetched, fetchLate := now.fetchLate, disabled := now.disabled, deferred := now.deferred }

/-- R284, R430: the step state of a partition that ran the stroke returns to S+0. The contract block keeps what it counted, for a replay
counts suppressed writes again (R82, R83), and what the host has written since stays. -/
def Part.revert (now s0 : Part) : Part :=
  { now with step := s0.step, gate := s0.gate, blot := s0.blot, blotS0 := s0.blotS0, ls := s0.ls, clean := s0.clean, skip := s0.skip,
             lastSkip := s0.lastSkip, lateBlot := s0.lateBlot, early := s0.early, voted := s0.voted, blotAtVote := s0.blotAtVote,
             lateSrc := s0.lateSrc, lateUnit := s0.lateUnit, strokeSrc := s0.strokeSrc, strokeUnit := s0.strokeUnit, voteIn := s0.voteIn,
             wrote := s0.wrote, ungated := s0.ungated, eseq := s0.eseq, sealStep := s0.sealStep, sealed := s0.sealed }

/-- R347, R366: a Flue returns to S+0, but for the operations of communication queues. -/
def Cle.revert (now s0 : Cle) : Cle :=
  { s0 with ops := s0.ops.filter (fun o => o.host.isNone) ++ now.ops.filter (fun o => o.host.isSome) }

/-- A table of which the entries at the keys of `p` revert. -/
def Tab.revertOn {α : Type} [DecidableEq α] (p : Nat → Bool) (d : α) (now s0 : Tab α) (f : α → α → α) : Tab α :=
  (now.map (·.1) ++ s0.map (·.1)).foldl (fun t k => t.put d k (if p k then f (now.get d k) (s0.get d k) else now.get d k)) []

/-- R195, R246, R284, R293, R347, R430: on the dies of the launches that ran the stroke every unit's state and every counter return to
S+0. -/
def Dp.revert (runs : Nat → Bool) (dies : Nat → Bool) (d : Dp) : Dp :=
  let z := d.snap
  let on := fun (u : Nat) => dies (uidDie u)
  let clus := fun (k : Nat) => dies (k / 128)
  { d with units := Tab.revertOn on {} d.units z.units Unit.revert, mxa := Tab.revertOn clus {} d.mxa z.mxa (fun _ b => b),
           brush := Tab.revertOn clus {} d.brush z.brush (fun _ b => b), idx := Tab.revertOn clus {} d.idx z.idx (fun _ b => b),
           dgu := Tab.revertOn (fun k => clus (k / 4)) {} d.dgu z.dgu (fun _ b => b),
           upu := Tab.revertOn (fun k => dies (k / 3)) {} d.upu z.upu (fun now s0 => { s0 with edropF := now.edropF }),
           cle := Tab.revertOn dies {} d.cle z.cle Cle.revert, part := Tab.revertOn runs {} d.part z.part Part.revert,
           mem := { d.mem with staged := Tab.revertOn (fun k => dies (k / 2 ^ 16 / 3)) 0 d.mem.staged z.staged (fun _ b => b) } }

/-- The stroke in progress is voided and may be replayed (R430): it is not part of a rollback, or it is a regeneration entry of one. -/
def Fr.mayReplay (f : Fr) : Bool := f.voided && !f.tainted && !f.pendHold && (!f.hold || f.regen) && !f.fenced

/-- R53, R430: the voided stroke is run again on this package alone, late with CAUSE RECOVERY. -/
def execReplay (s : State) : Host.Outcome State Fault Refusal :=
  .next (if s.dp.fr.mayReplay && !s.pw.tripped then
      let ran := fun (p : Nat) => match (s.getPartn p).launch with
        | some l => l.began
        | none => false
      let d := s.dp.revert ran (fun i => match s.partOfDie i with
        | some p => ran p
        | none => false)
      let d := { d with fr := { d.fr with voided := false, voidCause := 0, replay := true, replayCnt := satAdd d.fr.replayCnt 1 } }
      let w := s.workers
      let d := w.foldl (fun (d : Dp) u => d.setUnit u (fun x => { x with cause := x.cause ||| 0x20#6 })) d
      let keep := fun (u : Nat) => !(isStreamUnit u)
      let s := { s with dp := d, clk := { s.clk with own := 0, doneNs := 0 },
                        torus := { s.torus with awaits := s.torus.awaits.filter (fun a => keep a.unit),
                                                later := s.torus.later.filter (fun a => keep a.unit) } }
      let s := s.setTests (s.st.undoPass s.clk.stroke)
      w.foldl (fun (s : State) u => s.onDp (fun e d => trace e u { kind := 1, a0 := e.stroke.toNat } d)) s
    else s)

/-! ### RECOVER (R435) -/

/-- R435: RECOVER names the recovery point and the resume stroke; the launches of the package are held from the next boundary. A voided
stroke's work ends at once, a replay is replaced, and the package reports done. -/
def execRecover (tag : BitVec 16) (pl : List Byte) (s : State) : Host.Outcome State Fault Refusal :=
  .next (s.request 0x0E 24 tag pl (fun s =>
    let f := s.dp.fr
    let run := s.launched
    let stop := run && f.voided
    let f := { f with recpt := BitVec.ofNat 64 (plAt pl 0 8), resume := BitVec.ofNat 64 (plAt pl 8 8),
                      recStep := BitVec.ofNat 64 (plAt pl 16 8), rollbackCnt := if run then satAdd f.rollbackCnt 1 else f.rollbackCnt,
                      pendHold := f.pendHold || run, hold := f.hold || stop, replay := false, voided := f.voided && !run }
    let s := ({ s with dp := { s.dp with fr := f } }).setTests (if stop then s.st.undoPass s.clk.stroke else s.st)
    let s := if stop then (s.enterDone pmcUid 0x20).tryClose else s
    s.respond 0x0E msOk tag []))

/-! ### Restore (R436) -/

/-- R436: fields of a packet of a restore: stack, slot parity, tally, lines requested. -/
def recovStack (k : Packet) : Nat := bits k.tag 32 4
def recovParity (k : Packet) : Bool := bit k.tag 36
def recovTally (k : Packet) : Bool := bit k.tag 37
def recovLines (k : Packet) : Nat := bits k.tag 40 8

/-- Lines of stack `j` of the holder's slot from slot offset `o` on: corrected as they are read; none at an uncorrectable error. -/
def slotLines (e : Env) (slot j : Nat) : Nat → Nat → Dp → Option (List (BitVec 512)) × Dp
  | 0, _, d => (some [], d)
  | n + 1, o, d =>
    let off := d.mem.slotAt slot o
    let l : Loc := .local_ j off
    let k := d.mem.key l
    let v := BitVec.ofNat 512 (readBytes d.mem.cells k 64)
    match d.mem.marks.get .none (k / 64) with
    | .ue => (none, ueFound e (duid (j / 3) 2 (j % 3)) 0 (localAddr j off) 3 d)
    | .ce =>
      match slotLines e slot j n (o + 64) (correct e (duid (j / 3) 2 (j % 3)) (localAddr j off) k l d) with
      | (none, d) => (none, d)
      | (some r, d) => (some (v :: r), d)
    | .none =>
      match slotLines e slot j n (o + 64) d with
      | (none, d) => (none, d)
      | (some r, d) => (some (v :: r), d)

/-- R436: answer a request with RECOV_DATA. -/
def State.sendRecovData (s : State) (k : Packet) (l : List (BitVec 512)) : State :=
  let r := s.nextRtag
  r.2.originate (recovStack k / 3 % 4) pmcUid 7 4 k.spkg k.spod k.addr
    (BitVec.ofNat 64 (r.1.toNat + (k.tag.toNat >>> 32) % 64 * 2 ^ 32)) 0 l

/-- R436: a request from the package this one holds copies for is answered with lines of the slot or of the tally; an uncorrectable error
in the slot is class 11 (R8). -/
def execRecovRdReceive (k : Packet) (s : State) : Host.Outcome State Fault Refusal :=
  .next (if k.typ = 6 && s.torus.inbox.contains k then
      let s := s.takeInbox k
      let n := recovLines k
      let par := b2n (recovParity k)
      if !(s.torus.fromSource k) || n = 0 || n > 64 || recovStack k ≥ 12 || k.addr % 64 != 0 then s
      else if recovTally k then
        (if k.addr / 64 + n > 677 then s
         else
          let t := s.dp.fr.heldTally.get [] par
          s.sendRecovData k ((List.range n).map (fun i => Tab.get 0 t (k.addr / 64 + i))))
      else if k.addr + 64 * n > s.dp.mem.slotBytes then s
      else
        match slotLines s.env par (recovStack k) n k.addr s.dp with
        | (some l, d) => ({ s with dp := d }).sendRecovData k l
        | (none, d) => (({ s with dp := d }).onDp (fun e d => raiseFault e 11 4 (duid (recovStack k / 3) 2 (recovStack k % 3)) 0 d)).settleStop
    else s)

/-- R436: where the line at slot offset `o` of stack `j` is written back. -/
def Fr.homeOf (f : Fr) (j o : Nat) : Nat :=
  let split := f.rsplit.toNat * 2 ^ 26
  if o < split then localAddr j (f.rbase.toNat * 2 ^ 26 + o)
  else f.xbase.toNat * 2 ^ 26 + j * (f.xstride.toNat * 2 ^ 26) + (o - split)

/-- R107, R436: one line is restored: into the local view of its stack, or to the slow tier; elsewhere it counts as unmapped. -/
def restoreLine (e : Env) (j o : Nat) (v : BitVec 512) (d : Dp) : Dp :=
  let a := d.fr.homeOf j o
  let bad := unmapped e (upuUid j) 1 a d
  let count := fun (d : Dp) => { d with fr := { d.fr with restoredCnt := satAdd d.fr.restoredCnt 1 } }
  match d.mem.at48 a with
  | some (.local_ i x) => if i = j && decide (o < d.fr.rsplit.toNat * 2 ^ 26) then count (storeLoc a (.local_ i x) v d) else bad
  | some (.ext n x) =>
    if bits (d.mem.xt.get 0 n) 2 2 = 2 && decide (d.fr.rsplit.toNat * 2 ^ 26 ≤ o) then
      match d.mem.xtHpa n x true with
      | some h => count { d with mem := d.mem.hostSetLine h v }
      | none => bad
    else bad
  | _ => bad

/-- R312, R437: the seal line of a restored stack gives the step of its seal to the partition of its die. -/
def takeSeal (j : Nat) (v : BitVec 512) (e : Env) (d : Dp) : Dp :=
  match e.ofDie (j / 3) with
  | some p => d.setPart p.part (fun q => { q with sealStep := v.extractLsb' 64 64 })
  | none => d

/-- R436: the lines of a packet of a restore take their places. -/
def restoreLines (k : Packet) (e : Env) (d : Dp) : Dp :=
  let j := recovStack k
  if recovTally k then
    let par := b2n (recovParity k)
    let t := k.lines.zipIdx.foldl (fun (t : Tally) x => t.put 0 (k.addr / 64 + x.2) x.1) (d.fr.ownTally.get [] par)
    { d with fr := { d.fr with ownTally := d.fr.ownTally.put [] par t, prevs := d.fr.prevs.put 0 par 0 } }
  else
    taint (k.lines.zipIdx.foldl (fun (d : Dp) x =>
      let o := k.addr + 64 * x.2
      if o + 64 = d.mem.slotBytes then takeSeal j x.1 e d else restoreLine e j o x.1 d) d)

/-- R435, R436: RECOV_DATA arrives during a restore; when nothing is awaited any more the restore is done. -/
def execRecovDataReceive (k : Packet) (s : State) : Host.Outcome State Fault Refusal :=
  .next (if k.typ = 7 && s.torus.inbox.contains k && s.hp.linkUp then
      let s := s.takeInbox k
      let key := if recovTally k then 12 else recovStack k
      if !s.dp.fr.restoring || s.dp.fr.awaited.get 0 key = 0 then s
      else
        let s := s.onDp (restoreLines k)
        let aw := s.dp.fr.awaited.upd 0 key (fun n => n - k.lines.length)
        let s := { s with dp := { s.dp with fr := { s.dp.fr with awaited := aw } } }
        if aw.isEmpty then s.restoreDone.tryClose else s
    else s)

end Sys2Proof.Machine
end

