-- ==== Sys2Proof/Machine/Security.lean ====
section
/-! DEFINITION. Meanings of the lifecycle, firmware and attestation commands (19_lifecycle_security_selftest.md R446–R457; R113). -/

namespace Sys2Proof.Machine

/-! ### Lifecycle (R446–R449, R455) -/

/-- R449: LIFECYCLE byte 0 = 0: the PMC issues a nonce, good for one request and for 60 s. -/
def execLifecycleNonce (tag : BitVec 16) (s : State) : Host.Outcome State Fault Refusal :=
  .next (if s.bu.dark then s
    else
      let n := Config.nonce s.sec.drawn
      ({ s with sec := { s.sec with nonce := some (n, s.clk.tb), drawn := s.sec.drawn + 1 } }).respond 0x0F msOk tag (natBytes 48 n.toNat))

/-- R447: the transitions a token may ask for. -/
def tokenMove (lc target : Nat) : Bool := (lc == 1 && target == 2) || ((lc == 1 || lc == 2) && target == 3)

/-- R447–R449: a transition with a token becomes pending, or is refused. -/
def execLifecycleTransition (tag : BitVec 16) (pl : List Byte) (s : State) : Host.Outcome State Fault Refusal :=
  let t := plAt pl 4 1
  .next (s.lifecycle tag (decide (160 ≤ pl.length)) (tokenMove s.sec.lc.toNat t && s.tokenOk pl t) (fun c =>
    { c with pend := BitVec.ofNat 3 t }))

/-- R455: slot `k` may be revoked: not slot 0 while it is the only unrevoked production slot. -/
def Sec.mayRevoke (c : Sec) (k : Nat) : Bool :=
  decide (k ≤ 3) && (k != 0 || [1, 2].any (fun i => c.keyPres.getLsbD i && !(c.keyRev.getLsbD i)))

/-- R449, R455: a signed message with TARGET 0xFF revokes the key slot it names, at once. -/
def execKeyRevoke (tag : BitVec 16) (pl : List Byte) (s : State) : Host.Outcome State Fault Refusal :=
  let k := plAt pl 5 1
  .next (if s.bu.dark then s
    else if pl.length < 160 then s.respond 0x0F msBadField tag []
    else
      let ok := s.tokenOk pl 0xFF && s.sec.mayRevoke k
      let c := { s.sec with nonce := none }
      if ok then ({ s with sec := { c with keyRev := c.keyRev ||| (1#4 <<< k) } }).respond 0x0F msOk tag []
      else ({ s with sec := c }).respond 0x0F msRefused tag [])

/-- R447: INSPECT back to FIELD, without a token. -/
def execInspectExit (tag : BitVec 16) (s : State) : Host.Outcome State Fault Refusal :=
  .next (s.lifecycle tag true (s.sec.lc == 2) (fun c => { c with pend := 1 }))

/-- R447: PROVISION: TEST to FIELD. -/
def execProvision (tag : BitVec 16) (_pl : List Byte) (s : State) : Host.Outcome State Fault Refusal :=
  .next (s.lifecycle tag true (s.sec.lc == 0) (fun c => { c with pend := 1 }))

/-! ### Firmware update (R454) -/

/-- The PMC answers over SPDM, MCTP control or PLDM. -/
def State.answer (s : State) (r : Resp) : State := { s with out := { s.out with resp := r :: s.out.resp } }

/-- What the inactive bank holds. -/
def Sec.setInactive (c : Sec) (b : Bank) : Sec := if c.active then { c with bankA := b } else { c with bankB := b }

/-- `n` bytes of a number replaced from offset `off` on. -/
def spliceBytes (v off n x : Nat) : Nat := v - (v >>> (8 * off)) % 2 ^ (8 * n) * 2 ^ (8 * off) + x % 2 ^ (8 * n) * 2 ^ (8 * off)

/-- R454: a transfer into the inactive bank begins (what the bank held is no longer there), carries bytes, or is cancelled. -/
def execPldmFirmwareUpdate (op : FwOp) (s : State) : Host.Outcome State Fault Refusal :=
  let c := s.sec
  .next (if s.bu.dark then s
    else match op with
      | .begin_ len =>
        if c.xfer.isSome then s.answer .pldmBusy
        else ({ s with sec := { (c.setInactive .empty) with xfer := some ⟨len, 0⟩, fwStg := 0, armed := false } }).answer .pldmOk
      | .data off bytes =>
        match c.xfer with
        | none => s.answer .pldmRefused
        | some g =>
          if off + bytes.length > g.len then s.answer .pldmRefused
          else ({ s with sec := { c with xfer := some ⟨g.len, spliceBytes g.data off bytes.length (leNat bytes)⟩ } }).answer .pldmOk
      | .cancel =>
        if c.xfer.isNone then s.answer .pldmRefused else ({ s with sec := { c with xfer := none } }).answer .pldmOk)

/-- R453, R454: the transfer is complete: the image stands in the inactive bank and is checked; the update is refused when it fails. -/
def execFirmwareTransferComplete (s : State) : Host.Outcome State Fault Refusal :=
  .next (if s.bu.dark then s
    else match s.sec.xfer with
      | none => s.answer .pldmRefused
      | some g =>
        let c := { s.sec.setInactive (.image g) with xfer := none }
        ({ s with sec := { c with fwStg := c.staged } }).answer (if c.fwPasses g then .pldmOk else .pldmRefused))

/-- R454: activation marks the checked bank active for the next package reset; BUSY while a script is launched. -/
def execFirmwareActivate (s : State) : Host.Outcome State Fault Refusal :=
  .next (if s.bu.dark then s
    else if s.launched then s.answer .pldmBusy
    else if s.sec.xfer.isNone && (s.sec.bootable (s.sec.bank (!s.sec.active))).isSome then
      ({ s with sec := { s.sec with armed := true } }).answer .pldmOk
    else s.answer .pldmRefused)

/-! ### SPDM (R456, R457) -/

/-- The responder answers once firmware runs, after a version has been negotiated. -/
def State.spdm (s : State) (f : State → State) : State :=
  if s.bu.dark || !s.bu.booted then s else if s.sec.version.isNone then s.answer .unexpected else f s

/-- R456: the identity key exists and slot 0 holds its chain: neither TEST nor RETURNED. -/
def Sec.canSign (c : Sec) : Bool := c.lc == 1 || c.lc == 2
/-- R456: slot 0 is empty in TEST. -/
def Sec.slot0 (c : Sec) : Bool := c.lc != 0

/-- A fresh signature. -/
def State.signed (s : State) (f : BitVec 768 → Resp) : State :=
  ({ s with sec := { s.sec with drawn := s.sec.drawn + 1 } }).answer (f (Config.sign s.sec.drawn))

/-- R456: versions 1.2 and 1.3. -/
def execGetVersion (s : State) : Host.Outcome State Fault Refusal :=
  .next (if s.bu.dark || !s.bu.booted then s else s.answer (.version [12, 13]))

/-- R456: the request carries the version in use. -/
def execGetCapabilities (version : Nat) (s : State) : Host.Outcome State Fault Refusal :=
  .next (if s.bu.dark || !s.bu.booted then s
    else if version = 12 || version = 13 then ({ s with sec := { s.sec with version := some version } }).answer .capabilities
    else s.answer .unexpected)

/-- R456: ECDSA P-384, SHA-384, secp384r1, AES-256-GCM. -/
def execNegotiateAlgorithms (s : State) : Host.Outcome State Fault Refusal := .next (s.spdm (fun s => s.answer .algorithms))

/-- SHA-384 of the chain of slot 0. -/
def chainDigest : BitVec 384 := BitVec.ofNat 384 (sha384 Config.certChain.length (leNat Config.certChain))

def execGetDigests (s : State) : Host.Outcome State Fault Refusal :=
  .next (s.spdm (fun s => s.answer (.digests (if s.sec.slot0 then some chainDigest else none))))

/-- Bytes of one response; the rest of what was asked is kept for CHUNK_GET. -/
def chunkBytes : Nat := 4096

/-- R456: a portion of the chain of slot 0. -/
def execGetCertificate (slot off len : Nat) (s : State) : Host.Outcome State Fault Refusal :=
  .next (s.spdm (fun s =>
    if slot != 0 || !s.sec.slot0 || off ≥ Config.certChain.length then s.answer .unexpected
    else
      let l := (Config.certChain.drop off).take len
      ({ s with sec := { s.sec with large := l.drop chunkBytes } }).answer
        (.certificate (l.take chunkBytes) (Config.certChain.length - off - l.length))))

/-- R456: CHUNK_GET: chunk `n` of the response kept. -/
def execChunkGet (n : Nat) (s : State) : Host.Outcome State Fault Refusal :=
  .next (s.spdm (fun s =>
    let l := s.sec.large.drop (n * chunkBytes)
    if l.isEmpty then s.answer .unexpected else s.answer (.chunk (l.take chunkBytes) (decide (l.length ≤ chunkBytes)))))

/-- R456: CHALLENGE is signed by the identity key; without one it is an ERROR, Unspecified. -/
def execChallenge (slot : Nat) (s : State) : Host.Outcome State Fault Refusal :=
  .next (s.spdm (fun s =>
    if !s.sec.canSign then s.answer .unspecified
    else if slot != 0 then s.answer .unexpected
    else s.signed (.challengeAuth chainDigest)))

/-- R454, R457: SHA-384 of the running firmware image. -/
def State.fwDigest (s : State) : BitVec 384 :=
  match s.sec.ran with
  | .image g => BitVec.ofNat 384 (sha384 g.fwLen (g.data % 2 ^ (8 * g.fwLen)))
  | _ => Config.shippedDigest

/-- R469: the debug port is closed in FIELD alone (R446). -/
def Sec.debugOpen (c : Sec) : Bool := c.lc != 1

/-- R457: measurement block `i`. -/
def State.measure (s : State) (i : Nat) : Option (List Byte) :=
  match i with
  | 1 => some (natBytes 48 Config.romDigest.toNat)
  | 2 => some (natBytes 48 s.fwDigest.toNat)
  | 3 => some (natBytes 4 s.sec.fwAct.toNat ++ natBytes 4 s.sec.fwSvn.toNat)
  | 4 => some (natBytes 1 s.sec.lc.toNat ++ natBytes 1 s.sec.svn.toNat ++ natBytes 1 s.sec.keyRev.toNat)
  | 5 => some (s.capt.flatMap (natBytes 4))
  | 6 => some (natBytes 1 (b2n s.sec.debugOpen))
  | 7 => some ((List.range 8).flatMap (fun k => match s.scr.slots.get none k with
      | some g => natBytes 48 (g.at 0xD0 48)
      | none => natBytes 48 0))
  | _ => none

/-- R456, R457: one measurement, or all of them (0xFF), signed on request; a signature needs the identity key. -/
def execGetMeasurements (index : Nat) (signed : Bool) (s : State) : Host.Outcome State Fault Refusal :=
  .next (s.spdm (fun s =>
    let ix := if index = 0xFF then [1, 2, 3, 4, 5, 6, 7] else [index]
    let blocks := ix.filterMap (fun i => (s.measure i).map (fun b => (i, b)))
    if signed && !s.sec.canSign then s.answer .unspecified
    else if blocks.isEmpty then s.answer .unexpected
    else if signed then s.signed (fun g => .measurements blocks (some g))
    else s.answer (.measurements blocks none)))

/-- R456: at most four sessions at once. -/
def execKeyExchange (doe : Bool) (s : State) : Host.Outcome State Fault Refusal :=
  .next (s.spdm (fun s =>
    if !s.sec.canSign then s.answer .unspecified
    else
      match firstFrom (fun i => !(s.sec.sessions.any (fun x => x.id == i))) 4 1 with
      | none => s.answer .unexpected
      | some i => ({ s with sec := { s.sec with sessions := s.sec.sessions ++ [Sess.mk i false doe 0] } }).signed (.keyExchange i)))

/-- A session, and an update of it. -/
def Sec.sess (c : Sec) (i : Nat) : Option Sess := c.sessions.find? (fun x => x.id == i)
def Sec.setSess (c : Sec) (i : Nat) (f : Sess → Sess) : Sec :=
  { c with sessions := c.sessions.map (fun x => if x.id = i then f x else x) }

/-- A request inside session `i`, secured or not yet as `sec` says. -/
def State.inSession (s : State) (i : Nat) (sec : Bool) (f : State → Sess → State) : State :=
  s.spdm (fun s => match s.sec.sess i with
    | some x => if x.secured == sec then f s x else s.answer .unexpected
    | none => s.answer .unexpected)

/-- R456: FINISH completes the set-up of a session. -/
def execFinish (session : Nat) (s : State) : Host.Outcome State Fault Refusal :=
  .next (s.inSession session false (fun s x =>
    ({ s with sec := s.sec.setSess x.id (fun y => { y with secured := true }) }).answer (.finished x.id)))

/-- R456: KEY_UPDATE moves a session to its next keys. -/
def execKeyUpdate (session : Nat) (s : State) : Host.Outcome State Fault Refusal :=
  .next (s.inSession session true (fun s x =>
    ({ s with sec := s.sec.setSess x.id (fun y => { y with gen := y.gen + 1 }) }).answer (.keyUpdated x.id)))

/-- R456: HEARTBEAT keeps a session. -/
def execHeartbeat (session : Nat) (s : State) : Host.Outcome State Fault Refusal :=
  .next (s.inSession session true (fun s x => s.answer (.heartbeat x.id)))

/-- R456: END_SESSION ends a session. -/
def execEndSession (session : Nat) (s : State) : Host.Outcome State Fault Refusal :=
  .next (s.inSession session true (fun s x =>
    ({ s with sec := { s.sec with sessions := s.sec.sessions.filter (fun y => y.id != x.id) } }).answer (.ended x.id)))

/-! ### IDE keys (R113, R448, R456) -/

/-- R113, R456: IDE_KM, only inside a secured session on the DOE transport: a key of a stream is programmed, or the keys go into or out of
use. -/
def execIdeKmRequest (session : Nat) (op : IdeOp) (s : State) : Host.Outcome State Fault Refusal :=
  .next (s.inSession session true (fun s x =>
    if !x.doe then s.answer .unexpected
    else match op with
      | .program stream key => ({ s with sec := { s.sec with ideKeys := s.sec.ideKeys.put 0 stream key } }).answer .ideKm
      | .go =>
        if s.sec.ideKeys.isEmpty then s.answer .unexpected
        else ({ s with sec := { s.sec with ideOn := true }, hp := { s.hp with ide := true } }).answer .ideKm
      | .stop => ({ s with sec := { s.sec with ideOn := false }, hp := { s.hp with ide := false } }).answer .ideKm))

end Sys2Proof.Machine
end

