-- ==== Sys2Proof/Machine/IdleOps.lean ====
section
/-! DEFINITION. A change of the idle states (16_power_and_thermal.md R399–R401): what ports, edges, voltages and records follow. -/

namespace Sys2Proof.Machine

/-- R343, R400: a port and an edge end follow the package state: LOCK in Banked; LIVE again, with WAKE, when it is shallower. -/
def Port.follow (idle : Nat) (x : Port) : Port :=
  if idle = 2 && x.state == .live then { x with state := .lock, wakeSent := false }
  else if idle < 2 && x.state == .lock then
    { (if x.wakeSent then x else x.symbol (mkSymbol 5 [])) with state := .live, wakeSent := false }
  else x
def EdgeEnd.follow (idle : Nat) (x : EdgeEnd) : EdgeEnd :=
  if idle = 2 && x.state == .live then { x with state := .lock }
  else if idle < 2 && x.state == .lock then { x with state := .live }
  else x

def State.linksFollow (s : State) : State :=
  let s := { s with torus := { s.torus with ports := s.torus.ports.map (fun (x : Nat × Port) => (x.1, x.2.follow s.pkgIdle)) },
                    edge := { s.edge with ends := s.edge.ends.map (fun (x : Nat × EdgeEnd) => (x.1, x.2.follow s.pkgIdle)) } }
  if s.pkgIdle < 2 then (List.range 24).foldl State.pumpPort s else s

/-- R400, R407: what a change of idle states brings, from the region and package states before it: GATE records of what went deeper, WAKE
records, with the state left, of what came up; then the regions' voltages, the ports and the edges follow. -/
def State.idleChange (s : State) (was : List Nat) (pkgWas : Nat) : State :=
  let s := was.zipIdx.foldl (fun (s : State) x =>
    let now := s.regionIdle x.2
    if x.1 < now then s.note (regionUid x.2) 0x15 [(24, now)]
    else if now < x.1 then s.note (regionUid x.2) 0x16 [(24, x.1)] else s) s
  let s := if pkgWas < s.pkgIdle then s.note pmcUid 0x15 [(24, s.pkgIdle)]
    else if s.pkgIdle < pkgWas then s.note pmcUid 0x16 [(24, pkgWas)] else s
  (s.callVolts s.volts).linksFollow

/-- The idle states of the 64 regions. -/
def State.regionIdles (s : State) : List Nat := (List.range 64).map s.regionIdle

/-- R400: partition `p` enters a deeper state. -/
def State.enterIdle (s : State) (p st : Nat) : State :=
  (s.onPw (fun w => { w with idle := w.idle.put 0 p st })).idleChange s.regionIdles s.pkgIdle

end Sys2Proof.Machine
end

