-- ==== Sys2Proof/Machine/Damper.lean ====
section
/-! DEFINITION. Meanings of the power-controller commands (16_power_and_thermal.md R385–R402): estimate, envelope and energy, trim, forecast,
droop, heat, idle states, and the management controller's power settings. -/

namespace Sys2Proof.Machine

/-! ### Estimate, envelope and energy (R385, R393, R395, R402) -/

/-- Coefficient `n` as trimmed (R385, R386). -/
def Pw.coef (w : Pw) (n : Nat) : Nat := Config.eventPj n * w.scale / 65536

/-- R385: the dynamic energy of region `r` at 750 mV, pJ: its counts in the order of the table. -/
def Pw.regionDyn (w : Pw) (o : PowerObs) (r : Nat) : Nat :=
  let c := o.region.getD r []
  c.getD 0 0 * w.coef 0 + c.getD 1 0 * w.coef 1 + c.getD 2 0 * w.coef 3 + c.getD 3 0 * w.coef 4 + c.getD 4 0 * w.coef 5

/-- The energy of region `r` in the interval at its voltage, leakage included, pJ. -/
def State.regionPj (s : State) (o : PowerObs) (r : Nat) : Nat :=
  let mv := s.supplyMv r
  s.pw.regionDyn o r * mv ^ 2 / 562500 + 2000 * s.pw.leak r mv

/-- R465: the power of the self-tests that are powered on blocks of die `d`, mW. -/
def testWatts : Nat → Nat
  | 0x01 => 30 | 0x02 => 30 | 0x03 => 12 | 0x04 => 14 | 0x10 => 45 | 0x11 => 20 | 0x20 => 11 | 0x30 => 20 | _ => 0
def State.testMw (s : State) (d : Nat) : Nat :=
  1000 * ((s.st.tests.filter (fun t => t.powered && uidDie t.unit == d)).map (fun t => testWatts t.code)).foldl (· + ·) 0

/-- The energy of die `d` in the interval, filler aside, pJ. -/
def State.diePj (s : State) (o : PowerObs) (d : Nat) : Nat :=
  ((List.range 16).map (fun g => s.regionPj o (16 * d + g))).foldl (· + ·) 0 +
    ((List.range 3).map (fun i => o.hbm.getD (3 * d + i) 0 * s.pw.coef 6)).foldl (· + ·) 0 + o.fabric.getD d 0 * s.pw.coef 5 +
    2000 * ((fixedMw s.pkgIdle).1 + s.testMw d)

/-- R194: the partitions whose entry has FLOOR set. -/
def floorParts (l : List Slice) : List Nat := (l.filter (fun x => bit (x.g.stroke x.e) 17)).map (fun x => x.p)

/-- R194, R393: what the arrays of region `r` that are free of work could draw as filler, mW: none in a stroke without FLOOR. -/
def State.regionFiller (s : State) (o : PowerObs) (r : Nat) : Nat :=
  match s.partOfDie (r / 16) with
  | some p =>
    if (floorParts s.nowSlices).contains p then
      o.free.getD r 0 * s.pw.coef 2 * oppMhz (s.pw.opp.get 0 p) / 1000 * s.supplyMv r ^ 2 / 562500
    else 0
  | none => 0

/-- R393: what the arrays free of work could draw as filler, mW. -/
def State.fillerMw (s : State) (o : PowerObs) : Nat := ((List.range 64).map (s.regionFiller o)).foldl (· + ·) 0

/-- R389, R393: the target of the filler, mW; without a ramp limit the floor alone, under CAP_EFF. -/
def State.fillTarget (s : State) : Nat :=
  let cap := s.pw.capEff * 1000
  let floor := s.pw.floorW.toNat * 1000
  if s.pw.ramp = 0 then min cap floor else min (min cap (s.pw.refMw + s.stepNow)) (max floor (s.pw.refMw - s.stepNow))

/-- R393: the filler of the interval, mW, and whether it falls short of its target. -/
def State.filler (s : State) (o : PowerObs) (estMw : Nat) : Nat × Bool :=
  if !(floorOn s.nowSlices) then (0, false)
  else
    let need := s.fillTarget - estMw
    let have_ := if s.pw.clamp then 0 else min need (s.fillerMw o)
    (have_, decide (have_ < need))

/-- Hysteresis: set at `hi`, cleared below `lo`. -/
def hyst (was : Bool) (v lo hi : Nat) : Bool := if v ≥ hi then true else if v < lo then false else was

/-- R395: the envelope and the clamp after an interval that ends at `t` with an estimate in mW. -/
def Pw.envelope (w : Pw) (t estMw : Nat) : Pw :=
  let estW := estMw / 1000
  let past := (if estMw > w.capEff * 1000 then t :: w.pastCap else w.pastCap).filter (fun x => decide (t < x + 500000000))
  let peaks := ((t, estW) :: w.peaks.dropWhile (fun x => decide (x.2 ≤ estW))).filter (fun x => decide (t < x.1 + 500000000))
  let w := { w with pastCap := past, peaks := peaks, est := BitVec.ofNat 16 (satTo 16 estW),
                    used40 := hyst w.used40 (2 * past.length) 35000 40000, used50 := hyst w.used50 (2 * past.length) 45000 50000 }
  let limit := if w.used50 then w.capEff else 3300
  if estMw > limit * 1000 then { w with clamp := true, clampF := true, clampCnt := satAdd w.clampCnt 1 } else { w with clamp := false }

/-- R402: add energy to a partition and to its busy queues. -/
def Energy.charge (e : Energy) (p pj : Nat) (qs : List Nat) : Energy :=
  { e with part := e.part.upd 0 p (· + pj), queue := qs.foldl (fun t q => t.upd 0 q (· + pj / qs.length)) e.queue }

/-- R385, R393, R395, R402: the end of a 2 µs interval: the estimate, the filler, the envelope and the clamp, with CAUSE DROOP while it
is in force, and the energy counters. -/
def execPowerEstimate (o : PowerObs) (s : State) : Host.Outcome State Fault Refusal :=
  let s := s.advance ((s.clk.tb.toNat / 2000 + 1) * 2000)
  let dies := (List.range 4).map (fun d => (d, s.diePj o d))
  let on := 2000 * (fixedMw s.pkgIdle).2
  let base := (dies.map (fun x => x.2)).foldl (· + ·) 0 + on
  let fl := s.filler o (base / 2000)
  let total := base + 2000 * fl.1
  let w := s.pw.envelope s.clk.tb.toNat (total / 2000)
  let fp := floorParts s.nowSlices
  let e0 := dies.foldl (fun (e : Energy) (x : Nat × Nat) => match s.partOfDie x.1 with
    | some p => e.charge p x.2 (s.busyQueues p)
    | none => { e with unattrib := e.unattrib + x.2 }) { w.energy with unattrib := w.energy.unattrib + on }
  let e1 := fp.foldl (fun (e : Energy) p => e.charge p (2000 * fl.1 / fp.length) (s.busyQueues p)) e0
  let add := fun (t : Tab Nat) (f : Nat → Nat) => (List.range 4).foldl (fun t d => match s.partOfDie d with
    | some p => t.upd 0 p (· + f d)
    | none => t) t
  let w := { w with energy := e1, meas := BitVec.ofNat 16 (satTo 16 o.meas), floorShort := w.floorShort || fl.2, trimPj := w.trimPj + total,
                    strokePj := w.strokePj + total,
                    fillRegions := if fl.1 = 0 then [] else (List.range 64).filter (fun r => s.regionFiller o r != 0),
                    strokeDyn := add w.strokeDyn (fun d => ((List.range 16).map (fun g => w.regionDyn o (16 * d + g))).foldl (· + ·) 0),
                    strokeHbm := add w.strokeHbm (fun d =>
                      ((List.range 3).map (fun i => o.hbm.getD (3 * d + i) 0 * w.coef 6)).foldl (· + ·) 0) }
  let s := { s with pw := w }
  .next (if w.clamp then ((List.range 64).foldl (fun (s : State) r => s.causeRegion r 2) s).note pmcUid 0x27 [(24, w.est.toNat)] else s)

/-- R386: every 100 ms all coefficients are scaled by measured over estimated energy, clamped to 0.85–1.15. -/
def execCoefficientTrim (uj : Nat) (s : State) : Host.Outcome State Fault Refusal :=
  let m := uj * 1000000
  let e := s.pw.trimPj
  .next (if e = 0 then s
    else
      let low := decide (100 * m < 85 * e)
      let high := decide (100 * m > 115 * e)
      let sc := if low then s.pw.scale * 85 / 100 else if high then s.pw.scale * 115 / 100 else s.pw.scale * m / e
      let s := { s with pw := { s.pw with scale := sc, trimPj := 0, trimLim := s.pw.trimLim || low || high } }
      if low || high then s.note pmcUid 0x25 [(24, satTo 32 (m * 65536 / e))] else s)

/-! ### Forecast (R394) -/

/-- R131, R394: the entry a launch runs in stroke `n` + `i`, `n` the next one; none before its START and beyond its end. -/
def Launch.entryAt (l : Launch) (g : Image) (step n : Nat) (i : Nat) : Option Nat :=
  if !l.began && n + i < l.start.toNat then none
  else
    let pos := if l.began then l.entry + 1 + i else n + i - max n l.start.toNat
    if pos < g.entries then some pos
    else
      let past := pos - g.entries
      if l.steps != 0 && decide (step + past / max 1 g.body + 1 ≥ l.step0.toNat + l.steps.toNat) then none
      else some (g.pro + past % max 1 g.body)

/-- The slices `i` strokes after the next one. -/
def State.slicesAt (s : State) (i : Nat) : List Slice :=
  [0, 1, 2, 3].filterMap (fun p => match (s.getPartn p).launch with
    | none => none
    | some l => match s.imageOf l with
      | none => none
      | some g => (l.entryAt g (s.dp.getPart p).step.toNat (s.clk.stroke.toNat + 1) i).map (fun e => ⟨p, g, e⟩))

/-- R390, R394: the OPP a slice is expected to run at. -/
def Slice.expected (x : Slice) (k : Nat) : Nat :=
  let o := x.g.prefOpp x.e
  if o < 16 && x.meets k o then o else x.lowest k

/-- R394: the power of the idle state expected when no launch runs, W. -/
def State.idleW (s : State) : Nat :=
  match [0, 1, 2, 3].foldl (fun m p => if (s.getPartn p).dies = 0 then m else min m (min 2 (deepest (s.getPartn p).lat.toNat))) 2 with
  | 0 => s.fixedTotal / 1000
  | 1 => 480
  | _ => 190

/-- R394: the forecast of the stroke `i` strokes after the next one, W. -/
def State.forecastW (s : State) (i : Nat) : Nat :=
  let k := s.clk.k.toNat
  let sl := s.slicesAt i
  if sl.isEmpty then (if s.pw.cold then 35 else s.idleW)
  else s.slicesMw k (stretched s.clk.period.toNat k) (sl.map (fun x => (x, x.expected k))) [] / 1000

/-- R394: the power-forecast message, 256 strokes from the next one on. -/
def execForecast (s : State) : Host.Outcome State Fault Refusal :=
  .next (if s.bu.ready then
      s.sendAsync 0x09 (natBytes 8 (s.clk.stroke.toNat + 1) ++ natBytes 2 s.clk.period.toNat ++ natBytes 1 s.clk.k.toNat ++ natBytes 1 0 ++
        natBytes 2 256 ++ natBytes 2 0 ++ (List.range 256).flatMap (fun i => natBytes 2 (satTo 16 (s.forecastW i))))
    else s)

/-! ### Droop and heat (R396, R397) -/

/-- R45, R391, R396: a droop response begins in region `r`, or its level changes; where a supply also lies below its new voltage, the
larger stretch is the one. -/
def execDroopResponse (r : Fin 64) (below : Nat) (s : State) : Host.Outcome State Fault Refusal :=
  .next (s.droopAt r.val (max below (s.supplyLow r.val)))

/-- R45, R391, R396, R413: a droop response ends, once the supply has come within 25 mV of its voltage: the record carries the stretched
cycles, which are sampled. A region power-gated meanwhile records nothing. -/
def execDroopEnd (r : Fin 64) (cycles : Nat) (s : State) : Host.Outcome State Fault Refusal :=
  .next (if s.pw.droop.get 0 r.val = 0 || droopLevel (s.supplyLow r.val) != 0 then s
    else
      let t := s.onPw (fun w => { w with droop := w.droop.put 0 r.val 0 })
      if s.regionIdle r.val ≥ 2 then t
      else (t.note (regionUid r.val) 0x14 [(24, cycles % 2 ^ 64)]).onDp (fun e => sample e 2 0 (regionUid r.val) cycles))

/-- R45: a record of the router of region `r`, which writes none while it is power-gated. -/
def State.regionNote (s : State) (r code : Nat) (pay : List (Nat × Nat)) : State :=
  if s.regionIdle r ≥ 2 then s else s.note (regionUid r) code pay

/-- R45, R397: one region's sample: emergency at 105 °C until 100 °C, with its records and CAUSE THERMAL. -/
def State.heatRegion (s : State) (r t : Nat) : State :=
  let on := s.pw.emerg.contains r
  let s := { s with pw := { s.pw with tj := s.pw.tj.put 0 r (BitVec.ofNat 8 (satTo 8 t)) } }
  if t ≥ 105 then
    let s := s.causeRegion r 0
    if on then s
    else ({ s with pw := { s.pw with emerg := NSet.add s.pw.emerg r, therm := true } }).regionNote r 0x26 [(24, satTo 8 t), (25, 0)]
  else if on && t ≤ 100 then
    ({ s with pw := { s.pw with emerg := NSet.del s.pw.emerg r } }).regionNote r 0x26 [(24, t), (25, 1)]
  else if on then s.causeRegion r 0
  else s

/-- R397, R428: a region at 115 °C: the stroke is voided, every region power-gated, THERMTRIP_N low, a class 6 fault raised. -/
def State.thermalTrip (s : State) (r t : Nat) : State :=
  if s.pw.tripped then s
  else
    let s := s.regionNote r 0x26 [(24, satTo 8 t), (25, 2)]
    let s := s.onDp (fun e d => raiseFault e 6 3 (regionUid r) 0 (voidStroke e 3 d))
    ({ s with pw := { s.pw with tripped := true, mv := [], uv := [] }, bu := { s.bu with thermTrip := true } }).abortTests.settleStop

/-- R397, R398: the junction sensors of the 64 regions and the coolant inlet, °C; T_in is filtered with a 10 s time constant. -/
def execThermalSample (tj : List Nat) (coolant : Nat) (s : State) : Host.Outcome State Fault Refusal :=
  let s := { s with pw := { s.pw with tinAcc := s.pw.tinAcc - s.pw.tinAcc / 5000000 + coolant } }
  let s := (List.range 64).foldl (fun (s : State) r => s.heatRegion r (tj.getD r 0)) s
  .next (match (List.range 64).find? (fun r => decide (tj.getD r 0 ≥ 115)) with
    | some r => s.thermalTrip r (tj.getD r 0)
    | none => s)

/-! ### Idle states (R399–R401) -/

/-- R400: partition `p` may enter state `st`: idle, one state above it, permitted, and not waking. -/
def State.mayIdle (s : State) (p st : Nat) : Bool :=
  (s.getPartn p).dies != 0 && s.partIdle p && s.idleOf p + 1 == st && decide (st ≤ deepest (s.getPartn p).lat.toNat) &&
    (s.pw.waking.get none p).isNone

/-- R400: after 10 µs idle, Glow. -/
def execIdleGlowEntry (p : Fin 4) (s : State) : Host.Outcome State Fault Refusal :=
  .next (if s.mayIdle p.val 1 then s.enterIdle p.val 1 else s)

/-- R400: after a further 1 ms, Banked. -/
def execIdleBankedEntry (p : Fin 4) (s : State) : Host.Outcome State Fault Refusal :=
  .next (if s.mayIdle p.val 2 then s.enterIdle p.val 2 else s)

/-- R39, R343: COLD goes out on every port that is not DOWN; then the port is DOWN, and nothing on it is in flight any more. -/
def Port.goCold (x : Port) : Port :=
  if x.state == .down || x.state == .unused then x else { x.cut with state := .down, coldSeen := false, coldSent := true }
def State.portsCold (s : State) : State :=
  { s with torus := { s.torus with ports := s.torus.ports.map (fun (x : Nat × Port) => (x.1, x.2.goCold)) } }

/-- R39: the package leaves the stroke domain. DESIGN CHOICE (entry 90): a member's lock is ACQUIRE from then on. -/
def State.leaveStrokes (s : State) : State :=
  let s := if s.clk.role.isRoot then s else s.setLock .acquire
  { s with clk := { s.clk with joined := false, kids := [], kidDone := [], kidNext := [], own := 0, sent := none, go := none } }

/-- R400: everything is Banked and idle, every partition permits Cold, and the management controller has consented. -/
def State.mayCold (s : State) : Bool :=
  s.pw.coldOk && !s.pw.cold && ((List.range 4).filter (fun p => (s.getPartn p).dies != 0)).all (fun p =>
    s.partIdle p && s.idleOf p == 2 && deepest (s.getPartn p).lat.toNat == 3 && (s.pw.waking.get none p).isNone)

/-- R39, R101, R343, R400, R416: with consent and everything Banked for 100 ms, the package enters Cold: COLD goes out on each port,
ports and edges go down, SRAM, accumulators, buffers and trace rings are lost, and the stroke domain is left. -/
def execColdEntry (s : State) : Host.Outcome State Fault Refusal :=
  .next (if s.mayCold then
      let was := s.regionIdles
      let pk := s.pkgIdle
      let s := s.portsCold.leaveStrokes
      let m := s.dp.mem
      let m := { m with cells := m.cells.filter (fun x => decide (x.1 < 2 ^ 40)), marks := m.marks.filter (fun x => decide (x.1 < 2 ^ 34)) }
      let s := { s with edge := { s.edge.all .down with present := 0 }, dp := { s.dp with mem := m, log := { s.dp.log with rings := [], snap := [] } } }
      (s.onPw (fun w => { w with cold := true, idle := (List.range 4).foldl (fun (t : Tab Nat) p =>
        if (s.getPartn p).dies = 0 then t else t.put 0 p 3) w.idle })).idleChange was pk
    else s)

/-- R39, R343: a package that has woken from Cold rejoins the torus: its ports with a neighbour train. -/
def State.rejoin (s : State) : State :=
  { s with torus := (List.range 24).foldl (fun (t : Torus) p =>
      if t.nbValid (p % 6) then t.setPort p (fun x => if x.state == .down then { x with state := .training } else x) else t) s.torus }

/-- R39, R401: the wake time has passed: the partition stands in the state it woke to, its regions record what they left. From Cold this
waits for every edge to be LIVE, the other partitions stand in Banked, and the ports train again. -/
def execWakeComplete (p : Fin 4) (s : State) : Host.Outcome State Fault Refusal :=
  .next (match s.pw.waking.get none p.val with
    | none => s
    | some dst =>
      if s.pw.cold && !((List.range 8).all (fun i => (s.edge.ends.get {} i).state == .live)) then s
      else
        let t := s.onPw (fun w => { w with cold := false, waking := w.waking.put none p.val none, fromIdle := w.fromIdle || dst == 0,
                                           idle := Tab.put 0 (if w.cold then w.idle.map (fun (x : Nat × Nat) => (x.1, min x.2 2)) else w.idle) p.val dst })
        let t := t.idleChange s.regionIdles s.pkgIdle
        if s.pw.cold then t.rejoin.tryClose else t)

/-- R401: a management request wakes a partition. -/
def execManagementWake (p : Fin 4) (s : State) : Host.Outcome State Fault Refusal := .next (s.wake p.val 0)

/-- R403, R481: POWER_CFG sets cap, ramp, floor, Cold consent and the self-test budget; a cap above PWR.DESIGN_W is invalid. -/
def execPowerCfg (tag : BitVec 16) (pl : List Byte) (s : State) : Host.Outcome State Fault Refusal :=
  .next (s.request 0x08 10 tag pl (fun s =>
    if plAt pl 0 2 > 2600 then s.respond 0x08 msBadField tag []
    else
      ({ s with pw := { s.pw with cap := BitVec.ofNat 16 (plAt pl 0 2), ramp := BitVec.ofNat 16 (plAt pl 2 2),
                                  floorW := BitVec.ofNat 16 (plAt pl 4 2), coldOk := plAt pl 6 2 != 0 },
                st := { s.st with budget := BitVec.ofNat 16 (plAt pl 8 2) } }).respond 0x08 msOk tag []))

end Sys2Proof.Machine
end

