-- ==== Sys2Proof/Machine/SelfTest.lean ====
section
/-! DEFINITION. Meanings of the self-test commands (19_lifecycle_security_selftest.md R458–R468). -/

namespace Sys2Proof.Machine

/-! ### Requests (R137, R458, R459) -/

/-- R458: work of a test, ns. -/
def testNs : Nat → Nat
  | 0x01 => 1200000 | 0x02 => 4000000 | 0x03 => 2400000 | 0x04 => 900000 | 0x10 => 800000000 | 0x11 => 10000000 | 0x20 => 50000000
  | 0x30 => 200000000 | _ => 0

/-- R458: a test is suited to the class of a block. -/
def testSuits (code u : Nat) : Bool :=
  if 1 ≤ code && code ≤ 4 then isRouter u
  else if code = 0x10 || code = 0x11 then isHbmc u
  else if code = 0x20 then isPortUnit u
  else code == 0x30 && (isRouter u || isHbmc u)

/-- R26, R27: an identifier that names a unit or block of the package. -/
def unitExists (u : Nat) : Bool :=
  isStreamUnit u || isRouter u || isHbmc u || isPortUnit u ||
    (decide (u < 0x10000) && (u / 0x2000) % 2 == 1 &&
      ((uidClass u == 4 && decide (u % 256 ≤ 1)) || (uidClass u == 6 && u % 256 == 0) ||
        (decide (uidDie u = 0) && (uidClass u == 7 || uidClass u == 8) && u % 256 == 0)))

/-- The partition of the block's die runs a launch. -/
def State.testLaunched (s : State) (u : Nat) : Bool :=
  match s.partOfDie (uidDie u) with
  | some p => (s.getPartn p).launch.isSome
  | none => false

/-- R159: the stroke in progress is a service stroke that names region `r`. -/
def State.servicedRegion (s : State) (r : Nat) : Bool :=
  match s.partOfDie (r / 16) with
  | some p => s.serviced p r
  | none => false

/-- R461: where passes of the stroke in progress must stop: S + P′ − CW − 40 µs. -/
def State.passEnd (s : State) : Nat := s.clk.sstart.toNat + stretched s.clk.period.toNat s.clk.k.toNat - s.clk.cwNs.toNat - 40000

/-- R465: power of the tests powered, W; whether one more fits the budget; the earliest power-up the spacing allows. -/
def St.usedW (t : St) : Nat := ((t.tests.filter (fun x => x.powered)).map (fun x => testWatts x.code)).foldl (· + ·) 0
def State.budgetOk (s : State) (code : Nat) : Bool := decide (s.st.usedW + testWatts code ≤ s.st.budget.toNat)
def State.upAt (s : State) (code : Nat) : Nat :=
  if s.st.lastUp = 0 || s.pw.ramp = 0 then s.clk.tb.toNat
  else max s.clk.tb.toNat (s.st.lastUp - 1 + testWatts code * 1000000 / s.pw.ramp.toNat)

/-- R461: when a pass under a launch would power up, and whether it can within its window. -/
def State.passAt (s : State) (code : Nat) : Nat := max (s.upAt code) (s.clk.sstart.toNat + 10000)
def State.passFits (s : State) (code : Nat) : Bool := s.budgetOk code && decide (s.passAt code + 20000 < s.passEnd)

/-- R459: the reason a test is refused for, in order; none: accepted. -/
def State.testRefusal (s : State) (u code : Nat) : Option Nat :=
  let launched := s.testLaunched u
  let region := isRouter u
  let stack := isHbmc u
  if s.sec.lc = 1 && code = 2 then some 1
  else if s.st.tests.any (fun t => t.unit == u) then some 3
  else if region && launched && !(decide (code ≤ 3) && s.servicedRegion (regionOf u) && s.regionIdle (regionOf u) == 2) then some 2
  else if stack && s.launched then some 2
  else if stack && s.torus.srcDir != 7 then some 5
  else if isPortUnit u && !([PortState.down, .failed, .unused].contains (s.torus.port (6 * uidDie u + u % 256)).state) then some 4
  else if region && launched && !(s.passFits code) then some 6
  else none

/-- R463, R465: tests without a launch power up in the order they were accepted, as far as budget and spacing allow. -/
def State.powerTests (s : State) : State :=
  match s.st.tests.find? (fun t => !t.powered && !(t.underLaunch && s.testLaunched t.unit)) with
  | none => s
  | some t =>
    if s.budgetOk t.code && decide (s.upAt t.code ≤ s.clk.tb.toNat) then
      s.setTests { s.st with lastUp := s.clk.tb.toNat + 1,
                             tests := s.st.tests.map (fun x => if x.unit = t.unit then { x with powered := true } else x) }
    else s

/-- R401, R459: a SELFTEST on a unit of partition `p`'s dies wakes the partition; one that runs a launch is awake. -/
def State.testWakes (s : State) (u : Nat) : State :=
  match s.partOfDie (uidDie u) with
  | some p => if s.testLaunched u then s else s.wake p 0
  | none => s

/-- R459: a request is decided: refused with its reason, or accepted. -/
def State.decideTest (s : State) (q seq u code : Nat) : State :=
  let s := s.testWakes u
  match s.testRefusal u code with
  | some r =>
    ({ s with st := { s.st with refuse := satAdd s.st.refuse 1 } }).finish q seq stBusy 0 (BitVec.ofNat 64 (r * 256))
  | none =>
    let under := isRouter u && s.testLaunched u
    let s := s.markStarted q seq
    let t : Test := { q := q, seq := seq, unit := u, code := code, passes := 0, underLaunch := under, left := testNs code, powered := false,
                      passAt := none }
    ({ s with st := { s.st with tests := s.st.tests ++ [t] } } : State).powerTests

/-- R137, R458, R459: SELFTEST with TEST `code` starts: BAD_FIELD, a wait for S+10 µs, or its decision. -/
def State.selftest (s : State) (q seq code : Nat) : State :=
  s.onDesc q seq 0x34
    (fun d => [(64, !(unitExists (bits d 64 16))), (80, !(testSuits (bits d 80 8) (bits d 64 16))), (88, anyBits d 88 424)])
    (fun d s =>
      let u := bits d 64 16
      if bits d 80 8 != code then s
      else if s.st.undecided.any (fun x => x.q == q && x.seq == seq) then s
      else if isRouter u && s.testLaunched u && s.servicedRegion (regionOf u) && decide (s.clk.tb.toNat < s.clk.sstart.toNat + 10000) then
        { s with st := { s.st with undecided := s.st.undecided ++ [⟨q, seq, u, code⟩] } }
      else s.decideTest q seq u code)

def execLogic (q : Fin 81) (seq : Nat) (s : State) : Host.Outcome State Fault Refusal := .next (s.selftest q.val seq 0x01)
def execScandump (q : Fin 81) (seq : Nat) (s : State) : Host.Outcome State Fault Refusal := .next (s.selftest q.val seq 0x02)
def execSramT (q : Fin 81) (seq : Nat) (s : State) : Host.Outcome State Fault Refusal := .next (s.selftest q.val seq 0x03)
def execSramM (q : Fin 81) (seq : Nat) (s : State) : Host.Outcome State Fault Refusal := .next (s.selftest q.val seq 0x04)
def execHbmMarch (q : Fin 81) (seq : Nat) (s : State) : Host.Outcome State Fault Refusal := .next (s.selftest q.val seq 0x10)
def execHbmRow (q : Fin 81) (seq : Nat) (s : State) : Host.Outcome State Fault Refusal := .next (s.selftest q.val seq 0x11)
def execPortLoop (q : Fin 81) (seq : Nat) (s : State) : Host.Outcome State Fault Refusal := .next (s.selftest q.val seq 0x20)
def execRepair (q : Fin 81) (seq : Nat) (s : State) : Host.Outcome State Fault Refusal := .next (s.selftest q.val seq 0x30)

/-! ### Passes and deferred starts (R461, R462, R465) -/

/-- R461, R462: in a service stroke that names region `r`, the test under its launch powers up within its window and works until it
finishes or the window ends; without budget or spacing the pass moves to the next such stroke. -/
def execSelftestPass (r : Fin 64) (s : State) : Host.Outcome State Fault Refusal :=
  let u := regionUid r.val
  .next (match s.st.tests.find? (fun t => t.unit == u && t.underLaunch) with
    | none => s
    | some t =>
      let ran := match t.passAt with
        | some (n, _) => n == s.clk.stroke
        | none => false
      if t.powered || ran || t.left = 0 || !(s.testLaunched u) || !(s.servicedRegion r.val) || s.dp.fr.voided || !(s.passFits t.code) then s
      else
        let at_ := s.passAt t.code
        let work := min t.left (s.passEnd - (at_ + 20000))
        (s.advance at_).setTests { s.st with
          lastUp := at_ + 1,
          tests := s.st.tests.map (fun x => if x.unit = u then
            { x with powered := true, passes := x.passes + 1, left := x.left - work, passAt := some (s.clk.stroke, x.left) } else x) })

/-- R459, R465: a request that waits for S+10 µs is decided; else the oldest waiting test powers up once budget and spacing allow. -/
def execSelftestDeferredStart (u : BitVec 16) (s : State) : Host.Outcome State Fault Refusal :=
  .next (match s.st.undecided.find? (fun x => x.unit == u.toNat) with
    | some x =>
      let s := s.advance (s.clk.sstart.toNat + 10000)
      ({ s with st := { s.st with undecided := s.st.undecided.filter (fun y => !(y.q == x.q && y.seq == x.seq)) } }).decideTest
        x.q x.seq x.unit x.code
    | none =>
      match s.st.tests.find? (fun t => !t.powered && !(t.underLaunch && s.testLaunched t.unit)) with
      | some t => if t.unit = u.toNat && s.budgetOk t.code then (s.advance (s.upAt t.code)).powerTests else s
      | none => s)

/-! ### The end of a test (R460, R464, R466, R468) -/

/-- Fields of a result-log entry. -/
def lgUnit (x : BitVec 256) : Nat := bits x 32 16
def lgKind (x : BitVec 256) : Nat := bits x 56 8
def lgAddr (x : BitVec 256) : Nat := bits x 64 64
def lgState (x : BitVec 256) : Nat := bits x 192 8
def lgSeq (x : BitVec 256) : BitVec 32 := x.extractLsb' 0 32

/-- R464, R466: the findings of a test are logged: open, or not repairable for logic. -/
def logFindings (u code : Nat) (l : List Finding) (r : RLog) : RLog :=
  l.foldl (fun (r : RLog) f => logEntry u code f.kind.val f.addr f.bits (if f.kind.val = 4 then 3 else 0) 0 r) r

/-- R466: slots of the open entries of unit `u` still in the log, in ascending SEQ. -/
def RLog.openSlots (r : RLog) (u : Nat) : List Nat :=
  ((List.range 64).map (fun i => ((r.head.toNat + i) % 64))).filter (fun k =>
    let x := r.slots.get 0 k
    x != 0 && lgUnit x == u && lgState x == 0)

/-- R468: one entry is repaired with a spare line of its bank, or a spare row of its stack; none left: state 2. -/
def repairEntry (u k : Nat) (a : St × RLog × Bool) : St × RLog × Bool :=
  let x := a.2.1.slots.get 0 k
  let set := fun (v : Nat) => { a.2.1 with slots := a.2.1.slots.put 0 k (BitVec.ofNat 256 (x.toNat + v * 2 ^ 192)) }
  if lgKind x = 2 then
    let j := stackOf u
    if a.1.usedRows.get 0 j < Config.hbmSpares j then
      ({ a.1 with usedRows := a.1.usedRows.upd 0 j (· + 1) }, set 1, a.2.2)
    else (a.1, set 2, false)
  else
    let acc := lgKind x == 1
    let key := 64 * (lgAddr x / 2 ^ 23 % 512) + clBank acc (lgAddr x % 2 ^ 23) + (if acc then 32 else 0)
    if a.1.usedLines.get 0 key < 8 then ({ a.1 with usedLines := a.1.usedLines.upd 0 key (· + 1) }, set 1, a.2.2)
    else (a.1, set 2, false)

/-- R464: memory after a test: SRAM and accumulators of a region after SRAM_M, a stack after HBM_MARCH, and the tested rows after HBM_ROW
are not defined: they read as memory that nothing has written. -/
def Dp.testMemory (d : Dp) (u code : Nat) (rows : List (BitVec 64)) : Dp :=
  let gone := fun (k : Nat) =>
    if code = 0x04 then
      decide (2 ^ 40 ≤ k) && ((decide (k < 2 ^ 40 + 2 ^ 32) && (k - 2 ^ 40) / 2 ^ 22 / 8 == regionOf u) ||
        (decide (2 ^ 40 + 2 ^ 32 ≤ k) && decide (k < 2 ^ 40 + 2 * 2 ^ 32) && (k - 2 ^ 40 - 2 ^ 32) / 2 ^ 17 / 8 == regionOf u))
    else if code = 0x10 then k / 2 ^ 36 == stackOf u
    else code == 0x11 && k / 2 ^ 36 == stackOf u && rows.contains (rowWord k)
  let m := { d.mem with cells := d.mem.cells.filter (fun x => !(gone x.1)), marks := d.mem.marks.filter (fun x => !(gone (x.1 * 64))) }
  let l := if code = 0x10 then
      { d.log with inkLine := d.log.inkLine.put 0 (stackOf u) 0, inkWraps := d.log.inkWraps.put 0 (stackOf u) 0 } else d.log
  { d with mem := m, log := l }

/-- R460, R464: a test that has done its work ends with what it found: logged or repaired, the block re-initialised, SELFTEST complete. -/
def State.endTest (s : State) (t : Test) (found : List Finding) : State :=
  let slots := s.dp.rlog.openSlots t.unit
  let rows := slots.map (fun k => BitVec.ofNat 64 (lgAddr (s.dp.rlog.slots.get 0 k)))
  let first := s.dp.rlog.head.toNat
  let fix := slots.foldl (fun a k => repairEntry t.unit k a) (s.st, s.dp.rlog, true)
  let repair := t.code == 0x30
  let n := if repair then 0 else found.length
  let res := if repair then (if fix.2.2 then 3 else 4) else if n = 0 then 0 else 1
  let rlog := if repair then fix.2.1 else logFindings t.unit t.code found s.dp.rlog
  let st := if repair then fix.1 else s.st
  let st := { st with tests := s.st.tests.filter (fun x => x.unit != t.unit), pass := if res = 0 then satAdd st.pass 1 else st.pass,
                      fail := if res = 1 then satAdd st.fail 1 else st.fail }
  let d := ({ s.dp with rlog := rlog }.testMemory t.unit t.code rows).reinit t.unit
  let s := (({ s with dp := d }).setTests st).finish t.q t.seq stOk 0 (testValue res t.passes n (if n = 0 then 0 else first))
  s.powerTests

/-- R461, R464: a test ends: under a launch when no work is left, else when it has been powered. -/
def execSelftestEnd (u : BitVec 16) (found : List Finding) (s : State) : Host.Outcome State Fault Refusal :=
  .next (match s.st.tests.find? (fun t => t.unit == u.toNat) with
    | none => s
    | some t =>
      if (if t.underLaunch && s.testLaunched t.unit then t.left == 0 else t.powered) then s.endTest t found else s)

end Sys2Proof.Machine
end

