-- ==== Sys2Proof/Machine/RegMap.lean ====
section
/-! DEFINITION. What every setup-space register reads as (the register maps of each chapter; 20_board_and_bringup.md R489): the 32-bit word
at an offset, under the selection registers in force. -/

namespace Sys2Proof.Machine

/-! ### Codes of states -/

/-- R490: BU_STAT.STAGE. -/
def Stage.code : Stage → Nat
  | .rom => 0 | .fwcheck => 1 | .waitEn => 2 | .rails => 3 | .train => 4 | .ready => 5 | .romHold => 6 | .defect => 7
/-- R344: LK_STAT.STATE. -/
def PortState.code : PortState → Nat
  | .down => 0 | .training => 1 | .live => 2 | .lock => 3 | .failed => 4 | .miswired => 5 | .unused => 6
/-- R381: DD_STAT.STATE. -/
def EdgeState.code : EdgeState → Nat
  | .down => 0 | .training => 1 | .live => 2 | .lock => 3 | .fenced => 4 | .defect => 5
/-- R290: TS_STAT.GATE. -/
def Gate.code : Gate → Nat
  | .opened => 0 | .clear => 1 | .set => 2

/-- The low and high 32 bits of a 64-bit value. -/
def lo32 (v : Nat) : Nat := v % 2 ^ 32
def hi32 (v : Nat) : Nat := v / 2 ^ 32 % 2 ^ 32

/-! ### Bring-up, faults, lifecycle, self-test -/

/-- R490: the bring-up block. -/
def Bu.reg (b : Bu) : Nat → Nat
  | 0x00 => b2n b.mainOn + 2 * b2n b.refOk + 4 * b2n b.vinLo + 8 * b2n b.vinHi + 256 * b.stage.code
  | 0x04 => b.vin.toNat * 2 ^ 16 + b.iin.toNat
  | 0x08 => b.slot.toNat
  | 0x0C => b.rstCause.toNat
  | 0x10 => b.bootMs.toNat
  | _ => 0

/-- R445: FR_STAT. -/
def Fr.stat (f : Fr) : Nat :=
  b2n f.hold + 2 * b2n f.replay + 4 * b2n f.restoring + 8 * b2n f.regen + 16 * b2n f.newRep + 32 * b2n f.multi

/-- R445: the fault block. -/
def Fr.reg (f : Fr) : Nat → Nat
  | 0x00 => f.stat
  | 0x04 => b2n f.restore + 2 * b2n f.spare
  | 0x08 => f.last.toNat
  | 0x0C => f.count.toNat
  | 0x10 => f.rsplit.toNat * 2 ^ 16 + f.rbase.toNat
  | 0x14 => f.xbase.toNat
  | 0x18 => f.xstride.toNat
  | 0x1C => lo32 f.recpt.toNat
  | 0x20 => hi32 f.recpt.toNat
  | 0x24 => f.replayCnt.toNat
  | 0x28 => f.rollbackCnt.toNat
  | 0x2C => f.restoredCnt.toNat
  | _ => 0

/-- R446, R469: the lifecycle block (BANK names the bank booted). -/
def Sec.reg (c : Sec) : Nat → Nat
  | 0x00 => c.lc.toNat + 8 * c.pend.toNat + 64 * b2n c.idKey + 128 * b2n c.debugOpen + 256 * c.keyPres.toNat + 4096 * c.keyRev.toNat
  | 0x04 => c.svn.toNat + c.fwSvn.toNat * 2 ^ 16
  | 0x08 => c.fwAct.toNat
  | 0x0C => c.fwStg.toNat
  | 0x10 => lo32 Config.serial.toNat
  | 0x14 => hi32 Config.serial.toNat
  | 0x18 => b2n c.booted + 2 * b2n c.fallback + 4 * b2n c.armed
  | _ => 0

/-- R470: torus ports under test. -/
def St.ports (t : St) : Nat :=
  t.tests.foldl (fun b x => if x.powered && isPortUnit x.unit then b ||| 2 ^ (6 * uidDie x.unit + x.unit % 256) else b) 0

/-- R470: the self-test block. -/
def State.stReg (s : State) : Nat → Nat
  | 0x00 => b2n (s.st.tests.any (fun x => x.powered)) + 2 * b2n (s.st.tests.any (fun x => !x.powered)) + 256 * (s.st.tests.length % 256)
  | 0x04 => s.st.budget.toNat + satTo 16 s.st.usedW * 2 ^ 16
  | 0x08 => lo32 s.st.isoRegions.toNat
  | 0x0C => hi32 s.st.isoRegions.toNat
  | 0x10 => s.st.isoStacks.toNat
  | 0x14 => s.st.ports
  | 0x18 => s.dp.rlog.head.toNat
  | 0x1C => s.st.pass.toNat
  | 0x20 => s.st.fail.toNat
  | 0x24 => s.st.refuse.toNat
  | _ => 0

/-! ### Power and observability -/

/-- R403: the highest 2 µs estimate of the trailing 500 ms. -/
def Pw.peak (w : Pw) : Nat := w.peaks.foldl (fun m x => max m x.2) 0

/-- R403: PW_IDLE. -/
def State.pwIdle (s : State) : Nat :=
  s.idleOf 0 + 4 * s.idleOf 1 + 16 * s.idleOf 2 + 64 * s.idleOf 3 + 256 * s.pkgIdle

/-- R403: PW_STAT. -/
def Pw.stat (w : Pw) : Nat :=
  b2n w.seeded + 2 * b2n w.noFit + 4 * b2n w.clampF + 8 * b2n w.therm + 16 * b2n w.floorShort + 32 * b2n w.rampVF + 64 * b2n w.trimLim +
    128 * b2n w.coldOk

/-- R403: the power block. -/
def State.pwReg (s : State) : Nat → Nat
  | 0x00 => s.pw.sel.toNat
  | 0x04 => s.pw.stat
  | 0x08 => s.pw.cap.toNat + s.pw.capEff * 2 ^ 16
  | 0x0C => s.pw.ramp.toNat + s.pw.floorW.toNat * 2 ^ 16
  | 0x10 => s.pw.est.toNat + s.pw.meas.toNat * 2 ^ 16
  | 0x14 => satTo 16 s.pw.usedUs + satTo 16 s.pw.peak * 2 ^ 16
  | 0x18 => satTo 16 (s.pw.refMw / 1000) + satTo 16 (s.pw.meanMw / 1000) * 2 ^ 16
  | 0x1C => s.pw.opp.get 0 0 + 16 * s.pw.opp.get 0 1 + 256 * s.pw.opp.get 0 2 + 4096 * s.pw.opp.get 0 3 + s.pw.kreq.toNat * 2 ^ 16
  | 0x20 => s.pwIdle
  | 0x24 => (s.getPartn (bits s.pw.sel 8 2)).lat.toNat
  | 0x28 =>
    let r := bits s.pw.sel 0 6
    (s.pw.tj.get 0 r).toNat + s.supplyMv r * 2 ^ 8 + Config.regionFmax r * 2 ^ 20
  | 0x2C => s.pw.tjMax.1 + s.pw.tjMax.2 * 2 ^ 8 + satTo 8 s.pw.tin * 2 ^ 16
  | 0x30 => s.pw.droopCnt.toNat
  | 0x34 => s.pw.clampCnt.toNat
  | 0x38 => s.pw.rampVCnt.toNat
  | 0x3C => s.pw.fcastW.toNat + b2n s.pw.fcastSeed * 2 ^ 16
  | _ => 0

/-- R404: the OPP table. -/
def oppReg (o : Nat) : Nat := (oppTab.getD o (0, 0)).1 * 2 ^ 16 + (oppTab.getD o (0, 0)).2

/-- R402, R405: entry `n` of the energy table, µJ. -/
def Energy.entry (e : Energy) (n : Nat) : Nat :=
  let pj := if n = 0 then e.unattrib + e.part.get 0 0 + e.part.get 0 1 + e.part.get 0 2 + e.part.get 0 3
    else if n = 1 then e.unattrib
    else if n ≤ 5 then e.part.get 0 (n - 2)
    else if 8 ≤ n && n ≤ 23 then e.queue.get 0 (n - 8)
    else 0
  pj / 1000000 % 2 ^ 64

/-- R423: EV_STAT. -/
def Log.stat (l : Log) : Nat := b2n l.ready + 2 * b2n (decide (l.held.length = 512)) + 4 * b2n l.ovldF + 8 * b2n l.hdropF

/-- R423: the Scroll block; EV_HACK is write-only. -/
def Log.evReg (l : Log) : Nat → Nat
  | 0x00 => l.holdSev.toNat + 16 * l.irqSev.toNat + 256 * l.fillLog2.toNat + l.hperiod.toNat * 2 ^ 16
  | 0x04 => l.stat
  | 0x08 => l.head.toNat
  | 0x0C => l.cursor.toNat
  | 0x10 => l.mark.toNat
  | 0x18 => l.held.length
  | 0x1C => l.ovld.toNat
  | 0x20 => l.hdrop.toNat
  | 0x24 => l.supp.toNat
  | _ => 0

/-- R424: the trace block. -/
def Log.trReg (l : Log) : Nat → Nat
  | 0x00 => l.trSel.toNat
  | 0x04 => b2n l.freeze + 2 * b2n l.spill + 4 * b2n l.spillPorts + 256 * l.classes.toNat
  | 0x08 => b2n l.frozen + 2 * b2n l.auto + 4 * b2n l.snapBad
  | 0x0C => lo32 l.snapTs.toNat
  | 0x10 => hi32 l.snapTs.toNat
  | 0x14 => l.spillDrop.toNat
  | 0x18 => l.inkStack.toNat + l.inkOff.toNat * 2 ^ 11
  | 0x1C => (l.inkLine.get 0 l.inkStack.toNat).toNat + (l.inkWraps.get 0 l.inkStack.toNat).toNat * 2 ^ 24
  | _ => 0

/-! ### Units -/

/-- R196, R243, R244: INDEX, OPC, ENTRY of the first invalid instruction. -/
def Unit.first (x : Unit) : Nat := bits x.illFirst 0 16 + bits x.illFirst 16 8 * 2 ^ 16 + bits x.illFirst 24 8 * 2 ^ 24

/-- Some unit of kind `k` (R26, R27) of the package has a counter above 0. -/
def Dp.anyOf (d : Dp) (k : Nat) (f : Sticky → BitVec 32) : Bool := d.units.any (fun x => unitKind x.1 == k && f x.2.sticky != 0)

/-- A measuring counter of unit `u`. -/
def Dp.perfOf (d : Dp) (u off : Nat) : Nat := ((d.getUnit u).perf.get 0 off).toNat

/-- ENGINE_CTL has not disabled the unit (R142). -/
def Dp.enabled (d : Dp) (u : Nat) : Nat := b2n (!(d.getUnit u).disabled)

/-- R425: the digest block. -/
def State.dgReg (s : State) (o : Nat) : Nat :=
  let c := s.hp.sels.dg.toNat
  let u := cuid c 4 0
  let slot := fun k => b2n (s.dp.dgu.get {} (4 * c + k)).opened
  match o with
  | 0x00 => c
  | 0x04 => s.dp.enabled u + 4 * slot 0 + 8 * slot 1 + 16 * slot 2 + 32 * slot 3
  | 0x08 => (s.dp.getUnit u).sticky.ill.toNat
  | 0x0C => (s.dp.getUnit u).first
  | 0x10 => s.dp.perfOf u 0x10
  | 0x14 => b2n (s.dp.anyOf 4 (·.ill))
  | _ => 0

/-- R196: the matrix-array block. FILLER shows while Damper runs filler in the cluster's region; BUSY never shows, since a command takes effect in
one step (log 20). -/
def State.mxReg (s : State) (o : Nat) : Nat :=
  let c := s.hp.sels.mx.toNat
  let u := cuid c 0 0
  let x := s.dp.getUnit u
  let m := s.dp.mxa.get {} c
  match o with
  | 0x00 => c
  | 0x04 => s.dp.enabled u + 4 * b2n (s.pw.fillRegions.contains (c / 8) && s.dp.enabled u == 1) + 8 * b2n m.buf0.loaded + 16 * b2n m.buf1.loaded
  | 0x08 => x.sticky.nan.toNat
  | 0x0C => x.sticky.inf.toNat
  | 0x10 => x.sticky.ill.toNat
  | 0x14 => x.first
  | 0x18 => s.dp.perfOf u 0x18
  | 0x1C => s.dp.perfOf u 0x1C
  | 0x20 => s.dp.perfOf u 0x20
  | 0x24 => b2n (s.dp.anyOf 0 (·.nan)) + 2 * b2n (s.dp.anyOf 0 (·.inf)) + 4 * b2n (s.dp.anyOf 0 (·.ill))
  | _ => 0

/-- R164, R231: the cluster clears zero-fill pieces: its die's launch is not yet cleared. -/
def State.zeroing (s : State) (c : Nat) : Bool :=
  match s.env.ofDie (c / 128) with
  | some p => p.zeroing
  | none => false

/-- R243: the Slant block. A channel has an instruction in flight while one waits, or while lines it sent are not acknowledged. -/
def State.sdReg (s : State) (o : Nat) : Nat :=
  let c := s.hp.sels.sd.toNat
  let u := cuid c 3 s.hp.sels.sdCh.toNat
  let busy := fun k =>
    let x := s.dp.getUnit (cuid c 3 k)
    b2n (x.held || x.awaitExt || s.torus.awaits.any (fun a => a.unit == cuid c 3 k))
  match o with
  | 0x00 => c + s.hp.sels.sdCh.toNat * 2 ^ 16
  | 0x04 => (List.range 8).foldl (fun a k => a + s.dp.enabled (cuid c 3 k) * 2 ^ k + busy k * 2 ^ (8 + k)) 0 + b2n (s.zeroing c) * 2 ^ 16
  | 0x08 => (s.dp.getUnit u).sticky.ill.toNat
  | 0x0C => (s.dp.getUnit u).first
  | 0x10 => s.dp.perfOf u 0x10
  | 0x14 => s.dp.perfOf u 0x14
  | 0x18 => s.dp.perfOf u 0x18
  | 0x1C => s.dp.perfOf u 0x1C
  | 0x20 => b2n (s.dp.anyOf 3 (·.ill))
  | _ => 0

/-- R244: the TFE block. -/
def State.tfReg (s : State) (o : Nat) : Nat :=
  let c := s.hp.sels.tf.toNat
  let u := cuid c 2 0
  let x := s.dp.getUnit u
  match o with
  | 0x00 => c
  | 0x04 => s.dp.enabled u
  | 0x08 => x.sticky.nanw.toNat
  | 0x0C => x.sticky.ovfw.toNat
  | 0x10 => x.sticky.ill.toNat
  | 0x14 => x.first
  | 0x18 => s.dp.perfOf u 0x18
  | 0x1C => s.dp.perfOf u 0x1C
  | 0x20 => s.dp.perfOf u 0x20
  | 0x24 => b2n (s.dp.anyOf 2 (·.nanw)) + 2 * b2n (s.dp.anyOf 2 (·.ovfw)) + 4 * b2n (s.dp.anyOf 2 (·.ill))
  | _ => 0

/-- R270: the tile-vector-engine block. -/
def State.tvReg (s : State) (o : Nat) : Nat :=
  let c := s.hp.sels.tv.toNat
  let u := cuid c 1 0
  let x := s.dp.getUnit u
  let b := s.dp.brush.get {} c
  match o with
  | 0x00 => c
  | 0x04 => s.dp.enabled u + 4 * b2n (!b.loops.isEmpty) + b.pvl.toNat % 512 * 2 ^ 16
  | 0x08 => x.sticky.nanw.toNat
  | 0x0C => x.sticky.ovfw.toNat
  | 0x10 => x.sticky.ill.toNat
  | 0x14 => bits x.illFirst 24 9 + bits x.illFirst 0 16 * 2 ^ 16
  | 0x18 => bits x.illFirst 16 8
  | 0x1C => x.sticky.oor.toNat
  | 0x20 => x.sticky.invop.toNat
  | 0x24 => s.dp.perfOf u 0x24
  | 0x28 => s.dp.perfOf u 0x28
  | 0x2C => b2n (s.dp.anyOf 1 (·.nanw)) + 2 * b2n (s.dp.anyOf 1 (·.ovfw)) + 4 * b2n (s.dp.anyOf 1 (·.ill)) + 8 * b2n (s.dp.anyOf 1 (·.oor)) +
      16 * b2n (s.dp.anyOf 1 (·.invop))
  | _ => 0

/-- R317: the update-unit block. -/
def State.upReg (s : State) (o : Nat) : Nat :=
  let j := s.hp.sels.upStack.toNat
  let u := duid (j / 3) 1 (j % 3)
  let x := s.dp.getUnit u
  let b := s.dp.upu.get {} j
  let eseq := (s.dp.getPart s.hp.sels.upPart.toNat).eseq.toNat
  let own := match s.partOfDie (j / 3) with
    | some p => (s.dp.getPart p).eseq.toNat % 2
    | none => 0
  match o with
  | 0x00 => j + s.hp.sels.upPart.toNat * 2 ^ 8
  | 0x04 => s.dp.enabled u + 2 * b2n (!b.ops.isEmpty) + 4 * b2n (b.ops.any (·.since.isSome)) + 8 * b2n b.opened + 16 * own + 32 * b2n b.edropF +
      64 * b2n s.hp.sels.upCfgRej
  | 0x08 => x.sticky.nanw.toNat
  | 0x0C => x.sticky.ovfw.toNat
  | 0x10 => x.sticky.ill.toNat
  | 0x14 => x.first
  | 0x18 => s.dp.perfOf u 0x18
  | 0x1C => s.dp.perfOf u 0x1C
  | 0x20 => s.torus.embCfg.toNat &&& 0x77
  | 0x24 => lo32 eseq
  | 0x28 => hi32 eseq
  | 0x2C => s.dp.perfOf u 0x2C
  | 0x30 => s.dp.perfOf u 0x30
  | 0x34 => s.dp.perfOf u 0x34
  | 0x38 => b2n (s.dp.anyOf 6 (·.nanw)) + 2 * b2n (s.dp.anyOf 6 (·.ovfw)) + 4 * b2n (s.dp.anyOf 6 (·.ill))
  | _ => 0

/-- R368: the collective-engine block. -/
def State.flReg (s : State) (o : Nat) : Nat :=
  let i := s.hp.sels.flDie.toNat
  let u := duid i 0 0
  let x := s.dp.getUnit u
  let c := s.dp.cle.get {} i
  match o with
  | 0x00 => i + s.hp.sels.flCg.toNat * 2 ^ 8
  | 0x04 => s.dp.enabled u + 2 * b2n (!c.ops.isEmpty) + 4 * b2n c.sblast + c.ops.length % 16 * 2 ^ 8
  | 0x08 => x.sticky.nanw.toNat
  | 0x0C => x.sticky.ovfw.toNat
  | 0x10 => x.sticky.ill.toNat
  | 0x14 => x.first
  | 0x18 => x.sticky.drop.toNat
  | 0x1C => x.sticky.badix.toNat
  | 0x20 => lo32 (c.oseq.get 0 s.hp.sels.flCg.toNat).toNat
  | 0x24 => s.dp.perfOf u 0x24
  | 0x28 => s.dp.perfOf u 0x28
  | 0x2C => s.dp.perfOf u 0x2C
  | 0x30 => s.dp.perfOf u 0x30
  | 0x34 => s.dp.perfOf u 0x34
  | 0x38 => b2n (s.dp.anyOf 5 (·.nanw)) + 2 * b2n (s.dp.anyOf 5 (·.ovfw)) + 4 * b2n (s.dp.anyOf 5 (·.ill)) + 8 * b2n (s.dp.anyOf 5 (·.drop)) +
      16 * b2n (s.dp.anyOf 5 (·.badix))
  | _ => 0

/-! ### Time, contract, memory, scripts, training step -/

/-- R60: TB_STAT. -/
def Clk.stat (c : Clk) : Nat :=
  c.lock.code + 8 * b2n c.stepped + 16 * c.role.code + c.upPort.toNat * 2 ^ 16 + c.hops.toNat * 2 ^ 24

/-- R36, R60: the time and stroke block; the high words of its pairs are what the read of the low word latched. -/
def Clk.reg (c : Clk) : Nat → Nat
  | 0x00 => lo32 c.tb.toNat
  | 0x04 => hi32 c.tb.toNat
  | 0x08 => c.stat
  | 0x0C => c.trim.toNat
  | 0x10 => c.ofs.toNat
  | 0x18 => lo32 c.stroke.toNat
  | 0x1C => hi32 c.stroke.toNat
  | 0x20 => lo32 c.sstart.toNat
  | 0x24 => hi32 c.sstart.toNat
  | 0x28 => c.period.toNat + c.k.toNat * 2 ^ 16
  | 0x2C => c.cwNs.toNat + c.downNs.toNat * 2 ^ 16
  | 0x30 => c.lateCnt.toNat
  | 0x34 => c.stretchCnt.toNat
  | 0x38 => c.podSkew.toNat
  | 0x3C => c.lateMax.toNat
  | _ => 0

/-- R83, R273: the contract block of the partition TS_SEL selects. -/
def State.ctReg (s : State) (o : Nat) : Nat :=
  let q := s.dp.getPart s.hp.sels.ts.toNat
  match o with
  | 0x00 => b2n q.window + 2 * b2n q.hostWr + 4 * b2n q.seedSet + 8 * b2n q.covered + s.sec.acv.toNat * 2 ^ 16
  | 0x04 => q.winvCnt.toNat
  | 0x08 => q.winvFirst.toNat
  | 0x0C => q.hostWrCnt.toNat
  | 0x10 => bits q.seed 0 32
  | 0x14 => bits q.seed 32 32
  | 0x18 => bits q.seed 64 32
  | 0x1C => bits q.seed 96 32
  | 0x20 => lo32 q.step.toNat
  | 0x24 => hi32 q.step.toNat
  | _ => 0

/-- R111: MEM_STAT. -/
def Mem.stat (m : Mem) : Nat := b2n m.unmapped + 2 * b2n m.ue + 4 * b2n m.cfgRej + 8 * b2n m.layoutOn

/-- R111: the memory block. -/
def Mem.reg (m : Mem) : Nat → Nat
  | 0x00 => m.stat
  | 0x04 => m.localGib.toNat + m.ilv.toNat * 2 ^ 16
  | 0x08 => m.ink.toNat
  | 0x0C => m.areaStage.toNat
  | 0x10 => m.areaAcc.toNat
  | 0x14 => m.areaEmber.toNat
  | 0x18 => m.ceCnt.toNat
  | 0x1C => m.ueCnt.toNat
  | 0x20 => lo32 m.ueAddr.toNat
  | 0x24 => hi32 m.ueAddr.toNat
  | 0x28 => m.unmapCnt.toNat
  | 0x2C => m.hdmSize.toNat + m.hdmBase.toNat * 2 ^ 16
  | _ => 0

/-- R165: the state of script slot `i`. -/
def State.slotState (s : State) (i : Nat) : Nat :=
  if s.slotRuns i then 2 else if (s.scr.slots.get none i).isSome then 1 else 0

/-- R165: the script block. -/
def State.scReg (s : State) (o : Nat) : Nat :=
  let run := fun p => match (s.getPartn p).launch with
    | some l => 128 + l.slot.val
    | none => 0
  let pos := fun p => match (s.getPartn p).launch with
    | some l => (match s.imageOf l with
      | some g => l.entry % 2 ^ 16 + g.phaseOf l.entry * 2 ^ 16
      | none => 0)
    | none => 0
  match o with
  | 0x00 => (List.range 8).foldl (fun a i => a + s.slotState i * 4 ^ i) 0
  | 0x04 => (List.range 4).foldl (fun a d => a + s.scr.free d none % 256 * 256 ^ d) 0
  | 0x08 => (List.range 4).foldl (fun a p => a + run p * 256 ^ p) 0
  | 0x0C => s.scr.lastRef.toNat
  | 0x10 => pos 0
  | 0x14 => pos 1
  | 0x18 => pos 2
  | 0x1C => pos 3
  | _ => 0

/-- R290: the training-step block. -/
def State.tsReg (s : State) (o : Nat) : Nat :=
  let p := s.hp.sels.ts.toNat
  let q := s.dp.getPart p
  match o with
  | 0x00 => p
  | 0x04 => b2n (s.getPartn p).launch.isSome + 2 * b2n q.lineBad + 4 * b2n q.cfgRej + 8 * b2n q.floor + 16 * b2n q.torn + 32 * b2n q.blot +
      64 * q.gate.code
  | 0x08 => q.grow.toNat + q.lsMin.toNat * 2 ^ 8 + q.lsMax.toNat * 2 ^ 16 + q.lsInit.toNat * 2 ^ 24
  | 0x0C => lo32 q.lineAddr.toNat / 64 * 64 + b2n q.lineEn
  | 0x10 => hi32 q.lineAddr.toNat
  | 0x14 => q.ls.toNat
  | 0x18 => q.clean.toNat
  | 0x1C => q.skip.toNat
  | 0x20 => lo32 q.lastSkip.toNat
  | 0x24 => hi32 q.lastSkip.toNat
  | 0x28 => q.lateBlot.toNat
  | 0x2C => q.early.toNat
  | _ => 0

/-! ### Torus, edges, host port -/

/-- R342, R344: LK_STAT of port `p`. -/
def State.lkStat (s : State) (p : Nat) : Nat :=
  let x := s.torus.port p
  let flaps := (x.fails.filter (fun t => decide (s.clk.tb.toNat < t.toNat + 3600000000000))).length
  let width := match x.state with
    | .live => 8 | .lock => 1 | _ => 0
  x.state.code + 16 * b2n (s.torus.interPod (p % 6)) + width * 2 ^ 8 + satTo 8 flaps * 2 ^ 16

/-- R344: PL_STAT. -/
def Torus.plStat (t : Torus) : Nat :=
  b2n t.placed + 2 * b2n t.refused + 4 * b2n t.vcwRej + (t.cgs.filter (fun x => cgValid x.2)).length % 256 * 2 ^ 8 +
    (t.remap.filter (fun x => bit x.2 63)).length % 256 * 2 ^ 16

/-- R344: the torus block. -/
def State.lkReg (s : State) (o : Nat) : Nat :=
  let t := s.torus
  let p := t.sel.toNat
  let x := t.port p
  match o with
  | 0x00 => p
  | 0x04 => s.lkStat p
  | 0x08 => (List.range 24).foldl (fun a p => a + b2n ((t.port p).state == .live) * 2 ^ p) 0
  | 0x0C => x.fecce.toNat
  | 0x10 => x.badflit.toNat
  | 0x14 => x.retry.toNat
  | 0x18 => x.failCnt.toNat
  | 0x1C => x.dup.toNat
  | 0x20 => x.drop.toNat
  | 0x24 => t.vcw.toNat
  | 0x28 => b2n t.bank + (match t.commit with
    | some (n, _, _) => 2 + n.toNat % 2 ^ 16 * 2 ^ 16
    | none => 0)
  | 0x2C => t.plStat
  | 0x30 => t.coord.toNat
  | 0x34 => t.shape.toNat
  | _ => 0

/-- R381: the die-to-die block. -/
def State.ddReg (s : State) (o : Nat) : Nat :=
  let x := s.edge.ends.get {} s.edge.sel.toNat
  match o with
  | 0x00 => s.edge.sel.toNat
  | 0x04 => x.state.code
  | 0x08 => x.train.toNat
  | 0x0C => x.peer.toNat
  | 0x10 => x.crcErr.toNat
  | 0x14 => x.retry.toNat
  | 0x18 => (s.dp.edgeTx.get 0 s.edge.sel.toNat).toNat
  | 0x1C => (s.dp.edgeRx.get 0 s.edge.sel.toNat).toNat
  | 0x20 => s.edge.clkWord
  | 0x24 => s.edge.freset.toNat + 256 * b2n s.edge.defect + 512 * b2n s.dp.fr.fenced
  | _ => 0

/-- R143: HP_STAT. -/
def State.hpStat (s : State) : Nat :=
  let h := s.hp
  h.width.toNat + h.speed.toNat * 2 ^ 8 + b2n h.cacheEn * 2 ^ 16 + b2n h.memEn * 2 ^ 17 + b2n h.ide * 2 ^ 18 + b2n h.degraded * 2 ^ 19 +
    b2n h.cfgRej * 2 ^ 20 + b2n h.viral * 2 ^ 21 + b2n s.qready * 2 ^ 22

/-- R143: HP_ERR. -/
def Hp.err (h : Hp) : Nat := b2n h.errQ + 2 * b2n h.errDown + 4 * b2n h.errViral + 8 * b2n h.errIde

/-- R143: the host-port block; HP_CTL is write-only. -/
def State.hpReg (s : State) : Nat → Nat
  | 0x00 => s.hpStat
  | 0x08 => lo32 s.hp.dbBase.toNat
  | 0x0C => hi32 s.hp.dbBase.toNat
  | 0x10 => s.hp.err
  | _ => 0

/-- R144: an entry of the queue table. -/
def Queue.reg (x : Queue) : Nat → Nat
  | 0x00 => lo32 x.sqBase.toNat
  | 0x04 => hi32 x.sqBase.toNat
  | 0x08 => lo32 x.cqBase.toNat
  | 0x0C => hi32 x.cqBase.toNat
  | 0x10 => x.log2.toNat + 256 * b2n x.en + x.vector.toNat * 2 ^ 16 + x.holdoff.toNat * 2 ^ 24
  | 0x14 => b2n (x.en && !x.stopped) + 2 * b2n x.ctlOff + 4 * b2n x.overrun + 8 * b2n x.badCfg + 16 * b2n x.fetchErr
  | 0x18 => x.doneCnt % 2 ^ 32
  | _ => 0

/-- A routing-table word: four entries (R335). -/
def tabWord (t : Tab (BitVec 8)) (i : Nat) : Nat :=
  (List.range 4).foldl (fun a k => a + (t.get 0 (i + k)).toNat * 256 ^ k) 0

/-! ### Windows -/

/-- R418: the word at `o` of the inkwell window; bytes at or beyond the area's end read 0. -/
def State.inkWord (s : State) (o : Nat) : Nat :=
  let l := s.dp.log
  let at_ := l.inkOff.toNat * 2048 + o
  if at_ + 4 ≤ s.dp.mem.ink.toNat * 2 ^ 26 then readBytes s.dp.mem.cells (hbmKey l.inkStack.toNat (s.dp.mem.inkBase + at_)) 4 else 0

/-- The word at `o` of a list of 32-byte events. -/
def evWord (l : List (BitVec 256)) (o : Nat) : Nat := (lineWord (l.getD (o / 32) 0) (o % 32 / 4)).toNat

/-- R410, R416, R418, R411: the main-ring, trace and inkwell windows and the hold ring, from 0x6000 on. -/
def State.winReg (s : State) (o : Nat) : Nat :=
  let l := s.dp.log
  if o < 0x7000 then (lineWord (l.ring.get 0 ((l.cursor.toNat + (o - 0x6000) / 64) % 4096)) (o % 64 / 4)).toNat
  else if o < 0x7800 then evWord l.snap (o - 0x7000)
  else if o < 0x8000 then s.inkWord (o - 0x7800)
  else (lineWord (l.hold.get 0 ((o - 0x8000) / 64)) (o % 64 / 4)).toNat

/-! ### The map -/

/-- R489: setup space below 0x1000. -/
def State.regLow (s : State) (o : Nat) : Nat :=
  if o < 0x40 then s.bu.reg o
  else if o < 0x400 then 0
  else if o < 0x440 then s.capt.getD ((o - 0x400) / 4) 0
  else if o < 0x480 then s.dp.fr.reg (o - 0x440)
  else if o < 0x4C0 then s.sec.reg (o - 0x480)
  else if o < 0x500 then s.stReg (o - 0x4C0)
  else if o < 0x800 then (lineWord (s.dp.fr.reports.get 0 ((o - 0x500) / 64)) (o % 64 / 4)).toNat
  else if o < 0x840 then s.pwReg (o - 0x800)
  else if o < 0x880 then 0
  else if o < 0x8C0 then oppReg ((o - 0x880) / 4)
  else if o < 0x900 then 0
  else if o < 0xA00 then (if o % 8 = 0 then lo32 else hi32) (s.pw.energy.entry ((o - 0x900) / 8))
  else if o < 0xA40 then s.dp.log.evReg (o - 0xA00)
  else if o < 0xA80 then s.dp.log.trReg (o - 0xA40)
  else if o < 0xAC0 then s.dgReg (o - 0xA80)
  else if o < 0xB00 then 0
  else if o < 0xC00 then tabWord s.dp.log.rateNext (o - 0xB00)
  else (s.dp.log.counts.get 0 ((o - 0xC00) / 4)).toNat

/-- R489: setup space from 0x1000 to 0x1FFF. -/
def State.regMid (s : State) (o : Nat) : Nat :=
  if o < 0x1040 then s.clk.reg (o - 0x1000)
  else if o < 0x1080 then s.ctReg (o - 0x1040)
  else if o < 0x10C0 then s.dp.mem.reg (o - 0x1080)
  else if o < 0x1100 then s.scReg (o - 0x10C0)
  else if o < 0x1140 then s.mxReg (o - 0x1100)
  else if o < 0x1180 then s.sdReg (o - 0x1140)
  else if o < 0x11C0 then s.tfReg (o - 0x1180)
  else if o < 0x1200 then s.tvReg (o - 0x11C0)
  else if o < 0x1240 then s.tsReg (o - 0x1200)
  else if o < 0x1280 then s.upReg (o - 0x1240)
  else if o < 0x12C0 then s.lkReg (o - 0x1280)
  else if o < 0x1300 then s.flReg (o - 0x12C0)
  else if o < 0x1380 then (lineWord (s.torus.remap.get 0 ((o - 0x1300) / 8)) (o % 8 / 4)).toNat
  else if o < 0x1398 then (s.torus.neigh.get 0 ((o - 0x1380) / 4)).toNat
  else if o < 0x13C0 then 0
  else if o < 0x1400 then s.ddReg (o - 0x13C0)
  else if o < 0x1800 then (lineWord (s.dp.mem.xt.get 0 ((o - 0x1400) / 8)) (o % 8 / 4)).toNat
  else (lineWord (s.torus.cgs.get 0 ((o - 0x1800) / 32)) (o % 32 / 4)).toNat

/-- R489: setup space from 0x2000 on. -/
def State.regHigh (s : State) (o : Nat) : Nat :=
  if o < 0x2040 then s.hpReg (o - 0x2000)
  else if o < 0x2400 then 0
  else if o < 0x2E20 then (s.getQ ((o - 0x2400) / 32)).reg (o % 32)
  else if o < 0x3000 then 0
  else if o < 0x3540 then (s.dp.irq.table.get 0 ((o - 0x3000) / 4)).toNat
  else if o < 0x3800 then 0
  else if o < 0x3810 then (List.range 32).foldl (fun a i => a + b2n (s.dp.irq.pba.contains (8 * (o - 0x3800) + i)) * 2 ^ i) 0
  else if o < 0x4000 then 0
  else if o < 0x5000 then tabWord s.torus.pkgTab (o - 0x4000)
  else if o < 0x5040 then tabWord s.torus.podTab (o - 0x5000)
  else if o < 0x5400 then 0
  else if o < 0x5C00 then (lineWord (s.dp.rlog.slots.get 0 ((o - 0x5400) / 32)) (o % 32 / 4)).toNat
  else if o < 0x6000 then 0
  else s.winReg o

/-- R489: the word at an aligned offset of setup space, its present value. Every offset not listed reads 0. -/
def State.reg (s : State) (o : Nat) : Nat :=
  (if o < 0x1000 then s.regLow o else if o < 0x2000 then s.regMid o else s.regHigh o) % 2 ^ 32

/-- R36: the low words of the pairs whose read latches the upper half. -/
def pairLow (o : Nat) : Bool :=
  [0x45C, 0x490, 0xA4C, 0x1000, 0x1018, 0x1020, 0x1060, 0x10A0, 0x1220, 0x1264].contains o ||
    (decide (0x900 ≤ o) && decide (o < 0xA00) && o % 8 == 0)

/-- R13, R36: what a 32-bit read at an aligned offset returns: the upper half of a pair is the one the read of its low word latched. -/
def State.regRead (s : State) (o : Nat) : Nat :=
  if 4 ≤ o && pairLow (o - 4) then (s.hp.latch.get 0 (o - 4)).toNat else s.reg o

end Sys2Proof.Machine
end

