-- ==== Sys2Proof/Machine/Scroll.lean ====
section
/-! DEFINITION. Meanings of the event recorder's and trace rings' commands (17_observability.md R409–R417). -/

namespace Sys2Proof.Machine

/-- R409: the codes whose records a bucket suppressed under a limit, in order; none for a code that is off. -/
def Log.ratesums (l : Log) : List (Nat × Nat) := l.suppressed.filter (fun x => (l.rate.get 0 x.1).toNat != 255)

/-- R409, R426: a 1 ms bucket ends: its RATESUM records, and the rates written in it take effect. -/
def execRateBucketEnd (s : State) : Host.Outcome State Fault Refusal :=
  let s := s.advance ((s.clk.tb.toNat / 1000000 + 1) * 1000000)
  let l := s.dp.log
  let s := { s with dp := { s.dp with log := { l with inBucket := [], suppressed := [], rate := l.rateNext, bucket := s.clk.tb } } }
  .next (l.ratesums.foldl (fun (s : State) x => s.note pmcUid 0x01 [(24, x.1), (28, satTo 32 x.2), (32, l.bucket.toNat)]) s)

/-- R411: acknowledge the held record with a SEQ; none: ignored. -/
def Log.ack (l : Log) (n : BitVec 32) : Log :=
  match l.held.find? (fun k => recSeq (l.hold.get 0 k) == n) with
  | some k => { l with held := NSet.del l.held k }
  | none => l

/-- R411: a write to EV_HACK. -/
def execEvHack (v : BitVec 32) (s : State) : Host.Outcome State Fault Refusal :=
  .next { s with dp := { s.dp with log := s.dp.log.ack v } }

/-- R412: the 100 µs spacing of vector 82 ends: conditions that arose within it fire together. -/
def execEvIrqSpacing (s : State) : Host.Outcome State Fault Refusal :=
  .next (match s.dp.log.irqLast with
    | some t => if s.dp.log.irqWait then (s.advance (t.toNat + 100000)).onDp fireEvents else s
    | none => s)

/-- R414: a unit that keeps a trace ring. -/
def hasRing (u : Nat) : Bool :=
  isStreamUnit u || (decide (u < 0x10000) && (u / 0x2000) % 2 == 1 && (u / 0x100) % 32 == 3 && decide (u % 0x100 ≤ 5))

/-- R416: a write to TR_SEL takes a snapshot of the named unit's ring, oldest event first; it reads 0 for a unit with no ring. -/
def State.trSelect (s : State) (v : BitVec 32) : State :=
  let u := v.toNat % 2 ^ 16
  let l := s.dp.log
  { s with dp := { s.dp with log := { l with
    trSel := BitVec.ofNat 16 u, snap := if hasRing u then (l.rings.get [] u).reverse else [], snapTs := s.clk.tb,
    snapBad := l.snapBad || !(hasRing u) } } }

/-- R416: a write to TR_SEL. -/
def execTrSel (v : BitVec 32) (s : State) : Host.Outcome State Fault Refusal := .next (s.trSelect v)

/-- R416: TR_CTL.FREEZE is set: every ring and spill stream freezes, with one record unless they are frozen. -/
def State.freezeTraces (s : State) : State :=
  let was := s.dp.log.frozen
  let s := { s with dp := { s.dp with log := { s.dp.log with freeze := true, frozen := true } } }
  if was then s else s.note pmcUid 0x50 [(24, 0)]

/-- R416: the host sets TR_CTL.FREEZE. -/
def execTraceFreeze (s : State) : Host.Outcome State Fault Refusal := .next s.freezeTraces

/-- R416, R424: 1 is written to TR_STAT.AUTO: the rings resume when FREEZE is clear. -/
def State.resumeTraces (s : State) : State :=
  { s with dp := { s.dp with log := { s.dp.log with auto := false, frozen := s.dp.log.frozen && s.dp.log.freeze } } }

/-- R416, R424: the host writes 1 to TR_STAT.AUTO. -/
def execTraceResume (s : State) : Host.Outcome State Fault Refusal := .next s.resumeTraces

/-- R417: an event that has waited 1 µs for a partner is padded with an EMPTY event and written. -/
def execSpillPad (j : Fin 12) (s : State) : Host.Outcome State Fault Refusal :=
  .next (if s.dp.log.frozen then s
    else match s.dp.log.spillQ.get [] j.val with
      | [] => s
      | a :: _ =>
        let l := s.dp.log
        let line : BitVec 512 := BitVec.ofNat 512 a.toNat
        { s with dp := spillLine j.val line { s.dp with log := { l with spillQ := l.spillQ.put [] j.val [] } } })

end Sys2Proof.Machine
end

