-- ==== Sys2Proof/Machine/Board.lean ====
section
/-! DEFINITION. Meanings of the board's commands (20_board_and_bringup.md R472–R487): management requests that read, MCTP control, the power
entry, bring-up, the reference clock, resets, sensors and PERST_N. -/

namespace Sys2Proof.Machine

/-- Change the bring-up block. -/
def State.onBu (s : State) (f : Bu → Bu) : State := { s with bu := f s.bu }

/-! ### Management requests (R481) -/

/-- A list of words as bytes, little-endian. -/
def wordBytes (l : List Nat) : List Byte := l.flatMap (fun v => natBytes 4 v)

/-- R481: the words of a STATUS response. -/
def State.statusWords (s : State) : List Nat :=
  [s.bu.reg 0x00, s.bu.reg 0x04, s.bu.reg 0x08, s.sec.reg 0x00, s.torus.plStat, s.clk.stat, s.pwIdle, s.dp.fr.last.toNat]

/-- R479, R481, R482: STATUS is answered from ROM on. -/
def execStatus (tag : BitVec 16) (_pl : List Byte) (s : State) : Host.Outcome State Fault Refusal :=
  .next (if s.bu.dark then s else s.respond 0x01 msOk tag (wordBytes s.statusWords))

/-- Insert a record by its distance from a SEQ. -/
def insertBySeq (n : BitVec 32) (r : BitVec 512) : List (BitVec 512) → List (BitVec 512)
  | [] => [r]
  | x :: l => if (recSeq r - n).toNat ≤ (recSeq x - n).toNat then r :: x :: l else x :: insertBySeq n r l

/-- R411, R481: up to 16 held records from SEQ `n` on, in SEQ order modulo 2³². -/
def Log.heldFrom (l : Log) (n : BitVec 32) : List (BitVec 512) :=
  (((l.held.map (fun k => l.hold.get 0 k)).filter (fun r => decide ((recSeq r - n).toNat < 2 ^ 31))).foldr (insertBySeq n) []).take 16

/-- R411, R481: HOLD_READ. -/
def execHoldRead (tag : BitVec 16) (pl : List Byte) (s : State) : Host.Outcome State Fault Refusal :=
  .next (s.request 0x0A 4 tag pl (fun s =>
    s.respond 0x0A msOk tag ((s.dp.log.heldFrom (BitVec.ofNat 32 (plAt pl 0 4))).flatMap (fun r => natBytes 64 r.toNat))))

/-- R411, R481: HOLD_ACK acknowledges as a write to EV_HACK. -/
def execHoldAck (tag : BitVec 16) (pl : List Byte) (s : State) : Host.Outcome State Fault Refusal :=
  .next (s.request 0x0B 4 tag pl (fun s =>
    ({ s with dp := { s.dp with log := s.dp.log.ack (BitVec.ofNat 32 (plAt pl 0 4)) } }).respond 0x0B msOk tag []))

/-- R481: a SEAL_READ payload holds no invalid value. -/
def sealReadOk (pl : List Byte) : Bool :=
  decide (plAt pl 1 1 ≤ 1) &&
    (if plAt pl 2 1 = 1 then decide (plAt pl 4 2 ≤ 676) else plAt pl 2 1 == 0 && decide (plAt pl 0 1 ≤ 11) && plAt pl 4 2 == 0)

/-- R312, R432, R481: SEAL_READ: the s of the held tally, then the seal line of a stack's slot or up to 63 lines of the tally. -/
def execSealRead (tag : BitVec 16) (pl : List Byte) (s : State) : Host.Outcome State Fault Refusal :=
  .next (s.request 0x0D 6 tag pl (fun s =>
    if !(sealReadOk pl) then s.respond 0x0D msBadField tag []
    else
      let par := plAt pl 1 1
      let t := s.dp.fr.heldTally.get [] par
      let head := natBytes 8 (Tally.at t 0 8)
      if plAt pl 2 1 = 1 then
        let first := plAt pl 4 2
        s.respond 0x0D msOk tag (head ++ (List.range (min 63 (677 - first))).flatMap (fun i => natBytes 64 (Tab.get 0 t (first + i)).toNat))
      else
        let z := s.dp.mem.slotBytes
        let r := if z = 0 then (none, s.dp) else slotLines s.env par (plAt pl 0 1) 1 (z - 64) s.dp
        let line := match r.1 with
          | some (x :: _) => x
          | _ => 0
        ({ s with dp := r.2 }).respond 0x0D msOk tag (head ++ natBytes 64 line.toNat)))

/-- R481: the CMD values the controller may send. -/
def knownCmd (c : Nat) : Bool := decide (1 ≤ c) && decide (c ≤ 0x10) && c != 0x09 && c != 0x0C

/-- R479, R481: an MCTP control message is answered from ROM on: Set and Get Endpoint ID, the message types, the transmission unit. A
Thouri message with a CMD that is reserved or the PMC's own is answered UNSUPPORTED. -/
def execMctpControl (op : MctpOp) (s : State) : Host.Outcome State Fault Refusal :=
  .next (if s.bu.dark then s
    else match op with
      | .setEid e => if e = 0 || e = 0xFF then s.answer .unsupported else (s.onBu (fun b => { b with eid := e })).answer (.mctpEid e)
      | .getEid => s.answer (.mctpEid s.bu.eid)
      | .messageTypes => s.answer (.mctpTypes [0x00, 0x01, 0x05, 0x06, 0x7F])
      | .negotiateUnit n => (s.onBu (fun b => { b with mtu := min 256 (max 64 n) })).answer (.mctpUnit (min 256 (max 64 n)))
      | .other => s.answer .unsupported
      | .reservedCmd c tag => if knownCmd c.toNat then s else s.respond c.toNat msUnsupported tag [])

/-- R479: the bus owner assigns the I3C dynamic address. -/
def execI3cDynamicAddress (addr : BitVec 7) (s : State) : Host.Outcome State Fault Refusal :=
  .next (if s.bu.dark then s else s.onBu (fun b => { b with i3c := some addr }))

/-! ### The 60 V entry (R472–R474) -/

/-- R474, R481: input loss at `v` (0.01 V): one POWER_LOSS message, then the package goes dark. -/
def State.inputLost (s : State) (v : Nat) : State :=
  if s.bu.dark then s else (s.sendAsync 0x11 (natBytes 8 s.clk.tb.toNat ++ natBytes 2 (v / 10))).goDark

/-- R485: the main rails fall; RSTCAUSE is kept. -/
def State.mainOff (s : State) : State := if s.bu.mainOn then s.railsFall s.bu.rstCause.toNat else s

/-- R472: VIN `v` (0.01 V) and the input current over the last 10 µs, with VIN outside its window for `us` microseconds. -/
def execVinExcursion (v i : BitVec 16) (us : Nat) (s : State) : Host.Outcome State Fault Refusal :=
  .next (if s.bu.dark then s
    else
      let s := s.onBu (fun b => { b with vin := v, iin := i, vinHi := decide (6200 < v.toNat), vinLo := decide (v.toNat < 5400) })
      if v.toNat < 4400 || (6400 < v.toNat && 1 ≤ us) || (5000 ≤ v.toNat && v.toNat < 5400 && 10000 < us) then s.inputLost v.toNat
      else if v.toNat < 5000 then s.mainOff
      else s.raiseRails)

/-- R473, R474: the input protection trips above 80 A, or above 68 A for longer than 60 ms: input loss. -/
def execOvercurrentTrip (i : BitVec 16) (us : Nat) (s : State) : Host.Outcome State Fault Refusal :=
  .next (if 8000 < i.toNat || (6800 < i.toNat && 60000 < us) then
      (if s.bu.dark then s else (s.onBu (fun b => { b with iin := i })).inputLost s.bu.vin.toNat)
    else s)

/-- R474: input loss. -/
def execInputLoss (v : BitVec 16) (s : State) : Host.Outcome State Fault Refusal := .next (s.inputLost v.toNat)

/-! ### Bring-up (R485) -/

/-- R485: PWR_EN is asserted; an early assertion is held until firmware runs. -/
def execPwrEn (s : State) : Host.Outcome State Fault Refusal := .next (s.onBu (fun b => { b with pwrEn := true })).raiseRails

/-- R485, R490: PWR_EN is deasserted: the main rails fall. -/
def execPwrEnDeasserted (s : State) : Host.Outcome State Fault Refusal := .next (s.onBu (fun b => { b with pwrEn := false })).mainOff

/-- R455, R485, R490: every edge is LIVE and HBM is trained: READY, with BOOTMS; the fused SVN rises to that of the image that runs. -/
def execBringupReady (s : State) : Host.Outcome State Fault Refusal :=
  .next (if s.bu.stage == .train && (List.range 8).all (fun i => (s.edge.ends.get {} i).state == .live) then
      { s with bu := { s.bu with stage := .ready, bootMs := BitVec.ofNat 32 ((s.clk.tb.toNat - s.bu.resetAt.toNat) / 1000000) },
               sec := { s.sec with svn := if s.sec.svn.toNat < min 64 s.sec.fwSvn.toNat then BitVec.ofNat 8 (min 64 s.sec.fwSvn.toNat) else s.sec.svn } }
    else s)

/-- R478: the reference has stopped for 1 µs: every die loses its clock, and the time base runs on an internal oscillator in HOLDOVER. In
Cold no die runs that could lose one. -/
def execReferenceLoss (s : State) : Host.Outcome State Fault Refusal :=
  .next (if s.bu.dark then s
    else
      let s := s.onBu (fun b => { b with refIn := false, refOk := false })
      (if s.pw.cold then s else s.clockLoss 0xF).setLock .holdover)

/-- R488: the carrier's hardware thermal cut removes the main rails. -/
def execThermalCut (s : State) : Host.Outcome State Fault Refusal := .next (if s.bu.mainOn then s.railsFall 5 else s)

/-! ### Resets (R377, R380, R486, R487) -/

/-- R479, R481, R482: a RESET request: no answer from a dark package, UNSUPPORTED from ROM, BUSY before READY but for a package in DEFECT,
BAD_FIELD when byte 0 is missing or above 2; a request with byte 0 = `want` is answered OK and the reset follows. -/
def State.resetRequest (s : State) (tag : BitVec 16) (pl : List Byte) (want : Nat) (f : State → State) : State :=
  if s.bu.dark then s
  else if !s.bu.booted then s.respond 0x10 msUnsupported tag []
  else if !s.bu.ready && s.bu.stage != .defect then s.respond 0x10 msBusy tag []
  else if pl.isEmpty || plAt pl 0 1 > 2 then s.respond 0x10 msBadField tag []
  else if plAt pl 0 1 = want then f (s.respond 0x10 msOk tag [])
  else s

/-- R486, R490: a power-on reset by RESET message, by FULL_RST_N, or by VIN coming back. -/
def execPowerOnReset (src : ResetSrc) (slot : BitVec 6) (s : State) : Host.Outcome State Fault Refusal :=
  .next (match src with
    | .message tag pl => s.resetRequest tag pl 1 (fun s => s.powerOn 3 slot)
    | .pin => if s.bu.dark then s else s.powerOn 1 slot
    | .vin => s.powerOn 0 slot)

/-- R486: a package reset by RESET message or by PKG_RST_N; VIN coming back resets more than the package. -/
def execPackageReset (src : ResetSrc) (slot : BitVec 6) (s : State) : Host.Outcome State Fault Refusal :=
  .next (match src with
    | .message tag pl => s.resetRequest tag pl 0 (fun s => s.packageReset 3 slot)
    | .pin => if s.bu.dark then s else s.packageReset 2 slot
    | .vin => s)

/-- R377, R380: the controller re-enables a package from DEFECT or from a fence, through a package reset. -/
def execReenable (tag : BitVec 16) (pl : List Byte) (slot : BitVec 6) (s : State) : Host.Outcome State Fault Refusal :=
  .next (s.resetRequest tag pl 2 (fun s => ({ s with edge := { s.edge with defect := false } }).packageReset 3 slot))

/-- R117, R487: PERST_N resets the CXL link, configuration space, the HDM decoder and the IDE keys, and nothing else; while it is low the
link is down. -/
def execPerstN (asserted : Bool) (s : State) : Host.Outcome State Fault Refusal :=
  .next (if asserted then
      let up := s.hp.linkUp
      let s := { s with bu := { s.bu with perst := true }, sec := { s.sec with ideKeys := [], ideOn := false },
                        dp := { s.dp with mem := { s.dp.mem with hdmBase := 0, hdmSize := 0 },
                                          irq := { s.dp.irq with enable := false, fmask := false } },
                        hp := { s.hp with speed := 0, width := 0, degraded := false, cacheEn := false, memEn := false, ide := false,
                                          hdmErr := false, errDown := s.hp.errDown || up } }
      if up then s.hpIrq else s
    else s.onBu (fun b => { b with perst := false }))

/-! ### Sensors (R484) -/

/-- R484: what each sensor reads. -/
def State.sensorValue (s : State) (power current ce : Nat) : Nat → Nat
  | 1 => power
  | 2 => s.bu.vin.toNat / 10
  | 3 => current
  | 4 => s.pw.tjMax.1
  | 5 => s.pw.tin
  | 6 => s.pw.energy.entry 0 / 1000000
  | _ => ce

/-- R484: the thresholds of a sensor: level a value lies at, 0 normal to 3 fatal. -/
def sensorLevel : Nat → Nat → Nat
  | 1, v => if 3300 < v then 2 else if 2600 < v then 1 else 0
  | 2, v => if v < 500 || 640 < v then 2 else if v < 540 || 620 < v then 1 else 0
  | 3, v => if 800 < v then 3 else if 680 < v then 2 else if 500 < v then 1 else 0
  | 4, v => if 115 < v then 3 else if 105 < v then 2 else if 95 < v then 1 else 0
  | 5, v => if 45 < v then 2 else if 40 < v then 1 else 0
  | 7, v => if 1000 < v then 1 else 0
  | _, _ => 0

/-- R484: one sensor is updated; a change of level is sent as a platform event. -/
def State.updateSensor (s : State) (k v : Nat) : State :=
  let lv := sensorLevel k v
  let was := s.bu.levels.get 0 k
  let s := s.onBu (fun b => { b with sensors := b.sensors.put 0 k v, levels := b.levels.put 0 k lv })
  if lv = was then s else s.answer (.sensorEvent k lv)

/-- R484: every 100 ms the PMC updates its sensors, once firmware runs. -/
def execSensorUpdate (power current ce : Nat) (s : State) : Host.Outcome State Fault Refusal :=
  .next (if s.bu.booted && !s.bu.dark then
      [1, 2, 3, 4, 5, 6, 7].foldl (fun (s : State) k => s.updateSensor k (s.sensorValue power current ce k)) s
    else s)

end Sys2Proof.Machine
end

