-- ==== Sys2Proof/Machine/Dgu.lean ====
section
/-! DEFINITION. Meanings of the digest unit's instructions (17_observability.md R419–R421). -/

namespace Sys2Proof.Machine

/-- Identifier of the DGU of cluster `c`, and its digest slots. -/
def dguUid (c : Nat) : Nat := cuid c 4 0
def Dp.dgSlot (d : Dp) (c k : Nat) : DgSlot := d.dgu.get {} (4 * c + k)
def Dp.setDgSlot (d : Dp) (c k : Nat) (x : DgSlot) : Dp := { d with dgu := d.dgu.put {} (4 * c + k) x }

/-- A hash as zcg's four words, and back. -/
def quadOf (h : BitVec 128) : Quad := ⟨h.extractLsb' 0 32, h.extractLsb' 32 32, h.extractLsb' 64 32, h.extractLsb' 96 32⟩
def ofQuad (q : Quad) : BitVec 128 :=
  BitVec.ofNat 128 (q.a.toNat + q.b.toNat * 2 ^ 32 + q.c.toNat * 2 ^ 64 + q.d.toNat * 2 ^ 96)

/-- R420: one step of the hash: zcg keyed by four words, xor the hash. -/
def hashStep (k : Quad) (h : BitVec 128) : BitVec 128 := ofQuad (zcg k (quadOf h)) ^^^ h

/-- R420: the hash after a line. -/
def hashLine (l : BitVec 512) (h : BitVec 128) : BitVec 128 :=
  [0, 1, 2, 3].foldl (fun h q => hashStep (quadOf (l.extractLsb' (128 * q) 128)) h) h

/-! ### DOPEN -/

/-- R419: DOPEN's reserved bits. -/
def dopenValid (w : BitVec 256) : Bool := !(anyBits w 10 22) && !(anyBits w 64 192)

/-- R420: DOPEN opens or restarts a slot. -/
def runDopen (c : Nat) (w : BitVec 256) (_ : Env) (d : Dp) : Dp :=
  let t : BitVec 32 := w.extractLsb' 32 32
  d.setDgSlot c (bits w 8 2) { opened := true, tag := t, h := ofQuad ⟨t, 0x44475530#32, 0, 0⟩ }

def execDopen (c : Fin 512) (w : BitVec 256) (s : State) : Host.Outcome State Fault Refusal :=
  .next (s.runDp (dguUid c.val) 0x10 w.toNat (dopenValid w) (runDopen c.val w))

/-! ### DFEED -/

/-- R419: the formats DFEED takes. -/
def dfeedFmt (n : Nat) : Option Fmt := if n ≤ 3 || n = 7 then Fmt.ofCode n else none

/-- R419: DFEED's fields are valid; its slot is open. -/
def dfeedValid (c : Nat) (w : BitVec 256) (d : Dp) : Bool :=
  (dfeedFmt (bits w 10 4)).isSome && !(anyBits w 28 4) && bits w 32 16 != 0 && !(anyBits w 48 16) && !(anyBits w 64 6) &&
    !(anyBits w 86 10) && !(anyBits w 112 144) && (d.dgSlot c (bits w 8 2)).opened

/-- Combine a word into an extreme over finite elements (R420). -/
def extreme (f : Word → Word → Word) (a : Option Word) (v : Word) : Option Word := match a with
  | none => some v
  | some x => some (f x v)

/-- R420: a line's elements enter the statistics of a slot. -/
def DgSlot.stats (x : DgSlot) (f : Fmt) (l : BitVec 512) : DgSlot :=
  let els := (elemsFrom f.width l.toNat (512 / f.width) 0).map f.decode
  let fin := (els.filter (fun v => !v.nonFinite)).map toF32
  let z := els.map (fun v => if v.nonFinite then 0 else (toF32 v).toNat)
  let add := fun (a b : Nat) => (add32 (BitVec.ofNat 32 a) (BitVec.ofNat 32 b)).toNat
  let sum := BitVec.ofNat 32 (canonicalReduce add z.length z)
  let sq := BitVec.ofNat 32 (canonicalReduce add z.length (z.map (fun v => (mul32 (BitVec.ofNat 32 v) (BitVec.ofNat 32 v)).toNat)))
  { x with nelem := x.nelem + BitVec.ofNat 64 els.length,
           nnan := satAdd x.nnan (els.filter (fun v => v.isNan)).length,
           ninf := satAdd x.ninf (els.filter (fun v => v.nonFinite && !v.isNan)).length,
           nzero := satAdd x.nzero (fin.filter (fun v => v &&& 0x7FFFFFFF#32 == 0)).length,
           sum := add32 x.sum sum, sumsq := add32 x.sumsq sq,
           amax := (fin.map abs32).foldl (extreme max32) x.amax, mn := fin.foldl (extreme min32) x.mn,
           mx := fin.foldl (extreme max32) x.mx }

/-- R420: one line is fed to a slot. -/
def DgSlot.feed (x : DgSlot) (f : Fmt) (hashOnly : Bool) (l : BitVec 512) : DgSlot :=
  let x := { x with h := hashLine l x.h, n := x.n + 1 }
  if hashOnly then x else x.stats f l

/-- R420: lines at line numbers of cluster memory are fed in order; an uncorrectable error ends the feed (R103). -/
def feedLines (e : Env) (c : Nat) (w : BitVec 256) (f : Fmt) : List Nat → Dp → Dp
  | [], d => d
  | off :: r, d =>
    match clRead e (dguUid c) c (bit w 14) off d with
    | (none, d) => d
    | (some l, d) =>
      feedLines e c w f r ((d.setDgSlot c (bits w 8 2) ((d.dgSlot c (bits w 8 2)).feed f (bit w 15) l)).perf (dguUid c) 0x10 1)

/-- R420: DFEED feeds rows ascending, lines ascending within a row. -/
def runDfeed (c : Nat) (w : BitVec 256) (e : Env) (d : Dp) : Dp :=
  match dfeedFmt (bits w 10 4) with
  | none => d
  | some f =>
    feedLines e c w f ((List.range (bits w 16 12 + 1)).flatMap (fun r =>
      (List.range (bits w 32 16)).map (fun k => bits w 64 22 + 64 * (r * bits w 96 16 + k)))) d

def execDfeed (c : Fin 512) (w : BitVec 256) (s : State) : Host.Outcome State Fault Refusal :=
  .next (s.runDp (dguUid c.val) 0x11 w.toNat (dfeedValid c.val w s.dp) (runDfeed c.val w))

/-! ### DCLOSE -/

/-- R222, R419: DCLOSE's fields are valid; its slot is open. -/
def dcloseValid (e : Env) (c : Nat) (w : BitVec 256) (d : Dp) : Bool :=
  !(anyBits w 12 20) && !(anyBits w 32 6) && !(anyBits w 54 170) && creditOk w false (e.diesOf (dguUid c)) &&
    (d.dgSlot c (bits w 8 2)).opened

/-- R420: the hash a slot closes with. -/
def DgSlot.final (x : DgSlot) : BitVec 128 := hashStep ⟨x.n.extractLsb' 0 32, x.n.extractLsb' 32 32, 0x44475531#32, x.tag⟩ x.h

/-- R421: the digest line of a slot. -/
def DgSlot.line (x : DgSlot) : Nat :=
  packBytes [(0, x.final.toNat), (16, x.nelem.toNat), (24, x.nnan.toNat), (28, x.ninf.toNat), (32, x.nzero.toNat), (36, x.sum.toNat),
    (40, x.sumsq.toNat), (44, (x.amax.getD nan32).toNat), (48, (x.mn.getD nan32).toNat), (52, (x.mx.getD nan32).toNat),
    (56, x.tag.toNat), (60, x.n.toNat % 2 ^ 32)]

/-- R407, R421: the DIGEST record's payload. -/
def DgSlot.payload (x : DgSlot) : List (Nat × Nat) :=
  [(24, x.tag.toNat), (28, x.final.toNat), (44, x.nelem.toNat % 2 ^ 32), (48, x.nnan.toNat), (52, x.ninf.toNat),
   (56, (x.amax.getD nan32).toNat)]

/-- R421: DCLOSE writes the digest line, sends its record when REC is set, and closes the slot. -/
def runDclose (c : Nat) (w : BitVec 256) (e : Env) (d : Dp) : Dp :=
  let x := d.dgSlot c (bits w 8 2)
  let d := (clWrite e (dguUid c) c (bit w 11) (bits w 32 22) fullMask x.line d).2
  let d := if bit w 10 then record e (dguUid c) 0x40 true x.payload d else d
  d.setDgSlot c (bits w 8 2) { x with opened := false }

def execDclose (c : Fin 512) (w : BitVec 256) (s : State) : Host.Outcome State Fault Refusal :=
  .next (s.runUnit (dguUid c.val) 0x12 w.toNat (dcloseValid s.env c.val w s.dp) (fun s =>
    (s.onDp (runDclose c.val w)).slCredit (dguUid c.val) w))

end Sys2Proof.Machine
end

