-- ==== Sys2Proof/Machine/Edge.lean ====
section
/-! DEFINITION. Meanings of the die-edge commands (15_die_to_die.md R369–R380): slots, training, forced reset, clock loss. -/

namespace Sys2Proof.Machine

def Edge.endAt (e : Edge) (i : Nat) : EdgeEnd := e.ends.get {} i
def Edge.setEnd (e : Edge) (i : Nat) (f : EdgeEnd → EdgeEnd) : Edge := { e with ends := e.ends.upd {} i f }

/-- R374: a slot of a module's retry buffer arrives at an edge end. A good one is taken and leaves the buffer; one with a CRC error is
rejected and replayed by the sender. A slot whose sixteenth replay fails too, and a module without its forwarded clock, are edge faults,
handled as the loss of a die clock. The lines that cross are counted where they are accessed (Dp.cross). -/
def execEdgeSlotReceive (a : EdgeSlot) (r : SlotCheck) (s : State) : Host.Outcome State Fault Refusal :=
  let e := a.e
  let x := s.edge.endAt e.val
  let i := 64 * a.m.val + a.k.val
  .next (if x.state == .live then
      if !r.clkOk then s.clockLoss 0
      else if r.crcOk then { s with edge := s.edge.setEnd e.val (fun x => { x with fails := x.fails.put 0 i 0 }) }
      else
        let s := { s with edge := s.edge.setEnd e.val (fun x => { x with crcErr := satAdd x.crcErr 1, fails := x.fails.upd 0 i (· + 1) }) }
        if 16 ≤ x.fails.get 0 i then s.clockLoss 0
        else { s with edge := s.edge.setEnd (edgePeer e.val) (fun x => { x with retry := satAdd x.retry 1 }) }
    else s)

/-- R381: TXW and RXW of a training word. -/
def trainTxw (w : BitVec 32) : Nat := bits w 0 5
def trainRxw (w : BitVec 32) : Nat := bits w 5 5

/-- R376: two training words agree bit for bit with all 16 modules in each direction. -/
def trainGood (w0 w1 : BitVec 32) : Bool := w0 == w1 && trainTxw w0 == 16 && trainRxw w0 == 16

/-- R376, R377: physical edge `p` (from e0 of die p) ends training: both ends keep both words; it goes LIVE when they agree, else a
forced reset is due. FRESET returns to 0 when every edge is LIVE. Implemented bits of a word are kept. -/
def execEdgeTrainingDone (p : Fin 4) (w0 w1 : BitVec 32) (s : State) : Host.Outcome State Fault Refusal :=
  let a := 2 * p.val
  let b := edgePeer a
  let m : BitVec 32 := 0xFFFF03FF
  let good := trainGood (w0 &&& m) (w1 &&& m)
  .next (if (s.edge.endAt a).state == .training then
      let st := if good then EdgeState.live else EdgeState.down
      let e := (s.edge.setEnd a (fun x => { x with state := st, train := w0 &&& m, peer := w1 &&& m })).setEnd b
        (fun x => { x with state := st, train := w1 &&& m, peer := w0 &&& m })
      let allLive := (List.range 8).all (fun i => (e.endAt i).state == .live)
      { s with edge := { e with failed := e.failed || !good, freset := if allLive then 0 else e.freset } }
    else s)

/-- R377: after a training failure the whole package is reset: launches end with FAULT, a package fault is reported, and the third
forced reset in a row puts the package into DEFECT. -/
def execForcedReset (s : State) : Host.Outcome State Fault Refusal :=
  .next (if s.edge.failed then
      let s := s.onDp (fun e d => raiseFault e 7 3 pmcUid s.edge.clkWord d)
      let n := s.dp.fr.last.toNat
      let s := [0, 1, 2, 3].foldl (fun s p => s.endLaunch p stFault n false true) s
      let f := min 255 (s.edge.freset.toNat + 1)
      { s with edge := { s.edge with freset := BitVec.ofNat 8 f, defect := s.edge.defect || decide (f ≥ 3) } }.packageReset 4 s.bu.slot
    else s)

/-- R379: a die loses its clock. -/
def execDieClockLoss (d : Fin 4) (s : State) : Host.Outcome State Fault Refusal := .next (s.clockLoss (1#4 <<< d.val))

end Sys2Proof.Machine
end

