-- ==== Sys2Proof/Machine/FlueOps.lean ====
section
/-! DEFINITION. Shared operations of the collective engines (14_collectives.md): how a Flue reaches memory (R345), the schedule of
combines (R353), instruction fields (R350, R351), operations in flight and their packets (R347, R363), and the side-band (R356). -/

namespace Sys2Proof.Machine

/-- The Flue of die `d`. -/
def cleUid (d : Nat) : Nat := duid d 0 0

def Dp.getCle (x : Dp) (d : Nat) : Cle := x.cle.get {} d
def Dp.setCle (x : Dp) (d : Nat) (f : Cle → Cle) : Dp := { x with cle := x.cle.upd {} d f }

/-! ### Memory (R345) -/

/-- R345, R86: the location behind an address a Flue reaches; a host operation reaches every die. -/
def flLoc (e : Env) (d : Nat) (host : Bool) (m : Mem) (a : Nat) : Option Loc :=
  match m.at48 a with
  | none => none
  | some (.ext _ _) => none
  | some (.rbuf i o) => if i = d then some (.rbuf i o) else none
  | some l => if l.inDies (if host then 15 else e.diesOf (cleUid d)) then some l else none

/-- Read the line at `a`: cluster memory through channel 7 of its cluster, under that channel's claims. -/
def flRead (e : Env) (d : Nat) (host : Bool) (a : Nat) (x : Dp) : Option (BitVec 512) × Dp :=
  let u := cleUid d
  match flLoc e d host x.mem a with
  | none => (some 0, unmapped e u 0 a x)
  | some l =>
    match l.cluster? with
    | none => readLoc e u a l x
    | some (i, acc, off) =>
      let via := sdUid i 7
      if host || e.claims via acc off then readLoc e u a l (x.perf via 0x18 1) else (some 0, unmapped e via 0 a x)

/-- R77, R218, R366: where a write to the line at `a` goes, when it may be performed; host operations are not checked against
windows. -/
def flMay (e : Env) (d : Nat) (host : Bool) (a : Nat) (x : Dp) : Option Loc × Dp :=
  let u := cleUid d
  match flLoc e d host x.mem a with
  | none => (none, unmapped e u 1 a x)
  | some l =>
    if host then (some l, x)
    else
      match l.cluster? with
      | none => if e.mayStore x.mem u a l then (some l, x) else (none, windowViolation e u a x)
      | some (i, acc, off) =>
        let via := sdUid i 7
        if e.hasStream via && !(e.claims via acc off) then (none, unmapped e via 1 a x)
        else if e.mayWrite via a then (some l, x.perf via 0x18 1)
        else (none, windowViolation e via a x)

/-- Write bytes of the line at `a` under a byte mask; answers whether it was performed. -/
def flWriteMask (e : Env) (d : Nat) (host : Bool) (a mask v : Nat) (x : Dp) : Bool × Dp :=
  match flMay e d host a x with
  | (none, x) => (false, x)
  | (some l, x) => (true, (storeMask a l mask v x).crossTo d a l)

/-- Write the whole line at `a`. -/
def flWrite (e : Env) (d : Nat) (host : Bool) (a : Nat) (v : BitVec 512) (x : Dp) : Bool × Dp := flWriteMask e d host a fullMask v.toNat x

/-- Read `n` lines from `a` on; none where one voids. -/
def flReads (e : Env) (d : Nat) (host : Bool) : Nat → Nat → Dp → Option (List (BitVec 512)) × Dp
  | 0, _, x => (some [], x)
  | n + 1, a, x =>
    match flRead e d host a x with
    | (none, x) => (none, x)
    | (some v, x) =>
      match flReads e d host n (a + 64) x with
      | (none, x) => (none, x)
      | (some l, x) => (some (v :: l), x)

/-- Write lines from `a` on. -/
def flWrites (e : Env) (d : Nat) (host : Bool) (a : Nat) (l : List (BitVec 512)) (x : Dp) : Dp :=
  l.zipIdx.foldl (fun x y => (flWrite e d host (a + 64 * y.2) y.1 x).2) x

/-- Write an array of 32-bit words from the aligned address `a` on, under byte enables in its last line. -/
def flWords (e : Env) (d : Nat) (host : Bool) (a : Nat) (l : List Nat) (x : Dp) : Dp :=
  (List.range (ceilDiv l.length 16)).foldl (fun x i =>
    let ws := (l.drop (16 * i)).take 16
    (flWriteMask e d host (a + 64 * i) (2 ^ (4 * ws.length) - 1) (packElems 32 ws) x).2) x

/-- The lines of a run as 32-bit words. -/
def lineWords (l : List (BitVec 512)) : List Nat := l.flatMap (fun v => elemsFrom 32 v.toNat 16 0)

/-! ### The schedule (R353) -/

/-- The largest power of two below `n`, 0 when `n` is 1. -/
def topW (n : Nat) : Nat := if n ≤ 1 then 0 else 2 ^ Nat.log2 (n - 1)

/-- One combine of a shard's tree that concerns a member: the pass (log₂ w), the other holder, whether the member receives (and
computes), and whether its value covers the lower ranks. -/
structure FlStep where
  pass : Nat
  peer : Nat
  recv : Bool
  left : Bool
  deriving DecidableEq, Repr

/-- R353: visit(a, e, h, w) as member `me` sees it, passes ascending. -/
def flVisit (me : Nat) : Nat → Nat → Nat → Nat → Nat → List FlStep
  | 0, _, _, _, _ => []
  | n + 1, a, e, h, w =>
    if w = 0 then []
    else
      let m := a + w
      if m ≥ e then flVisit me n a e h (w / 2)
      else
        let hl := if h < m then h else a + (h - a) % w
        let hr := if h < m then m + (h - a) % (e - m) else h
        let other := if h < m then hr else hl
        let sub := if me < m then flVisit me n a m hl (w / 2) else flVisit me n m e hr (w / 2)
        let here := if me = h then [FlStep.mk (Nat.log2 w) other true (decide (me < m))]
          else if me = other then [FlStep.mk (Nat.log2 w) h false (decide (me < m))] else []
        sub ++ here

/-- R353: the combines of shard `o` over `n` ranks that concern member `me`. -/
def flPlan (n o me : Nat) : List FlStep := flVisit me 20 0 n o (topW n)

/-- The partials a member receives, in pass order, and the one it sends. -/
def recvSteps (p : List FlStep) : List FlStep := p.filter (·.recv)
def sendStep (p : List FlStep) : Option FlStep := p.find? (fun s => !s.recv)

/-- ⌈log₂ n⌉: the passes of R66. -/
def passes (n : Nat) : Nat := if n ≤ 1 then 0 else Nat.log2 (n - 1) + 1

/-- R66, R356: the passes in which rank `r` has a partner above it, ascending; and the pass in which it is the upper partner. -/
def upPasses (n r : Nat) : List Nat := (List.range (passes n)).filter (fun p => r % 2 ^ (p + 1) == 0 && decide (r + 2 ^ p < n))
def ownPass (r : Nat) : Nat := (firstFrom (fun p => r.testBit p) 20 0).getD 0

/-! ### Instruction fields (R350, R351) -/

def fCg (w : BitVec 512) : Nat := bits w 8 6
def fSb (w : BitVec 512) : Bool := bit w 18
def fDmode (w : BitVec 512) : Bool := bit w 19
def fVar (w : BitVec 512) : Bool := bit w 24
def fLanes (w : BitVec 512) : Nat := bits w 32 16
def fLbase (w : BitVec 512) : Nat := bits w 48 16
def fSrc (w : BitVec 512) : Nat := bits w 64 48
def fDst (w : BitVec 512) : Nat := bits w 128 48
def fCount (w : BitVec 512) : Nat := bits w 192 32
def fIdx (w : BitVec 512) : Nat := bits w 256 48
def fMap (w : BitVec 512) : Nat := bits w 320 48
def fCnt (w : BitVec 512) : Nat := bits w 384 48
def fTokens (w : BitVec 512) : Nat := bits w 448 20 + 1
def fK (w : BitVec 512) : Nat := bits w 468 4 + 1
def fRoot (w : BitVec 512) : Nat := bits w 448 18
def fCap (w : BitVec 512) : Nat := bits w 472 16
def fRcap (w : BitVec 512) : Nat := bits w 488 24

/-- R350: bytes of a slab. -/
def fSlab (w : BitVec 512) : Nat := 4096 * 2 ^ bits w 20 4

/-- R350: the wire format, and bytes of an element. -/
def fFmt (w : BitVec 512) : Fmt := match bits w 16 2 with
  | 0 => .bf16 | 1 => .fp16 | _ => .fp32
def fElem (w : BitVec 512) : Nat := (fFmt w).width / 8

/-- Fields reserved under every opcode. -/
def flRsvOk (w : BitVec 512) : Bool :=
  !(anyBits w 14 2) && !(anyBits w 25 7) && !(anyBits w 112 16) && !(anyBits w 176 16) && !(anyBits w 304 16) && !(anyBits w 368 16) &&
    !(anyBits w 432 16)

/-- Two address ranges overlap. -/
def overlap (a n b m : Nat) : Bool := decide (a < b + m) && decide (b < a + n) && decide (0 < n) && decide (0 < m)

/-- R346: CG `n` is valid in the table in force and declared by the script unit `u` runs. -/
def State.flCgOk (s : State) (u n : Nat) : Bool :=
  cgValid (s.torus.cgs.get 0 n) &&
    (match s.env.ofUnit u with
     | none => false
     | some p => (List.range p.img.nCg).any (fun i => (p.img.cg i).1 == n))

/-- Conditions common to every opcode: reserved fields, CG, credit, and the fields the opcode does not use, given as (low bit, bits). -/
def State.flCommon (s : State) (d : Nat) (w : BitVec 512) (unused : List (Nat × Nat)) : Bool :=
  flRsvOk w && unused.all (fun x => !(anyBits w x.1 x.2)) && s.flCgOk (cleUid d) (fCg w) &&
    creditOk (w.extractLsb' 0 256) false (s.env.diesOf (cleUid d))

/-- R350: COUNT, SRC and DST of a block operation. -/
def flBlockOk (w : BitVec 512) : Bool :=
  fCount w % 64 == 0 && fCount w != 0 && fSrc w % 64 == 0 && fDst w % 64 == 0

/-- R350, R359–R361: fields of a dispatch or return. -/
def flTokOk (w : BitVec 512) : Bool :=
  flBlockOk w && decide (fCount w ≤ 65536) && fIdx w % 64 == 0 && fMap w % 64 == 0 && fCnt w % 64 == 0

/-! ### Operations in flight -/

/-- CG size and own rank. -/
def State.flN (s : State) (cg : Nat) : Nat := cgSize (s.torus.cgs.get 0 cg)
def State.flMe (s : State) (cg : Nat) : Nat := cgRank (s.torus.cgs.get 0 cg)

/-- The operation a packet belongs to. -/
def Cle.find (c : Cle) (cg oseq : Nat) : Option FlOp := c.ops.find? (fun o => o.cg == cg && o.oseq % 2 ^ 32 == oseq)

/-- Put an operation back. -/
def State.putOp (s : State) (d : Nat) (o : FlOp) : State :=
  { s with dp := s.dp.setCle d (fun c => { c with ops := c.ops.map (fun x => if x.cg = o.cg && x.oseq = o.oseq then o else x) }) }

/-- R347: the operation issues: OSEQ advances, the event is recorded. -/
def State.issueOp (s : State) (d : Nat) (o : FlOp) (opc : Nat) : State :=
  let n := s.dp.getCle d |>.oseq.get 0 o.cg
  let s := s.onDp (fun e x => trace e (cleUid d) { kind := 12, sub := o.cg, a0 := n.toNat % 2 ^ 32, a1 := opc } x)
  let s := if s.flN o.cg > 1 then s.onDp (fun _ => taint) else s
  { s with dp := s.dp.setCle d (fun c => { c with oseq := c.oseq.put 0 o.cg (n + 1), ops := c.ops ++ [{ o with oseq := n.toNat }] }) }

/-- The operation last issued on Flue `d`. -/
def State.lastOp (s : State) (d : Nat) : Option FlOp := (s.dp.getCle d).ops.getLast?

/-! ### Packets (R363) -/

/-- R363: the fields of a FLUE packet's ARGS. -/
structure FlArgs where
  kind : Nat
  flag : Bool := false
  last : Bool := false
  pass : Nat := 0
  shard : Nat := 0
  slab : Nat := 0
  lane : Nat := 0

def FlArgs.pack (x : FlArgs) (o : FlOp) : BitVec 256 :=
  BitVec.ofNat 256 (packBytes [(0, x.kind), (1, o.cg), (2, b2n x.flag + 2 * b2n x.last), (3, x.pass), (4, o.oseq % 2 ^ 32),
    (8, x.shard), (12, x.slab % 2 ^ 32), (16, x.lane % 2 ^ 16)])

def kKind (k : Packet) : Nat := bits k.args 0 8
def kCg (k : Packet) : Nat := bits k.args 8 6
def kFlag (k : Packet) : Bool := bit k.args 16
def kLast (k : Packet) : Bool := bit k.args 17
def kPass (k : Packet) : Nat := bits k.args 24 8
def kOseq (k : Packet) : Nat := bits k.args 32 32
def kShard (k : Packet) : Nat := bits k.args 64 32
def kSlab (k : Packet) : Nat := bits k.args 96 32
def kLane (k : Packet) : Nat := bits k.args 128 16

/-- Send a packet without lines to a rank. -/
def State.flSend (s : State) (d : Nat) (o : FlOp) (rank : Nat) (x : FlArgs) (tag : BitVec 64) : State :=
  let p := s.torus.rankPkg o.cg rank
  s.originate d (cleUid d) 4 1 p.2 p.1 0 tag (x.pack o) []

/-- Send lines to a rank in packets of at most 64, LAST on the final one when `last`; the operation awaits their ACKs. -/
def State.flSendLines (s : State) (d : Nat) (o : FlOp) (rank : Nat) (x : FlArgs) (addr : Nat) (last : Bool) :
    Nat → List (BitVec 512) → State × FlOp
  | 0, _ => (s, o)
  | n + 1, l =>
    if l.isEmpty then (s, o)
    else
      let p := s.torus.rankPkg o.cg rank
      let r := s.dp.log.rtag
      let fin := decide (l.length ≤ 64)
      let s := s.sendAwaited d (cleUid d) 4 1 p.2 p.1 addr 0 ({ x with last := last && fin }.pack o) (l.take 64)
      let s := { s with dp := s.dp.perf (cleUid d) 0x24 (min 64 l.length) }
      s.flSendLines d { o with rtags := o.rtags ++ [r] } rank x (addr + 4096) last n (l.drop 64)

/-- Send all of a list of lines. -/
def State.flSendAll (s : State) (d : Nat) (o : FlOp) (rank : Nat) (x : FlArgs) (addr : Nat) (last : Bool) (l : List (BitVec 512)) :
    State × FlOp := s.flSendLines d o rank x addr last (l.length + 1) l

/-- What a received FLUE packet meets: its operation, a completed one, or one not issued yet. -/
inductive Meet where
  | op (o : FlOp)
  | completed
  | later

/-- R347, R363: match a packet with Flue `d`'s operations. -/
def State.meet (s : State) (d : Nat) (k : Packet) : Meet :=
  let c := s.dp.getCle d
  match c.find (kCg k) (kOseq k) with
  | some o => .op o
  | none => if (BitVec.ofNat 32 (kOseq k) - (c.oseq.get 0 (kCg k)).extractLsb' 0 32).toInt ≥ 0 then .later else .completed

/-- R347: a packet its member's operation cannot place is discarded and counted. -/
def State.flDiscard (s : State) (d : Nat) : State := s.setPort (6 * d) (fun p => { p with drop := satAdd p.drop 1 })

/-- A FLUE packet of one kind is taken from the inbox and given to its operation: of a completed one it is counted in FL_DUP, one for an
operation not issued yet waits. A fault that stops the job ends its launches. -/
def State.onFlue (s : State) (d : Nat) (k : Packet) (kind : Nat) (f : FlOp → State → State) : State :=
  if k.typ = 4 && kKind k = kind && s.torus.inbox.contains k then
    match s.meet d k with
    | .later => s
    | .completed =>
      let s := s.takeInbox k
      { s with dp := s.dp.perf (cleUid d) 0x34 1 }
    | .op o => (f o (s.takeInbox k)).settleStop
  else s

/-- R430: inbound lines are written; R363: their packet is acknowledged; FL_RXLINES counts them. -/
def State.flTook (s : State) (d : Nat) (k : Packet) : State :=
  (s.onDp (fun _ x => taint (x.perf (cleUid d) 0x28 k.lines.length))).sendAck d k

/-! ### Side-band and vote (R356, R358, R277) -/

/-- The value of an exchange reaches this member. -/
def State.flDeliver (s : State) (d : Nat) (o : FlOp) (v : Bool) : State :=
  let s := { s with dp := s.dp.setCle d (fun c => { c with sblast := v }) }
  if bits o.word 0 8 = 0x16 then
    s.onDp (fun e x => match e.ofUnit (cleUid d) with
      | none => x
      | some p => x.setPart p.part (fun q => { q with voteIn := some (v || q.voteIn.getD false) }))
  else if v && o.host.isNone then s.onDp (fun e => raiseBlot e (cleUid d) 4)
  else s

/-- The value goes down the pairs of R66, largest pass first. -/
def State.flDown (s : State) (d : Nat) (o : FlOp) (v : Bool) : State :=
  let n := s.flN o.cg
  let me := s.flMe o.cg
  let s := s.flDeliver d o v
  (upPasses n me).reverse.foldl (fun s p =>
    s.flSend d o (me + 2 ^ p) { kind := 6, flag := v, pass := 2 * passes n - 1 - p, shard := me } 0) s

/-- Once every lower bit is in, this member's bit goes up; at rank 0 the value is known. -/
def State.flUp (s : State) (d : Nat) (o : FlOp) : State :=
  let n := s.flN o.cg
  let me := s.flMe o.cg
  if !((upPasses n me).all (fun p => o.ups.contains p)) then s.putOp d o
  else if me = 0 then (s.putOp d { o with flag := some o.bit }).flDown d o o.bit
  else
    let p := ownPass me
    (s.putOp d o).flSend d o (me - 2 ^ p) { kind := 6, flag := o.bit, pass := p, shard := me } 0

/-- R356: a FLAG packet of the exchange. -/
def State.flFlag (s : State) (d : Nat) (o : FlOp) (pass : Nat) (v : Bool) : State :=
  let n := s.flN o.cg
  let me := s.flMe o.cg
  if pass < passes n then
    if (upPasses n me).contains pass && !(o.ups.contains pass) then
      s.flUp d { o with ups := NSet.add o.ups pass, bit := o.bit || v }
    else s.flDiscard d
  else if me ≠ 0 && pass = 2 * passes n - 1 - ownPass me && o.flag.isNone then
    (s.putOp d { o with flag := some v }).flDown d o v
  else s.flDiscard d

end Sys2Proof.Machine
end

