-- ==== Sys2Proof/Machine/FlueRs.lean ====
section
/-! DEFINITION. The reduce-scatter engine of a Flue (14_collectives.md R352–R356): trees in tree order, lanes, grants, partials combined in
pass order, and the delivery of a shard. -/

namespace Sys2Proof.Machine

/-- R354: bytes and number of slabs of an operation. -/
def FlOp.slabs (o : FlOp) : Nat := ceilDiv o.count (fSlab o.word)
def FlOp.slabBytes (o : FlOp) (k : Nat) : Nat := min (fSlab o.word) (o.count - k * fSlab o.word)

/-- R354: lanes of `n` bytes-per-slab in a die's buffer, and the address of lane `i`. -/
def flLaneAddr (d : Nat) (w : BitVec 512) (i : Nat) : Nat := rbufAddr d (i * fSlab w)

/-- Lines of this member's contribution to tree (slab k, shard s). -/
def FlOp.contrib (o : FlOp) (k s : Nat) : List (BitVec 512) :=
  (o.data.drop ((s * o.count + k * fSlab o.word) / 64)).take (o.slabBytes k / 64)

/-- R66, R67, R353: combine two partials line by line, the lower ranks first; the combines of two finite operands that round to an
infinity are counted (R367). -/
def combineLines (f : Fmt) (a b : List (BitVec 512)) : List (BitVec 512) × Nat :=
  (a.zip b).foldl (fun r x =>
    let n := 512 / f.width
    let xs := elemsFrom f.width x.1.toNat n 0
    let ys := elemsFrom f.width x.2.toNat n 0
    let zs := (xs.zip ys).map (fun y => combine f y.1 y.2)
    let ov := ((xs.zip ys).zip zs).filter (fun y =>
      !(f.decode y.1.1).nonFinite && !(f.decode y.1.2).nonFinite && (f.decode y.2).nonFinite)
    (r.1 ++ [BitVec.ofNat 512 (packElems f.width zs)], r.2 + ov.length)) ([], 0)

/-- Some element of the lines is a NaN or an infinity. -/
def linesBad (f : Fmt) (l : List (BitVec 512)) : Bool :=
  l.any (fun v => (elemsFrom f.width v.toNat (512 / f.width) 0).any (fun x => (f.decode x).nonFinite))

/-- Elements of a line that are the canonical NaN. -/
def lineNans (f : Fmt) (v : BitVec 512) : Nat := ((elemsFrom f.width v.toNat (512 / f.width) 0).filter (fun x => x == f.nanBits)).length

/-- R352, R275: the reduced slab is delivered at its owner. -/
def flDeliverSlab (e : Env) (d : Nat) (o : FlOp) (k : Nat) (l : List (BitVec 512)) (x : Dp) : Dp :=
  let u := cleUid d
  let f := fFmt o.word
  let x := if linesBad f l && o.host.isNone then raiseBlot e u 3 x else x
  if fDmode o.word then
    let n := 512 / f.width
    l.zipIdx.foldl (fun x y => addSource e u (fDst o.word + (k * fSlab o.word + 64 * y.2) / fElem o.word * 4) f n y.1 x) x
  else
    l.zipIdx.foldl (fun x y =>
      let w := flWrite e d o.host.isSome (fDst o.word + o.off + k * fSlab o.word + 64 * y.2) y.1 x
      if w.1 then w.2.sticky u (fun z => { z with nanw := satAdd z.nanw (lineNans f y.1) }) else w.2) x

/-- The lanes in use by an operation's trees. -/
def FlOp.lanesUsed (o : FlOp) : List Nat := o.trees.flatMap (fun t => t.2.lanes)

/-- The lowest `n` free lanes, none when there are fewer. -/
def FlOp.takeLanes (o : FlOp) (n : Nat) : Option (List Nat) :=
  let used := o.lanesUsed
  let free := (List.range (fLanes o.word)).filter (fun i => !(used.contains (fLbase o.word + i)))
  if n ≤ free.length then some ((free.take n).map (fun i => fLbase o.word + i)) else none

def FlOp.tree (o : FlOp) (t : Nat) : FlTree := o.trees.get {} t
def FlOp.setTree (o : FlOp) (t : Nat) (f : FlTree → FlTree) : FlOp := { o with trees := o.trees.upd {} t f }

/-- R355: the value of tree `t` is sent against its grant: from its node lane, or straight from SRC; the wait for the grant is counted;
its lanes are released. -/
def State.flSendPartial (s : State) (d : Nat) (o : FlOp) (t : Nat) (st : FlStep) (lane since : Nat) : State × FlOp :=
  let n := s.flN o.cg
  let k := t / n
  let tr := o.tree t
  let ns := s.clk.tb.toNat - since
  let r := match tr.lanes with
    | [] => (some (o.contrib k (t % n)), s.dp)
    | a :: _ => flReads s.env d o.host.isSome (o.slabBytes k / 64) (flLaneAddr d o.word a) s.dp
  let s := { s with dp := r.2.perf (cleUid d) 0x30 ns }
  match r.1 with
  | none => (s, o)
  | some l =>
    let a : FlArgs := { kind := 0, pass := st.pass, shard := t % n, slab := k, lane := lane }
    s.flSendAll d ({ o with grantNs := o.grantNs + ns }.setTree t (fun x => { x with done := true, lanes := [] })) st.peer a 0 true l

/-- R355: the value of tree `t` is complete at this member: deliver it at the owner, send it when granted, or wait for the grant. -/
def State.flValue (s : State) (d : Nat) (o : FlOp) (t : Nat) : State × FlOp :=
  let n := s.flN o.cg
  let k := t / n
  let tr := o.tree t
  if tr.done then (s, o)
  else
    match sendStep (flPlan n (t % n) (s.flMe o.cg)) with
    | none =>
      let r := match tr.lanes with
        | [] => (some (o.contrib k (t % n)), s.dp)
        | a :: _ => flReads s.env d o.host.isSome (o.slabBytes k / 64) (flLaneAddr d o.word a) s.dp
      (match r.1 with
       | none => ({ s with dp := r.2 }, o)
       | some l =>
         let dp := r.2
         ({ s with dp := flDeliverSlab s.env d o k l dp }, o.setTree t (fun x => { x with done := true, lanes := [] })))
    | some st =>
      let since := tr.readyAt.getD s.clk.tb.toNat
      match tr.grant with
      | some lane => s.flSendPartial d o t st lane since
      | none => (s, o.setTree t (fun x => { x with readyAt := some since }))

/-- R353, R355: combine the complete partials of tree `t` in pass order; once all are in, its value is complete. -/
def State.flCombine (s : State) (d : Nat) (o : FlOp) (t : Nat) : Nat → State × FlOp
  | 0 => (s, o)
  | fuel + 1 =>
    let n := s.flN o.cg
    let k := t / n
    let steps := recvSteps (flPlan n (t % n) (s.flMe o.cg))
    let tr := o.tree t
    match steps[tr.combined]?, tr.lanes with
    | none, _ => s.flValue d o t
    | some _, [] => (s, o)
    | some st, node :: _ =>
      if !(tr.full.contains tr.combined) then (s, o)
      else
        let e := s.env
        let h := o.host.isSome
        let m := o.slabBytes k / 64
        let a := flLaneAddr d o.word node
        match flReads e d h m a s.dp with
        | (none, x) => ({ s with dp := x }, o)
        | (some mine, x) =>
        match flReads e d h m (flLaneAddr d o.word (tr.lanes.getD (tr.combined + 1) 0)) x with
        | (none, x) => ({ s with dp := x }, o)
        | (some theirs, x) =>
          let c := if st.left then combineLines (fFmt o.word) mine theirs else combineLines (fFmt o.word) theirs mine
          let x := (flWrites e d h a c.1 x).sticky (cleUid d) (fun z => { z with ovfw := satAdd z.ovfw c.2 })
          ({ s with dp := x }).flCombine d (o.setTree t (fun y => { y with combined := y.combined + 1 })) t fuel

/-- R355: trees take their lanes in tree order; each grants the partials it receives, and a tree that receives none is ready at once. -/
def State.flTrees (s : State) (d : Nat) (o : FlOp) : Nat → State × FlOp
  | 0 => (s, o)
  | fuel + 1 =>
    let n := s.flN o.cg
    let t := o.next
    if t ≥ o.slabs * n then (s, o)
    else
      let steps := recvSteps (flPlan n (t % n) (s.flMe o.cg))
      let k := t / n
      if steps.isEmpty then
        let r := s.flValue d { o with next := t + 1 } t
        r.1.flTrees d r.2 fuel
      else
        match o.takeLanes (1 + steps.length) with
        | none => (s, o)
        | some lanes =>
          let o := { o with next := t + 1 }.setTree t (fun x => { x with lanes := lanes })
          let s := s.onDp (fun e x => flWrites e d o.host.isSome (flLaneAddr d o.word (lanes.headD 0)) (o.contrib k (t % n)) x)
          let s := steps.zipIdx.foldl (fun s y =>
            s.flSend d o y.1.peer { kind := 1, pass := y.1.pass, shard := t % n, slab := k, lane := lanes.getD (y.2 + 1) 0 } 0) s
          s.flTrees d o fuel

/-- Go on after a tree has moved: the trees that may now take lanes, then the operation is put back. -/
def State.flGo (s : State) (d : Nat) (r : State × FlOp) : State :=
  let n := s.flN r.2.cg
  let x := r.1.flTrees d r.2 (r.2.slabs * n - r.2.next + 1)
  x.1.putOp d x.2

/-- R352: every tree of a reduce-scatter is done. -/
def FlOp.treesDone (o : FlOp) (n : Nat) : Bool :=
  decide (o.next = o.slabs * n) && (List.range (o.slabs * n)).all (fun t => (o.tree t).done)

/-- R355: a GRANT names the lane for this member's partial. -/
def State.flGrant (s : State) (d : Nat) (o : FlOp) (k : Packet) : State :=
  let n := s.flN o.cg
  let t := kSlab k * n + kShard k
  let st := sendStep (flPlan n (kShard k) (s.flMe o.cg))
  if bits o.word 0 8 ≠ 0x11 || kShard k ≥ n || kSlab k ≥ o.slabs || (o.tree t).done || (o.tree t).grant.isSome ||
      (match st with
       | some y => y.pass != kPass k
       | none => true) then s.flDiscard d
  else
    let o := o.setTree t (fun x => { x with grant := some (kLane k) })
    match (o.tree t).readyAt with
    | some _ => s.flGo d (s.flValue d o t)
    | none => s.putOp d o

/-- R355, R367: lines of a partial are held in its lane; the last completes it, and it is combined in pass order. -/
def State.flPart (s : State) (d : Nat) (o : FlOp) (k : Packet) : State :=
  let n := s.flN o.cg
  let t := kSlab k * n + kShard k
  let steps := recvSteps (flPlan n (kShard k) (s.flMe o.cg))
  let tr := o.tree t
  match (steps.zipIdx).find? (fun y => y.1.pass == kPass k) with
  | none => s.flDiscard d
  | some (_, i) =>
    let len := o.slabBytes (kSlab k)
    if bits o.word 0 8 ≠ 0x11 || kShard k ≥ n || kSlab k ≥ o.slabs || tr.lanes.getD (i + 1) 0 ≠ kLane k || tr.lanes.isEmpty ||
        k.addr % 64 ≠ 0 || k.addr + 64 * k.lines.length > len || tr.full.contains i then s.flDiscard d
    else
      let s := s.onDp (fun e x => flWrites e d o.host.isSome (flLaneAddr d o.word (kLane k) + k.addr) k.lines x)
      let s := s.flTook d k
      let got := tr.got.get 0 i + k.lines.length
      let full := decide (got * 64 ≥ len)
      let o := o.setTree t (fun x => { x with got := x.got.put 0 i got, full := if full then NSet.add x.full i else x.full })
      let s := if full && decide (i > tr.combined) then { s with dp := s.dp.perf (cleUid d) 0x2C 1 } else s
      if full then s.flGo d (s.flCombine d o t (steps.length + 1)) else s.putOp d o

end Sys2Proof.Machine
end

