-- ==== Sys2Proof/Machine/Flue.lean ====
section
/-! DEFINITION. Meanings of the collective engines' instructions, packets and completion (14_collectives.md R349–R366), and of the
host's COLLECTIVE (R134). -/

namespace Sys2Proof.Machine

/-! ### Issue -/

/-- R347: dispatch waits: eight operations in flight, or a reduce-scatter's lanes overlap those of one in flight. -/
def State.flWaits (s : State) (d : Nat) (w : BitVec 512) : Bool :=
  let ops := (s.dp.getCle d).ops
  decide (ops.length ≥ 8) || (bits w 0 8 == 0x11 && ops.any (fun o => bits o.word 0 8 == 0x11 &&
    overlap (fLbase w * fSlab w) (fLanes w * fSlab w) (fLbase o.word * fSlab o.word) (fLanes o.word * fSlab o.word)))

/-- R349: run one operation of Flue `d`: a valid one waits for room, then issues. -/
def State.runFlue (s : State) (d opc : Nat) (w : BitVec 512) (valid : Bool) (f : State → State) : State :=
  if valid && s.flWaits d w then s else s.runUnit (cleUid d) opc w.toNat valid f

/-- The partition state Flue `d` works under. -/
def State.flPartState (s : State) (d : Nat) : Part :=
  match s.env.ofUnit (cleUid d) with
  | some p => s.dp.getPart p.part
  | none => {}

/-- Read SRC: `n` blocks at the operation's stride, its share of each. -/
def flSource (e : Env) (d : Nat) (o : FlOp) : Nat → Nat → Dp → Option (List (BitVec 512)) × Dp
  | 0, _, x => (some [], x)
  | n + 1, a, x =>
    match flReads e d o.host.isSome (o.count / 64) (a + o.off) x with
    | (none, x) => (none, x)
    | (some l, x) =>
      match flSource e d o n (a + o.stride) x with
      | (none, x) => (none, x)
      | (some r, x) => (some (l ++ r), x)

/-- Issue an operation with its SRC read: `f` goes on with the operation as issued. -/
def State.flIssue (s : State) (d : Nat) (o : FlOp) (blocks : Nat) (f : State → FlOp → State) : State :=
  match flSource s.env d o blocks (fSrc o.word) s.dp with
  | (none, x) => ({ s with dp := x }).issueOp d o (bits o.word 0 8)
  | (some l, x) =>
    let s := ({ s with dp := x }).issueOp d { o with data := l } (bits o.word 0 8)
    match s.lastOp d with
    | some o => f s o
    | none => s

/-- An operation of an instruction. -/
def opOf (w : BitVec 512) : FlOp := { cg := fCg w, oseq := 0, word := w, stride := fCount w, count := fCount w }

/-! ### Reduce-scatter and vote -/

/-- R351, R352, R354: RS is valid. -/
def State.rsValid (s : State) (d : Nat) (w : BitVec 512) : Bool :=
  let n := s.flN (fCg w)
  s.flCommon d w [(24, 1), (256, 48), (320, 48), (384, 48), (448, 64)] && bits w 16 2 != 3 && decide (bits w 20 4 ≤ 8) && flBlockOk w &&
    decide ((fLbase w + fLanes w) * fSlab w ≤ 2 ^ 24) && decide (1 + passes n ≤ fLanes w) &&
    !(overlap (fSrc w) (n * fCount w) (fDst w) (if fDmode w then fCount w * 4 / fElem w else fCount w))

/-- R352, R356, R275: a reduce-scatter issues. -/
def State.startRs (s : State) (d : Nat) (o : FlOp) : State :=
  let blot := (s.flPartState d).blotS0
  s.flIssue d o (s.flN o.cg) (fun s o =>
    let bad := linesBad (fFmt o.word) o.data
    let s := if bad && o.host.isNone then s.onDp (fun e => raiseBlot e (cleUid d) 3) else s
    let s := s.flGo d (s, { o with bit := blot || bad })
    match (s.dp.getCle d).ops.find? (fun x => x.cg == o.cg && x.oseq == o.oseq) with
    | some o => if fSb o.word && o.host.isNone then s.flUp d o else s
    | none => s)

def execRs (d : Fin 4) (w : BitVec 512) (s : State) : Host.Outcome State Fault Refusal :=
  .next (s.runFlue d.val 0x11 w (s.rsValid d.val w) (fun s => s.startRs d.val (opOf w)))

/-- R351: VOTE uses no field but CG and CREDIT, on d0 alone. -/
def State.voteValid (s : State) (d : Nat) (w : BitVec 512) : Bool :=
  decide (d = 0) && s.flCommon d w [(16, 9), (32, 80), (128, 48), (192, 32), (256, 48), (320, 48), (384, 48), (448, 64)]

/-- R276, R358: the vote carries the blot flag of S+0. -/
def State.startVote (s : State) (d : Nat) (o : FlOp) : State :=
  let bit := (s.flPartState d).blotS0
  let s := s.onDp (fun e x => match e.ofUnit (cleUid d) with
    | none => x
    | some p => x.setPart p.part (fun q => { q with voted := true, blotAtVote := q.blotS0, lateSrc := q.strokeSrc, lateUnit := q.strokeUnit }))
  s.flIssue d o 0 (fun s o => s.flUp d { o with bit := bit })

def execVote (d : Fin 4) (w : BitVec 512) (s : State) : Host.Outcome State Fault Refusal :=
  .next (s.runFlue d.val 0x16 w (s.voteValid d.val w) (fun s =>
    s.startVote d.val { opOf w with stride := 0, count := 0 }))

/-! ### All-gather and broadcast (R357) -/

/-- Lines of block `shard` go on to the members below this one in its tree, the largest pass first. -/
def State.flBlockOut (s : State) (d : Nat) (o : FlOp) (shard addr : Nat) (last : Bool) (l : List (BitVec 512)) : State × FlOp :=
  (recvSteps (flPlan (s.flN o.cg) shard (s.flMe o.cg))).reverse.foldl (fun (r : State × FlOp) st =>
    r.1.flSendAll d r.2 st.peer { kind := 2, pass := st.pass, shard := shard } addr last l) (s, o)

/-- Where block `shard` lies in DST. -/
def FlOp.blockAt (o : FlOp) (shard : Nat) : Nat := fDst o.word + o.off + if bits o.word 0 8 = 0x10 then shard * o.stride else 0

/-- This member's own block is written to DST and sent on. -/
def State.ownBlock (s : State) (d : Nat) (o : FlOp) : State :=
  let me := s.flMe o.cg
  let a := o.blockAt me
  let s := s.onDp (fun e x => flWrites e d o.host.isSome a o.data x)
  let r := s.flBlockOut d o me a true o.data
  r.1.putOp d r.2

/-- R350, R351: AG is valid. -/
def State.agValid (s : State) (d : Nat) (w : BitVec 512) : Bool :=
  s.flCommon d w [(16, 9), (32, 32), (256, 48), (320, 48), (384, 48), (448, 64)] && flBlockOk w &&
    !(overlap (fSrc w) (fCount w) (fDst w) (s.flN (fCg w) * fCount w))

def State.startAg (s : State) (d : Nat) (o : FlOp) : State := s.flIssue d o 1 (fun s o => s.ownBlock d o)

def execAg (d : Fin 4) (w : BitVec 512) (s : State) : Host.Outcome State Fault Refusal :=
  .next (s.runFlue d.val 0x10 w (s.agValid d.val w) (fun s => s.startAg d.val (opOf w)))

/-- R350, R351, R357: BCAST is valid. -/
def State.bcastValid (s : State) (d : Nat) (w : BitVec 512) : Bool :=
  let root := decide (s.flMe (fCg w) = fRoot w)
  s.flCommon d w [(16, 9), (32, 32), (256, 48), (320, 48), (384, 48), (466, 46)] && flBlockOk w && decide (fRoot w < s.flN (fCg w)) &&
    (if root then !(overlap (fSrc w) (fCount w) (fDst w) (fCount w)) else fSrc w == 0)

def State.startBcast (s : State) (d : Nat) (o : FlOp) : State :=
  if s.flMe o.cg = fRoot o.word then s.flIssue d o 1 (fun s o => s.ownBlock d o) else s.flIssue d o 0 (fun s _ => s)

def execBcast (d : Fin 4) (w : BitVec 512) (s : State) : Host.Outcome State Fault Refusal :=
  .next (s.runFlue d.val 0x12 w (s.bcastValid d.val w) (fun s => s.startBcast d.val (opOf w)))

/-- R357: a BLOCK packet of an all-gather or broadcast. -/
def State.flBlock (s : State) (d : Nat) (o : FlOp) (k : Packet) : State :=
  let n := s.flN o.cg
  let me := s.flMe o.cg
  let sh := kShard k
  let a := o.blockAt sh
  let ok := (bits o.word 0 8 == 0x10 && decide (sh < n) && sh != me) || (bits o.word 0 8 == 0x12 && sh == fRoot o.word && sh != me)
  if !ok || k.addr % 64 ≠ 0 || k.addr < a || k.addr + 64 * k.lines.length > a + o.count then s.flDiscard d
  else
    let s := s.onDp (fun e x => flWrites e d o.host.isSome k.addr k.lines x)
    let s := s.flTook d k
    let o := { o with got := o.got.upd 0 sh (· + k.lines.length) }
    let r := s.flBlockOut d o sh k.addr (kLast k) k.lines
    r.1.putOp d r.2

/-! ### Dispatch and return (R359–R362) -/

/-- MAP's mark of an entry without a row. -/
def noRow : Nat := 0xFFFFFFFF

/-- R359: entries whose destination is a rank, and those with a bad index. -/
def entryOk (n d : Nat) : Bool := decide (d < n)
def entryBad (n d : Nat) : Bool := !(decide (d < n)) && d != noRow

/-- Entries (ascending) with destination `d`. -/
def entriesFor (idx : List Nat) (d : Nat) : List Nat := (idx.zipIdx.filter (fun x => x.1 == d)).map (·.2)

/-- The row each entry gets: `place i d` is that of the i-th entry for d, none when dropped. -/
def mapOf (n : Nat) (idx : List Nat) (place : Nat → Nat → Option Nat) : List Nat :=
  (idx.foldl (fun (r : List Nat × Tab Nat) d =>
    if entryOk n d then (((place (r.2.get 0 d) d).getD noRow) :: r.1, r.2.upd 0 d (· + 1)) else (noRow :: r.1, r.2)) ([], [])).1.reverse

/-- Lines of one row. -/
def rowLines (w : BitVec 512) : Nat := fCount w / 64

/-- Rows of SRC by number, sent to rank `r` as its rows `to`; a row for this member is written here. -/
def State.flRows (s : State) (d : Nat) (o : FlOp) (r : Nat) (rows : List (Nat × Nat × Nat)) : State × FlOp :=
  let w := o.word
  let me := s.flMe o.cg
  let src := fun i => (o.data.drop (i * rowLines w)).take (rowLines w)
  if r = me then
    let s := rows.foldl (fun s x => s.onDp (fun e y => flWrites e d false x.2.1 (src x.1) y)) s
    (s, { o with got := o.got.upd 0 me (· + rows.length * rowLines w), last := NSet.add o.last me })
  else
    rows.zipIdx.foldl (fun (a : State × FlOp) x =>
      a.1.flSendAll d a.2 r { kind := 3, shard := me, slab := x.1.2.2 } x.1.2.1 (decide (x.2 + 1 = rows.length)) (src x.1.1)) (s, o)

/-- Count the drops and bad indices of an operation (R359, R367). -/
def State.flDrops (s : State) (d : Nat) (drop bad : Nat) : State :=
  { s with dp := s.dp.sticky (cleUid d) (fun z => { z with drop := satAdd z.drop drop, badix := satAdd z.badix bad }) }

/-- Read an array of `n` 32-bit words. -/
def flArray (e : Env) (d : Nat) (a n : Nat) (x : Dp) : Option (List Nat) × Dp :=
  match flReads e d false (ceilDiv n 16) a x with
  | (none, x) => (none, x)
  | (some l, x) => (some ((lineWords l).take n), x)

/-- An operation with its IDX array read. -/
def State.withIdx (s : State) (d : Nat) (w : BitVec 512) (f : State → List Nat → State) : State :=
  match flArray s.env d (fIdx w) (fTokens w * fK w) s.dp with
  | (none, x) => { s with dp := x }
  | (some l, x) => f { s with dp := x } l

/-- An operation over T tokens. -/
def opTok (w : BitVec 512) : FlOp := { opOf w with stride := fTokens w * fCount w, count := fTokens w * fCount w }

/-- R350, R351: A2A is valid. -/
def State.a2aValid (s : State) (d : Nat) (w : BitVec 512) : Bool :=
  s.flCommon d w [(16, 9), (32, 32), (488, 24)] && flTokOk w && fCap w != 0 &&
    !(overlap (fSrc w) (fTokens w * fCount w) (fDst w) (s.flN (fCg w) * fCap w * fCount w))

/-- R359: a fixed-capacity dispatch issues: rows go out, MAP is written, drops and bad indices are counted. -/
def State.startA2a (s : State) (d : Nat) (w : BitVec 512) : State :=
  s.withIdx d w (fun s idx =>
    s.flIssue d (opTok w) 1 (fun s o =>
      let n := s.flN o.cg
      let me := s.flMe o.cg
      let mp := mapOf n idx (fun i _ => if i < fCap w then some (me * fCap w + i) else none)
      let good := (idx.filter (entryOk n)).length
      let sent := (mp.filter (fun x => x != noRow)).length
      let bad := (idx.filter (entryBad n)).length
      let o := { o with idx := idx, place := mp, sent := good, drop := good - sent, bad := bad }
      let s := (s.onDp (fun e x => flWords e d false (fMap w) mp x)).flDrops d (good - sent) bad
      let r := (List.range n).foldl (fun (a : State × FlOp) r =>
        let rows := ((entriesFor idx r).take (fCap w)).zipIdx.map (fun x =>
          (x.1 / fK w, fDst w + (me * fCap w + x.2) * fCount w, 0))
        if rows.isEmpty then a else a.1.flRows d a.2 r rows) (s, o)
      r.1.putOp d r.2))

def execA2a (d : Fin 4) (w : BitVec 512) (s : State) : Host.Outcome State Fault Refusal :=
  .next (s.runFlue d.val 0x13 w (s.a2aValid d.val w) (fun s => s.startA2a d.val w))

/-- R360: base and kept rows of each source, from every source's count. -/
def basesOf (rcap : Nat) (counts : List Nat) : List (Nat × Nat) :=
  (counts.foldl (fun (r : List (Nat × Nat) × Nat) c => ((r.2, min c (rcap - r.2)) :: r.1, r.2 + c)) ([], 0)).1.reverse

/-- R360: this member, as a receiver: the counts of every source, once all are in. -/
def FlOp.allCounts (o : FlOp) (n : Nat) : Option (List Nat) :=
  (List.range n).foldr (fun i r => match o.counts.get none i, r with
    | some c, some l => some (c :: l)
    | _, _ => none) (some [])

/-- R360: rank `r` has answered with base and kept: rows go out; once every rank has, MAP is written and the drops counted. -/
def State.flBases (s : State) (d : Nat) (o : FlOp) (r base kept : Nat) : State × FlOp :=
  let w := o.word
  let n := s.flN o.cg
  let o := { o with bases := o.bases.put none r (some (base, kept)) }
  let rows := ((entriesFor o.idx r).take kept).zipIdx.map (fun x => (x.1 / fK w, fDst w + (base + x.2) * fCount w, 0))
  let a := if rows.isEmpty then (s, o) else s.flRows d o r rows
  let s := a.1
  let o := a.2
  if (List.range n).all (fun i => (o.bases.get none i).isSome) then
    let mp := mapOf n o.idx (fun i d => match o.bases.get none d with
      | some (b, k) => if i < k then some (b + i) else none
      | none => none)
    let sent := (mp.filter (fun x => x != noRow)).length
    ((s.onDp (fun e x => flWords e d false (fMap w) mp x)).flDrops d (o.sent - sent) 0, { o with place := mp, drop := o.sent - sent })
  else (s, o)

/-- R360: source `r`'s count is in; once all are, every source gets its base and kept rows. -/
def State.flCounts (s : State) (d : Nat) (o : FlOp) (r c : Nat) : State × FlOp :=
  let n := s.flN o.cg
  let me := s.flMe o.cg
  let o := { o with counts := o.counts.put none r (some c) }
  match o.allCounts n with
  | none => (s, o)
  | some l =>
    (basesOf (fRcap o.word) l).zipIdx.foldl (fun (a : State × FlOp) x =>
      if x.2 = me then a.1.flBases d a.2 me x.1.1 x.1.2
      else (a.1.flSend d a.2 x.2 { kind := 5, shard := me } (BitVec.ofNat 64 (x.1.1 % 2 ^ 32 + x.1.2 * 2 ^ 32)), a.2)) (s, o)

/-- R350, R351: A2AV is valid. -/
def State.a2avValid (s : State) (d : Nat) (w : BitVec 512) : Bool :=
  s.flCommon d w [(16, 9), (32, 32), (472, 16)] && flTokOk w && fRcap w != 0 &&
    !(overlap (fSrc w) (fTokens w * fCount w) (fDst w) (fRcap w * fCount w))

/-- R360: a counts-first dispatch issues: its counts go to every rank. -/
def State.startA2av (s : State) (d : Nat) (w : BitVec 512) : State :=
  s.withIdx d w (fun s idx =>
    s.flIssue d (opTok w) 1 (fun s o =>
      let n := s.flN o.cg
      let me := s.flMe o.cg
      let bad := (idx.filter (entryBad n)).length
      let o := { o with idx := idx, sent := (idx.filter (entryOk n)).length, bad := bad }
      let s := s.flDrops d 0 bad
      let s := (List.range n).foldl (fun s r => if r = me then s
        else s.flSend d o r { kind := 4, shard := me } (BitVec.ofNat 64 (entriesFor idx r).length)) s
      let r := s.flCounts d o me (entriesFor idx me).length
      r.1.putOp d r.2))

def execA2av (d : Fin 4) (w : BitVec 512) (s : State) : Host.Outcome State Fault Refusal :=
  .next (s.runFlue d.val 0x14 w (s.a2avValid d.val w) (fun s => s.startA2av d.val w))

/-- R361: the rows a return sends, as (row, source): those within each source's count. -/
def returnRows (w : BitVec 512) (counts : List Nat) : List (Nat × Nat) :=
  if fVar w then
    (counts.zipIdx.foldl (fun (r : List (Nat × Nat) × Nat) x =>
      (r.1 ++ (List.range x.1).map (fun i => (r.2 + i, x.2)), r.2 + x.1)) ([], 0)).1
  else counts.zipIdx.flatMap (fun x => (List.range (min x.1 (fCap w))).map (fun i => (x.2 * fCap w + i, x.2)))

/-- R350, R351: A2AR is valid. -/
def State.a2arValid (s : State) (d : Nat) (w : BitVec 512) : Bool :=
  let n := s.flN (fCg w)
  s.flCommon d w [(16, 8), (32, 32)] && flTokOk w &&
    (if fVar w then fCap w == 0 && fRcap w != 0 else fRcap w == 0 && fCap w != 0) &&
    !(overlap (fSrc w) ((if fVar w then fRcap w else n * fCap w) * fCount w) (fDst w) (fTokens w * fK w * fCount w))

/-- R361: the entry of a row that rank `r` returns from its row `j`. -/
def FlOp.entryOf (o : FlOp) (r j : Nat) : Option Nat :=
  ((o.idx.zip o.place).zipIdx.find? (fun x => x.1.1 == r && x.1.2 == j && j != noRow)).map (·.2)

/-- R361: a return issues: its rows go back to their sources, and entries without a row get zeros. -/
def State.startA2ar (s : State) (d : Nat) (w : BitVec 512) : State :=
  let n := s.flN (fCg w)
  s.withIdx d w (fun s idx =>
    match flArray s.env d (fMap w) (fTokens w * fK w) s.dp with
    | (none, x) => { s with dp := x }
    | (some mp, x) =>
    match flArray s.env d (fCnt w + 64) n x with
    | (none, x) => { s with dp := x }
    | (some counts, x) =>
      let rows := returnRows w counts
      let top := (rows.map (fun r => r.1 + 1)).foldl max 0
      let o : FlOp := { opOf w with stride := top * fCount w, count := top * fCount w }
      ({ s with dp := x }).flIssue d o 1 (fun s o =>
        let o := { o with idx := idx, place := mp }
        let me := s.flMe o.cg
        let s := (mp.zipIdx).foldl (fun (s : State) (y : Nat × Nat) => if y.1 = noRow then
          s.onDp (fun e z => flWrites e d false (fDst w + y.2 * fCount w) (List.replicate (rowLines w) 0) z) else s) s
        let r := (List.range n).foldl (fun (a : State × FlOp) r =>
          let l : List (Nat × Nat × Nat) := (rows.filter (fun (y : Nat × Nat) => y.2 == r)).map (fun (y : Nat × Nat) =>
            (y.1, if r = me then fDst w + ((o.entryOf me y.1).getD 0) * fCount w else fDst w, y.1))
          let l := if r = me then l.filter (fun (y : Nat × Nat × Nat) => (o.entryOf me y.1).isSome) else l
          if l.isEmpty then a else a.1.flRows d a.2 r l) (s, o)
        r.1.putOp d r.2))

def execA2ar (d : Fin 4) (w : BitVec 512) (s : State) : Host.Outcome State Fault Refusal :=
  .next (s.runFlue d.val 0x15 w (s.a2arValid d.val w) (fun s => s.startA2ar d.val w))

/-- R361, R363: where lines of a returned row go. This model's Flues send a row with its number in SLAB and DST plus the byte in the row in
ADDR, because IDX and MAP lie at the receiver; a packet that carries the destination address itself is placed there when its entry is
one of the sender's (DESIGN CHOICE, log 111). -/
def FlOp.returnAt (o : FlOp) (k : Packet) : Option Nat :=
  let w := o.word
  let len := 64 * k.lines.length
  let off := k.addr - fDst w
  if k.addr < fDst w then none
  else if off + len ≤ fCount w then (o.entryOf (kShard k) (kSlab k)).map (fun e => k.addr + e * fCount w)
  else
    let e := off / max 1 (fCount w)
    if o.idx[e]? = some (kShard k) && (o.place.getD e noRow) != noRow && off % max 1 (fCount w) + len ≤ fCount w then some k.addr else none

/-- R359, R361: lines of a row arrive. -/
def State.flRow (s : State) (d : Nat) (o : FlOp) (k : Packet) : State :=
  let w := o.word
  let n := s.flN o.cg
  let len := 64 * k.lines.length
  let a : Option Nat :=
    match bits w 0 8 with
    | 0x13 => if k.addr + len ≤ fDst w + n * fCap w * fCount w then some k.addr else none
    | 0x14 => if k.addr + len ≤ fDst w + fRcap w * fCount w then some k.addr else none
    | 0x15 => o.returnAt k
    | _ => none
  match a with
  | none => s.flDiscard d
  | some a =>
    if k.addr < fDst w || k.addr % 64 ≠ 0 || kShard k ≥ n then s.flDiscard d
    else
      let s := s.onDp (fun e x => flWrites e d false a k.lines x)
      (s.flTook d k).putOp d { o with got := o.got.upd 0 (kShard k) (· + k.lines.length),
                                      last := if kLast k then NSet.add o.last (kShard k) else o.last }

/-! ### Packets -/

/-- R355: GRANT. -/
def execGrantPacket (d : Fin 4) (k : Packet) (s : State) : Host.Outcome State Fault Refusal :=
  .next (s.onFlue d.val k 1 (fun o s => s.flGrant d.val o k))

/-- R355: PART. -/
def execPartPacket (d : Fin 4) (k : Packet) (s : State) : Host.Outcome State Fault Refusal :=
  .next (s.onFlue d.val k 0 (fun o s => s.flPart d.val o k))

/-- R357: BLOCK. -/
def execBlockPacket (d : Fin 4) (k : Packet) (s : State) : Host.Outcome State Fault Refusal :=
  .next (s.onFlue d.val k 2 (fun o s => s.flBlock d.val o k))

/-- R359–R361: ROW. -/
def execRowPacket (d : Fin 4) (k : Packet) (s : State) : Host.Outcome State Fault Refusal :=
  .next (s.onFlue d.val k 3 (fun o s => s.flRow d.val o k))

/-- R360: COUNTS gives a source's count. -/
def execCountsPacket (d : Fin 4) (k : Packet) (s : State) : Host.Outcome State Fault Refusal :=
  .next (s.onFlue d.val k 4 (fun o s =>
    if bits o.word 0 8 ≠ 0x14 || kShard k ≥ s.flN o.cg || (o.counts.get none (kShard k)).isSome then s.flDiscard d.val
    else
      let r := s.flCounts d.val o (kShard k) (bits k.tag 0 32)
      r.1.putOp d.val r.2))

/-- R360: BASES gives base and kept rows at a receiver. -/
def execBasesPacket (d : Fin 4) (k : Packet) (s : State) : Host.Outcome State Fault Refusal :=
  .next (s.onFlue d.val k 5 (fun o s =>
    if bits o.word 0 8 ≠ 0x14 || kShard k ≥ s.flN o.cg || (o.bases.get none (kShard k)).isSome then s.flDiscard d.val
    else
      let r := s.flBases d.val o (kShard k) (bits k.tag 0 32) (bits k.tag 32 32)
      r.1.putOp d.val r.2))

/-- R356, R358: FLAG carries a bit of a side-band exchange or a vote. -/
def execFlagPacket (d : Fin 4) (k : Packet) (s : State) : Host.Outcome State Fault Refusal :=
  .next (s.onFlue d.val k 6 (fun o s =>
    if bits o.word 0 8 = 0x16 || (bits o.word 0 8 = 0x11 && fSb o.word && o.host.isNone) then s.flFlag d.val o (kPass k) (kFlag k)
    else s.flDiscard d.val))

/-! ### Completion (R348) -/

/-- Everything an operation awaits from others is in. -/
def State.flAllIn (s : State) (o : FlOp) : Bool :=
  let w := o.word
  let n := s.flN o.cg
  let me := s.flMe o.cg
  match bits w 0 8 with
  | 0x10 => (List.range n).all (fun r => r == me || decide (o.got.get 0 r * 64 ≥ o.count))
  | 0x11 => o.treesDone n && (o.flag.isSome || !(fSb w) || o.host.isSome)
  | 0x12 => decide (fRoot w = me) || decide (o.got.get 0 (fRoot w) * 64 ≥ o.count)
  | 0x13 => (List.range n).all (fun r => o.got.get 0 r == 0 || o.last.contains r)
  | 0x14 =>
    (match o.allCounts n with
     | none => false
     | some l => (basesOf (fRcap w) l).zipIdx.all (fun x => o.got.get 0 x.2 == x.1.2 * rowLines w) &&
         (List.range n).all (fun r => (o.bases.get none r).isSome))
  | 0x15 => (List.range n).all (fun r =>
      o.got.get 0 r == ((o.idx.zip o.place).filter (fun x => x.1 == r && x.2 != noRow)).length * rowLines w)
  | _ => o.flag.isSome

/-- R359, R360, R362: what a dispatch writes when its rows are in: zeros in the rows beyond each count, the count area, the status
line. -/
def State.flFinish (s : State) (d : Nat) (o : FlOp) : State :=
  let w := o.word
  let n := s.flN o.cg
  let opc := bits w 0 8
  if opc ≠ 0x13 && opc ≠ 0x14 then s
  else
    let counts := (List.range n).map (fun r => o.got.get 0 r / max 1 (rowLines w))
    let total := counts.foldl (· + ·) 0
    let spare := if opc = 0x13 then counts.zipIdx.flatMap (fun x => (List.range (fCap w - x.1)).map (fun i => x.2 * fCap w + x.1 + i))
      else (List.range (fRcap w - total)).map (fun i => total + i)
    let status := BitVec.ofNat 512 (packBytes [(0, o.sent), (4, o.drop), (8, total % 2 ^ 32), (12, o.bad)])
    s.onDp (fun e x =>
      let x := spare.foldl (fun x j => flWrites e d false (fDst w + j * fCount w) (List.replicate (rowLines w) 0) x) x
      (flWrite e d false (fCnt w) status (flWords e d false (fCnt w + 64) counts x)).2)

/-- Bytes a host collective writes at this member (R134). -/
def flBytes (s : State) (o : FlOp) : Nat := if bits o.word 0 8 = 0x10 then s.flN o.cg * o.stride else o.stride

/-- R366: a host collective completes when its last Flue does. -/
def State.hostOpDone (s : State) (o : FlOp) : State :=
  match o.host with
  | none => s
  | some (q, seq) =>
    if [0, 1, 2, 3].any (fun d => (s.dp.getCle d).ops.any (fun x => x.host == some (q, seq))) then s
    else
      ({ s with hp := { s.hp with hostOps := s.hp.hostOps.filter (fun x => !(x.q == q && x.seq == seq)) } }).finish q seq stOk 0
        (BitVec.ofNat 64 (flBytes s o))

/-- R348: an operation completes: it is the oldest of its CG on its Flue, all it awaits is in and its packets are acknowledged; it
writes what it has left to write, and sends its credit. -/
def execFlueOpComplete (d : Fin 4) (cg : Fin 64) (oseq : BitVec 64) (s : State) : Host.Outcome State Fault Refusal :=
  let u := cleUid d.val
  .next (match (s.dp.getCle d.val).ops.find? (fun o => o.cg == cg.val) with
    | none => s
    | some o =>
      if o.oseq ≠ oseq.toNat || s.dp.fr.voided || !(s.flAllIn o) || s.torus.awaits.any (fun a => o.rtags.contains a.rtag) then s
      else
        let s := s.flFinish d.val o
        let s := { s with dp := s.dp.setCle d.val (fun c => { c with ops := c.ops.filter (fun x => !(x.cg == o.cg && x.oseq == o.oseq)) }) }
        let s := s.onDp (fun e x => sample e 4 6 u o.grantNs (trace e u { kind := 13, sub := o.cg, a0 := o.oseq % 2 ^ 32 } x))
        (if o.host.isSome then s.hostOpDone o else s.slCredit u (o.word.extractLsb' 0 256)).settleStop)

/-! ### Host-issued collectives (R134, R366) -/

/-- R366: SLAB of a host operation, as SLABLOG. -/
def hostSlabLog (n : Nat) : Nat := min 8 (Nat.log2 (2 ^ 24 / (1 + passes n)) - 12)

/-- The operation word a COLLECTIVE gives its Flues. -/
def hostWord (q n : Nat) (d : BitVec 512) : BitVec 512 :=
  let op := bits d 64 4
  let opc := if op = 0 then 0x10 else if op = 1 then 0x11 else 0x12
  BitVec.ofNat 512 (opc + (q - 16) * 2 ^ 8 + (if op = 1 then bits d 68 2 * 2 ^ 16 else 0) + hostSlabLog n * 2 ^ 20 +
    2 ^ 24 / (4096 * 2 ^ hostSlabLog n) * 2 ^ 32 + bits d 128 48 * 2 ^ 64 + bits d 192 48 * 2 ^ 128 + bits d 256 32 * 2 ^ 192 +
    (if op = 2 then bits d 96 18 * 2 ^ 448 else 0))

/-- R134: every line of the range lies in mapped HBM views, SRAM or accumulators. -/
def hostRange (m : Mem) (a : Nat) : Nat → Bool
  | 0 => true
  | n + 1 =>
    (match m.at48 a with
     | none => false
     | some (.ext _ _) => false
     | some (.rbuf _ _) => false
     | some _ => true) && hostRange m (a + 64) n

/-- R366: the collective runs on all four Flues, each on its share of every block. -/
def State.startHost (s : State) (q seq n : Nat) (d : BitVec 512) : State :=
  let w := hostWord q n d
  let lines := bits d 256 32 / 64
  let per := ceilDiv lines 4
  ([0, 1, 2, 3].foldl (fun s i =>
    let lo := min (i * per) lines
    let hi := min ((i + 1) * per) lines
    let o : FlOp := { opOf w with host := some (q, seq), off := 64 * lo, count := 64 * (hi - lo) }
    match bits d 64 4 with
    | 0 => s.startAg i o
    | 1 => s.startRs i o
    | _ => s.startBcast i o) s).settleStop

/-- R347, R366: a host operation waits, as an instruction does, while a Flue holds eight operations or lanes it would use. The four
operations of a COLLECTIVE issue together (DESIGN CHOICE, log 112). -/
def State.hostWaits (s : State) (w : BitVec 512) : Bool := [0, 1, 2, 3].any (fun i => s.flWaits i w)

/-- R134: COLLECTIVE starts when no launch runs; its checks in order: the CG is open, the fields, the ranges; then room (R347). A CG that is not open, placed or
not, gives NO_PLACEMENT with DETAIL 0 (DESIGN CHOICE, log 98). -/
def execCollective (q : Fin 81) (seq : Nat) (s : State) : Host.Outcome State Fault Refusal :=
  .next (if s.launched then s
    else s.onStart q.val seq 0x22 (fun d s =>
      let n := s.flN (q.val - 16)
      let op := bits d 64 4
      let cnt := bits d 256 32
      if !(s.torus.cgOpen.contains (q.val - 16)) then s.finish q.val seq stNoPlace 0 0
      else
        match badField d [(64, decide (op > 2)), (68, op == 1 && bits d 68 2 == 3), (70, anyBits d 70 26),
            (96, op == 2 && decide (bits d 96 32 ≥ n)), (128, bits d 128 6 != 0), (192, bits d 192 6 != 0),
            (256, cnt % 64 != 0 || cnt == 0), (288, anyBits d 288 224)] with
        | some b => s.finish q.val seq stBadField b 0
        | none =>
          if bits d 128 64 ≥ 2 ^ 48 || bits d 192 64 ≥ 2 ^ 48 ||
              !(hostRange s.dp.mem (bits d 128 48) ((if op = 1 then n else 1) * cnt / 64)) ||
              !(hostRange s.dp.mem (bits d 192 48) ((if op = 0 then n else 1) * cnt / 64)) then s.finish q.val seq stBadAddr 0 0
          else if s.hostWaits (hostWord q.val n d) then s
          else
            let s := s.markStarted q.val seq
            ({ s with hp := { s.hp with hostOps := s.hp.hostOps ++ [HostOp.mk q.val seq] } }).startHost q.val seq n d))

end Sys2Proof.Machine
end

