-- ==== Sys2Proof/Machine/Host.lean ====
section
/-! DEFINITION. Meanings of the host's memory accesses, doorbells, descriptors common to all queues, copies, completions and link events
(04_memory_and_addresses.md; 05_host_rings.md). -/

namespace Sys2Proof.Machine

/-! ### CXL.mem (R91, R100, R105, R116) -/

/-- R91: an address in the open host window: committed, CXL.mem enabled, link up. -/
def State.inHostWindow (s : State) (a : Nat) : Bool :=
  let lo := s.dp.mem.hdmBase.toNat * 2 ^ 30
  s.hp.memEn && s.hp.linkUp && decide (lo ≤ a) && decide (a < lo + s.dp.mem.hdmSize.toNat * 2 ^ 30)

/-- R91: what an address of the window names: a place of the interleaved view, and nothing else of the package. -/
def State.hostWindow (s : State) (a : Nat) : Option Loc :=
  if s.inHostWindow a then
    match s.dp.mem.resolve (a / 64 * 64) with
    | some (.iview j o) => some (.iview j o)
    | _ => none
  else none

/-- R85: a host access of the window that names no memory is an unmapped access of the host port. -/
def State.hostMiss (s : State) (access a : Nat) : State :=
  if s.inHostWindow a then s.onDp (fun e d => unmapped e hostUid access (a / 64 * 64) d) else s

/-- R116: the host may now cache the line: it enters the snoop filter; a full filter back-invalidates its oldest entry. -/
def Mem.snoopAdd (m : Mem) (line : Nat) : Mem :=
  if m.snoop.contains line then m
  else if m.snoop.length < 65536 then { m with snoop := m.snoop ++ [line] }
  else { m with snoop := m.snoop.drop 1 ++ [line], backInv := m.backInv + 1 }

/-- R85, R100, R105, R379: a host read returns the whole line, or poison for an uncorrectable error without voiding the stroke; a read outside
the open window, or of an unmapped address within it, returns zero bytes; one whose route is held waits. -/
def execHostMemRead (a : BitVec 48) (s : State) : Host.Outcome State Fault Refusal :=
  .next (match s.hostWindow a.toNat with
    | none => { s.hostMiss 0 a.toNat with out := { s.out with line := 0, poison := false } }
    | some l => if s.hostHeld (a.toNat / 64 * 64) 1 then s else
      let s := s.onDp (fun _ d => d.crossFrom 0 (a.toNat / 64 * 64) l)
      let k := s.dp.mem.key l
      let v := BitVec.ofNat 512 (readBytes s.dp.mem.cells k 64)
      let la := a.toNat / 64 * 64
      match s.dp.mem.marks.get .none (k / 64) with
      | .ue => { s.onDp (fun e d => ueFound e hostUid 2 la l.memCode d) with out := { s.out with line := 0, poison := true } }
      | .ce => { (s.onDp (fun e d => correct e hostUid la k l d)).onMem (fun m => m.snoopAdd (la / 64)) with
                 out := { s.out with line := v, poison := false } }
      | .none => { s.onMem (fun m => m.snoopAdd (la / 64)) with out := { s.out with line := v, poison := false } })

/-- Bytes of `v` where `be` is 1, of `old` elsewhere. -/
def mergeBytes (old v : BitVec 512) (be : BitVec 64) : BitVec 512 :=
  BitVec.ofNat 512 (packBytes ((List.range 64).map (fun i => (i, if be.getLsbD i then bits v (8 * i) 8 else bits old (8 * i) 8))))

/-- R82, R105: a host write is performed, counted when the line is tracked; a whole-line write heals an uncorrectable error, and a
partial write to such a line changes its bytes and leaves the error. -/
def execHostMemWrite (a : BitVec 48) (v : BitVec 512) (be : BitVec 64) (s : State) : Host.Outcome State Fault Refusal :=
  .next (match s.hostWindow a.toNat with
    | none => s.hostMiss 1 a.toNat
    | some l => if s.hostHeld (a.toNat / 64 * 64) 1 then s else
      let la := a.toNat / 64 * 64
      let k := s.dp.mem.key l
      let old := BitVec.ofNat 512 (readBytes s.dp.mem.cells k 64)
      s.onDp (fun e d =>
        let d := (hostWrote e la l d).crossTo 0 la l
        if be = BitVec.allOnes 64 then { d with mem := { d.mem.store la k v with snoop := d.mem.snoop, backInv := d.mem.backInv } }
        else
          let mk := d.mem.marks
          { d with mem := { d.mem.store la k (mergeBytes old v be) with marks := mk, snoop := d.mem.snoop, backInv := d.mem.backInv } }))

/-- R91, R116: a commit of the decoder; it fails (Error Not Committed) when it is not in whole GiB or a script is launched, and when it
reaches past the interleaved view's 768 GiB (DESIGN CHOICE, log 75). -/
def execHdmCommit (skip size : BitVec 64) (s : State) : Host.Outcome State Fault Refusal :=
  .next (if skip.toNat % 2 ^ 30 != 0 || size.toNat % 2 ^ 30 != 0 || decide (768 * 2 ^ 30 < skip.toNat + size.toNat) || s.launched then { s with hp := { s.hp with hdmErr := true } }
    else ({ s with hp := { s.hp with hdmErr := false } }).onMem (fun m =>
      { m with hdmBase := BitVec.ofNat 16 (skip.toNat / 2 ^ 30), hdmSize := BitVec.ofNat 16 (size.toNat / 2 ^ 30) }))

/-- R101, R106: a patrol read finds a line good, correctable or uncorrectable; in Cold patrol scrub is paused. A found error is the line's
until it is rewritten. -/
def execPatrolRead (j : Fin 12) (o : BitVec 36) (f : Found) (s : State) : Host.Outcome State Fault Refusal :=
  let k := hbmKey j.val (o.toNat / 64 * 64)
  let unit := duid (j.val / 3) 2 (j.val % 3)
  .next (if s.pw.cold || s.edge.lost.getLsbD (j.val / 3) then s else match f with
    | .good => s
    | .correctable => s.onDp (fun e d => correct e unit (o.toNat / 64 * 64) k (.iview j.val 0) d)
    | .uncorrectable =>
      s.onDp (fun e d => ueFound e unit 1 (o.toNat / 64 * 64) 3
        { d with mem := { d.mem with marks := d.mem.marks.put .none (k / 64) .ue } }))

/-! ### Doorbells and fetching -/

/-- R115, R401: the host wrote a doorbell line; the snoop makes the device re-read it, and the queue's partition wakes. -/
def execDoorbellSnoop (q : Fin 81) (st : List HostStore) (s : State) : Host.Outcome State Fault Refusal :=
  .next (((s.onMem (fun m => m.hostPuts st)).readDoorbell q.val).wakeOfQueue q.val)

/-- R115: the 100 µs backstop re-reads the line of every enabled queue. -/
def execDoorbellPoll (st : List HostStore) (s : State) : Host.Outcome State Fault Refusal :=
  .next ((List.range 81).foldl State.readDoorbell (s.onMem (fun m => m.hostPuts st)))

/-- R120–R122, R138, R141: fetch the next descriptor of a queue when it is enabled, has one and may fetch. -/
def execDescriptorFetch (q : Fin 81) (s : State) : Host.Outcome State Fault Refusal :=
  let x := s.getQ q.val
  .next (if !x.en || x.stopped || !s.hp.linkUp || BitVec.ofNat 32 x.fetch == x.tail ||
        (!x.comps.isEmpty && !x.cqRoom) then s.sweepTypes q.val
    else
      match s.dp.mem.hostLine (x.sqBase.toNat + 64 * (x.fetch % 2 ^ x.log2.toNat)) with
      | none => (s.setQ q.val (fun x => { x with fetchErr := true, stopped := true })).queueError
      | some l =>
        let y : Desc := ⟨x.fetch, l, false⟩
        let s := s.setQ q.val (fun x => { x with fetch := x.fetch + 1, fetched := x.fetched ++ [y] })
        if x.ctlOff then s.disableDesc q.val y else s.sweepTypes q.val)

/-! ### Descriptors of every queue -/

/-- R124: a NOP descriptor completes with no effect. -/
def execNopDescriptor (q : Fin 81) (seq : Nat) (s : State) : Host.Outcome State Fault Refusal :=
  .next (s.onDesc q.val seq 0x00 (fun d => [(64, anyBits d 64 448)]) (fun _ s => s.finish q.val seq stOk 0 0))

/-- R126: FENCE starts, and completes, once every earlier descriptor of its queue has completed and WQ has completed every
descriptor below WSEQ. -/
def execFenceDescriptor (q : Fin 81) (seq : Nat) (s : State) : Host.Outcome State Fault Refusal :=
  .next (s.onDesc q.val seq 0x01
    (fun d => [(64, (decide (81 ≤ bits d 64 7) && decide (bits d 64 7 ≤ 126)) || bits d 64 7 == q.val), (71, anyBits d 71 57),
               (192, anyBits d 192 320)])
    (fun d s => if bits d 64 7 = 127 || bits d 128 64 ≤ (s.getQ (bits d 64 7)).doneCnt then s.finish q.val seq stOk 0 0 else s))

/-- R127: BARRIER joins the rendezvous of its BID; all participants complete together. -/
def execBarrier (q : Fin 81) (seq : Nat) (s : State) : Host.Outcome State Fault Refusal :=
  .next (s.onDesc q.val seq 0x02
    (fun d => [(68, anyBits d 68 60),
               (128, !(bit d (128 + q.val)) || decide (((List.range 81).filter (fun i => bit d (128 + i))).length < 2)),
               (209, anyBits d 209 303)])
    (fun d s => s.joinBarrier q.val seq d))

/-- R128: SIGNAL writes DATA to HOST_ADDR as one 8-byte write. -/
def execSignal (q : Fin 81) (seq : Nat) (s : State) : Host.Outcome State Fault Refusal :=
  .next (s.onDesc q.val seq 0x03
    (fun d => [(64, bits d 64 3 != 0), (192, anyBits d 192 320)])
    (fun d s => if !s.hp.linkUp then s
      else (s.onMem (fun m => { m with host := writeBytes m.host (bits d 64 64) 8 (bits d 128 64) })).finish q.val seq stOk 0 0))

/-! ### Compute queue copies (R129) -/

/-- The dies of the partition a compute queue acts for. -/
def State.diesOfQ (s : State) (q : Nat) : Nat :=
  match s.partOfQ q with
  | some p => (s.getPartn p).dies.toNat
  | none => 0

/-- R129: COPY_IN moves host lines into package memory, counted as host writes where tracked; poison ends it. -/
def execCopyIn (q : Fin 81) (seq : Nat) (s : State) : Host.Outcome State Fault Refusal :=
  .next (s.onDesc q.val seq 0x10
    (fun d => [(64, bits d 64 6 != 0), (128, bits d 128 6 != 0 || anyBits d 176 16), (192, bits d 192 6 != 0 || bits d 192 32 == 0),
               (224, anyBits d 224 288)])
    (fun d s =>
      let n := bits d 192 32 / 64
      if !s.hp.linkUp then s
      else if !(rangeOk s.dp.mem (s.diesOfQ q.val) (bits d 128 48) n) then s.finish q.val seq stBadAddr 0 0
      else if hostPast (bits d 64 64) (bits d 192 32) then s.finish q.val seq stBadAddr 1 0
      else if s.hostHeld (bits d 128 48) n then s
      else
        let r := copyInLines s.env (bits d 64 64) (bits d 128 48) n 0 s.dp
        ({ s with dp := r.2.2 }).finish q.val seq (if r.2.1 then stPoison else stOk) 0 (BitVec.ofNat 64 (64 * r.1))))

/-- R129: COPY_OUT moves package lines to host memory; lines with uncorrectable errors go out as poison, counted in DETAIL. -/
def execCopyOut (q : Fin 81) (seq : Nat) (s : State) : Host.Outcome State Fault Refusal :=
  .next (s.onDesc q.val seq 0x11
    (fun d => [(64, bits d 64 6 != 0), (128, bits d 128 6 != 0 || anyBits d 176 16), (192, bits d 192 6 != 0 || bits d 192 32 == 0),
               (224, anyBits d 224 288)])
    (fun d s =>
      let n := bits d 192 32 / 64
      if !s.hp.linkUp then s
      else if !(rangeOk s.dp.mem (s.diesOfQ q.val) (bits d 128 48) n) then s.finish q.val seq stBadAddr 0 0
      else if hostPast (bits d 64 64) (bits d 192 32) then s.finish q.val seq stBadAddr 1 0
      else if s.hostHeld (bits d 128 48) n then s
      else
        let r := copyOutLines s.env (bits d 64 64) (bits d 128 48) n 0 s.dp
        ({ s with dp := r.2 }).finish q.val seq stOk (satTo 32 r.1) (BitVec.ofNat 64 (64 * n))))

/-- R129: FILL writes the pattern to every aligned 8 bytes of the range. -/
def execFill (q : Fin 81) (seq : Nat) (s : State) : Host.Outcome State Fault Refusal :=
  .next (s.onDesc q.val seq 0x12
    (fun d => [(128, bits d 128 6 != 0 || anyBits d 176 16), (192, bits d 192 6 != 0 || bits d 192 32 == 0), (224, anyBits d 224 288)])
    (fun d s =>
      let n := bits d 192 32 / 64
      if !(rangeOk s.dp.mem (s.diesOfQ q.val) (bits d 128 48) n) then s.finish q.val seq stBadAddr 0 0
      else if s.hostHeld (bits d 128 48) n then s
      else
        (s.onDp (fun e x => fillLines64 e (bits d 128 48) (patLine (d.extractLsb' 64 64)) n x)).finish q.val seq stOk 0
          (BitVec.ofNat 64 (64 * n))))

/-! ### Completions and interrupts -/

/-- R138: the oldest waiting record of a queue is written when ring space is free. -/
def execCompletionWrite (q : Fin 81) (s : State) : Host.Outcome State Fault Refusal :=
  .next ((s.writeCompletion q.val).sweepTypes q.val)

/-- R140: HOLDOFF_US has passed: the waiting requests for the vector fire as one message. -/
def execMsixHoldoffExpiry (v : Fin 84) (s : State) : Host.Outcome State Fault Refusal :=
  let due := s.dp.irq.waiting.get 0 v.val
  .next (if due = 0 then s else (s.advance (due - 1)).onDp (fun e d => { d with irq := d.irq.fire e v.val }))

/-- R120, R143: HP_CTL.MQRESUME restarts the management queue at its fetch count; ignored when it has neither error bit. -/
def State.mqresume (s : State) : State :=
  if (s.getQ 80).overrun || (s.getQ 80).fetchErr then
    s.setQ 80 (fun x => { x with overrun := false, fetchErr := false, stopped := false })
  else s

/-- R143: a write of 1 to HP_CTL.MQRESUME. -/
def execMqresume (s : State) : Host.Outcome State Fault Refusal := .next s.mqresume

/-- R143: HP_CTL.QRESET clears EN everywhere and discards fetched descriptors; ignored, with CFGREJ, while a script is launched. Records
that wait for ring space go with their queues, and a self-test that runs goes on with no descriptor to complete (DESIGN CHOICE, log 93). -/
def State.qreset (s : State) : State :=
  if s.launched then { s with hp := { s.hp with cfgRej := true } }
  else ({ s with
    hp := { s.hp with
      queues := (List.range 81).foldl (fun t q => t.upd {} q (fun x => { x with en := false, fetched := [], comps := [] })) s.hp.queues,
      rdvs := [], qctl := [], ectl := [], hostOps := [] },
    st := { s.st with undecided := [], tests := s.st.tests.map (fun t => { t with q := noQueue }) } } : State).endHostOps (fun _ => true)

/-- R143: a write of 1 to HP_CTL.QRESET. -/
def execQreset (s : State) : Host.Outcome State Fault Refusal := .next s.qreset

/-- R114, R144: a write of QCFG with EN set enables the queue; refused with CFGREJ while EN is 1 or QREADY is 0, and with BADCFG
when LOG2_ENTRIES or VECTOR is out of range. Numbering restarts (R122). -/
def State.queueEnable (s : State) (q : Nat) (cfg : BitVec 32) : State :=
  let x := s.getQ q
  if x.en || !s.qready then { s with hp := { s.hp with cfgRej := true } }
  else
    let s := s.setQ q (fun x => { x with holdoff := cfg.extractLsb' 24 8, vector := cfg.extractLsb' 16 8, log2 := cfg.extractLsb' 0 5 })
    if bits cfg 16 8 ≥ 84 || bits cfg 0 5 < 4 || bits cfg 0 5 > 16 then
      (s.setQ q (fun x => { x with badCfg := true })).queueError
    else
      (s.setQ q (fun x => { x with en := true, tail := 0, cqHead := 0, fetch := 0, fetched := [], comps := [], cqTail := 0,
                                   doneCnt := 0, doneSet := [], overrun := false, fetchErr := false, stopped := false })).readDoorbell q

/-- R114, R144: a write of QCFG with EN set. -/
def execQueueEnable (q : Fin 81) (cfg : BitVec 32) (s : State) : Host.Outcome State Fault Refusal := .next (s.queueEnable q.val cfg)

end Sys2Proof.Machine
end

