-- ==== Sys2Proof/Machine/HostLink.lean ====
section
/-! DEFINITION. Meanings of the events of the host link and of writes to configuration space (05_host_rings.md R113, R114, R117, R143, R145). -/

namespace Sys2Proof.Machine

/-- R117: viral: the stroke is voided, HP_STAT.VIRAL set, and a host-link fault reported (class 2). -/
def execViral (s : State) : Host.Outcome State Fault Refusal :=
  .next ((({ s with hp := { s.hp with viral := true, errViral := true } }).hpIrq.onDp (fun e d => voidFault e 2 1 hostUid 0 d)).settleStop)

/-- R117: the link has been down for 100 ms: a host-link fault, the package counted as lost (class 9). -/
def execHostLinkDownTimeout (s : State) : Host.Outcome State Fault Refusal :=
  .next (if s.hp.linkUp then s else (s.onDp (fun e d => fence (raiseFault e 9 3 hostUid 0 d))).settleStop)

/-- R117: the link leaves L0: HP_ERR.LINK_DOWN and vector 81; completions and external traffic wait. -/
def execHostLinkDown (s : State) : Host.Outcome State Fault Refusal :=
  .next ({ s with hp := { s.hp with speed := 0, width := 0, degraded := false, errDown := true } }).hpIrq

/-- R113, R117, R309, R485, R487: the link trains to L0, once the package is READY and PERST_N is high; write-backs that waited for it take
place. -/
def execHostLinkUp (speed width : BitVec 8) (s : State) : Host.Outcome State Fault Refusal :=
  .next (if !s.bu.ready || s.bu.perst then s
    else
      let s := { s with hp := { s.hp with speed := speed, width := width,
                                          degraded := decide (speed.toNat < 64) || decide (width.toNat < 8) } }
      if s.hp.linkUp then (List.range 12).foldl State.backUp s else s)

/-- R143: the IDE integrity check fails. -/
def execIdeIntegrityFail (s : State) : Host.Outcome State Fault Refusal :=
  .next ({ s with hp := { s.hp with errIde := true } }).hpIrq

/-- R114, R145: the host writes configuration space: CXL.cache and CXL.mem enabled or not, and the MSI-X capability's Enable and Function
Mask; messages that were pending go out where they may. -/
def execCxlConfigWrite (cxl : CxlEnables) (msix : MsixControl) (s : State) : Host.Outcome State Fault Refusal :=
  .next (({ s with hp := { s.hp with cacheEn := cxl.cache, memEn := cxl.mem } }).onDp (fun e d =>
    { d with irq := (List.range 84).foldl (fun q v => Irq.unmask e v q) { d.irq with enable := msix.enable, fmask := msix.fmask } }))

end Sys2Proof.Machine
end

