-- ==== Sys2Proof/Machine/Launch.lean ====
section
/-! DEFINITION. Meanings of LAUNCH, STOP, the communication-queue and management-queue descriptors (05_host_rings.md R131–R142). -/

namespace Sys2Proof.Machine

/-- R131: LAUNCH checks in order, then sets seed, step and contract state; the script starts at its START stroke, and the OPPs of the next
stroke are chosen for it too (R390). -/
def execLaunch (q : Fin 81) (seq : Nat) (s : State) : Host.Outcome State Fault Refusal :=
  .next (s.onDesc q.val seq 0x14
    (fun d => [(67, anyBits d 67 61), (448, anyBits d 448 64)])
    (fun d s =>
      match s.partOfQ q.val with
      | none => s.finish q.val seq stWrongQ 0 0
      | some p =>
        let slot : Fin 8 := ⟨bits d 64 3, Nat.mod_lt _ (by decide)⟩
        let start := bits d 384 64
        match s.scr.slots.get none slot.val with
        | none => s.finish q.val seq stBadField 64 0
        | some g =>
          if (s.getPartn p).launch.isSome || !s.hp.hostOps.isEmpty then s.finish q.val seq stBusy 0 0
          else if start != 0 && decide (start ≤ s.clk.stroke.toNat) then
            s.finish q.val seq stPassed (s.clk.stroke.toNat % 2 ^ 32) 0
          else
            match s.launchRefusal p g start with
            | some (r, w) => s.refuse q.val seq stLaunch r w
            | none =>
              if s.usesDisabled g then s.finish q.val seq stDisabled 0 0
              else (s.acceptLaunch p q.val seq g slot (d.extractLsb' 128 128) (d.extractLsb' 256 64) (d.extractLsb' 320 64)
                (d.extractLsb' 384 64)).chooseAgain))

/-- R164, R231: clearing is complete: the ranges and the accumulation areas are zero, and the units of the first stroke may begin. -/
def execZeroFillDone (p : Fin 4) (s : State) : Host.Outcome State Fault Refusal :=
  .next (match (s.getPartn p.val).launch with
    | none => s
    | some l =>
      match s.imageOf l with
      | none => s
      | some g =>
        if l.zeroing then
          (s.setPartn p.val (fun x => { x with launch := some { l with zeroing := false } })).onDp (fun e d => zeroFillBy e g d)
        else s)

/-- R132: STOP waits for the step close (MODE 0) or the next boundary (MODE 1); with no launch running it completes with DETAIL 1. -/
def execStop (q : Fin 81) (seq : Nat) (s : State) : Host.Outcome State Fault Refusal :=
  .next (s.onDesc q.val seq 0x15
    (fun d => [(65, anyBits d 65 447)])
    (fun d s =>
      match s.partOfQ q.val with
      | none => s.finish q.val seq stWrongQ 0 0
      | some p =>
        match (s.getPartn p).launch with
        | none => s.finish q.val seq stOk 1 (s.dp.getPart p).step
        | some l =>
          (s.markStarted q.val seq).setPartn p (fun x => { x with launch := some { l with
            stops := l.stops ++ [⟨q.val, seq, bit d 64⟩] } })))

/-! ### Communication queues (R133) -/

/-- A COLLECTIVE of queue `q` is in flight. -/
def State.hostOpOn (s : State) (q : Nat) : Bool := s.hp.hostOps.any (fun o => o.q == q)

/-- R133: CG_OPEN binds the queue to its CG after checking the placement's size; VALUE is the rank. The operation sequence numbers
restart only when the CG goes from closed to open. -/
def execCgOpen (q : Fin 81) (seq : Nat) (s : State) : Host.Outcome State Fault Refusal :=
  .next (s.onDesc q.val seq 0x20
    (fun d => [(64, bits d 64 32 == 0 || decide (bits d 64 32 > 262144)), (96, anyBits d 96 416)])
    (fun d s =>
      let n := q.val - 16
      let e := s.torus.cgs.get 0 n
      if (s.ownerOf q.val).isSome || s.hostOpOn q.val then s.finish q.val seq stBusy 0 0
      else if cgValid e && cgSize e == bits d 64 32 then
        let was := s.torus.cgOpen.contains n
        let dp := if was then s.dp else { s.dp with cle := s.dp.cle.map (fun x => (x.1, { x.2 with oseq := x.2.oseq.put 0 n 0 })) }
        ({ s with dp := dp, torus := { s.torus with cgOpen := NSet.add s.torus.cgOpen n } }).finish q.val seq stOk 0
          (BitVec.ofNat 64 (cgRank e))
      else
        ({ s with torus := { s.torus with cgOpen := s.torus.cgOpen.filter (fun x => x != n) } }).finish q.val seq stNoPlace
          (if cgValid e then cgSize e else 0) 0))

/-- R133: CG_CLOSE unbinds the CG; a COLLECTIVE in flight on it completes DISABLED (R366). -/
def execCgClose (q : Fin 81) (seq : Nat) (s : State) : Host.Outcome State Fault Refusal :=
  .next (s.onDesc q.val seq 0x21
    (fun d => [(64, anyBits d 64 448)])
    (fun _ s =>
      if (s.ownerOf q.val).isSome then s.finish q.val seq stBusy 0 0
      else
        let n := q.val - 16
        let ops := s.hp.hostOps.filter (fun o => o.q == q.val)
        let s := (ops.foldl (fun s o => s.finish o.q o.seq stDisabled 0 0) s).endHostOps (fun x => x == q.val)
        ({ s with torus := { s.torus with cgOpen := s.torus.cgOpen.filter (fun x => x != n) },
                  hp := { s.hp with hostOps := s.hp.hostOps.filter (fun o => o.q != q.val) } }).finish q.val seq stOk 0 0))

/-! ### Management queue -/

/-- R135: QUEUE_CTL waits for the next stroke boundary; a disable of a queue a launch owns is BUSY. -/
def execQueueCtl (q : Fin 81) (seq : Nat) (s : State) : Host.Outcome State Fault Refusal :=
  .next (s.onDesc q.val seq 0x30
    (fun d => [(64, decide (bits d 64 7 ≥ 80)), (72, anyBits d 72 440)])
    (fun d s =>
      if !(bit d 71) && (s.ownerOf (bits d 64 7)).isSome then s.finish q.val seq stBusy 0 0
      else
        let s := s.markStarted q.val seq
        { s with hp := { s.hp with qctl := s.hp.qctl ++ [⟨seq, bits d 64 7, bit d 71⟩] } }))

/-- R135: the state the controls give each target: the later one rules. -/
def lastCtls (l : List Ctl) : List Ctl := l.filter (fun c => !(l.any (fun x => x.target == c.target && decide (x.seq > c.seq))))

/-- R120, R141: one queue control takes effect at the boundary. An enable that resumes a stopped queue also clears its QSTAT.OVERRUN and
FETCH_ERR (DESIGN CHOICE, log 96: R135 names CTL_OFF only). -/
def State.applyQctl (s : State) (c : Ctl) : State :=
  if c.enable then
    s.setQ c.target (fun x => if x.ctlOff then { x with ctlOff := false, overrun := false, fetchErr := false, stopped := false } else x)
  else
    let s := s.setQ c.target (fun x => { x with ctlOff := true })
    ((s.getQ c.target).fetched.filter (fun y => !y.started)).foldl (fun s y => s.disableDesc c.target y) s

/-- R141: the queue controls of the boundary, then their completions in order. -/
def State.queueCtls (s : State) : State :=
  let l := s.hp.qctl
  let s := (lastCtls l).foldl State.applyQctl { s with hp := { s.hp with qctl := [] } }
  l.foldl (fun s c => s.finish 80 c.seq stOk 0 0) s

/-- R141: at the boundary, the queue controls take effect. -/
def execQueueCtlApply (s : State) : Host.Outcome State Fault Refusal := .next s.queueCtls

/-- R135: ENGINE_CTL waits for the next stroke boundary. -/
def execEngineCtl (q : Fin 81) (seq : Nat) (s : State) : Host.Outcome State Fault Refusal :=
  .next (s.onDesc q.val seq 0x31
    (fun d => [(64, !(isStreamUnit (bits d 64 16))), (81, anyBits d 81 431)])
    (fun d s =>
      let s := s.markStarted q.val seq
      { s with hp := { s.hp with ectl := s.hp.ectl ++ [⟨seq, bits d 64 16, bit d 80⟩] } }))

/-- R142: a running launch uses unit `u`. -/
def State.unitInUse (s : State) (u : Nat) : Bool :=
  [0, 1, 2, 3].any (fun p => match (s.getPartn p).launch with
    | none => false
    | some l => match s.imageOf l with
      | none => false
      | some g => g.uses u)

/-- R142: one engine control takes effect at the boundary: a unit a launch uses is deferred to the launch's end. -/
def State.applyEctl (s : State) (c : Ctl) : State :=
  let use := s.unitInUse c.target
  s.onDp (fun _ d => d.setUnit c.target (fun x =>
    if c.enable then { x with disabled := false, deferred := false }
    else if use then { x with deferred := true } else { x with disabled := true }))

/-- R142: the engine controls of the boundary, then their completions, DEFERRED where a launch holds the unit. -/
def State.engineCtls (s : State) : State :=
  let l := s.hp.ectl
  let s := (lastCtls l).foldl State.applyEctl { s with hp := { s.hp with ectl := [] } }
  l.foldl (fun s c => s.finish 80 c.seq stOk 0 0 (!c.enable && s.unitInUse c.target)) s

/-- R142: at the boundary, the engine controls take effect. -/
def execEngineCtlApply (s : State) : Host.Outcome State Fault Refusal := .next s.engineCtls

/-- R136, R400: PART_SET defines or deletes a partition, and its dies take the idle state; BAD_FIELD on overlapping dies, BUSY when it
touches a running launch. -/
def execPartSet (q : Fin 81) (seq : Nat) (s : State) : Host.Outcome State Fault Refusal :=
  .next (s.onDesc q.val seq 0x32
    (fun d => [(66, anyBits d 66 2), (68, bits d 68 4 != 0 && !(diesValid (bits d 68 4))), (88, anyBits d 88 424)])
    (fun d s =>
      let p := bits d 64 2
      let dies : BitVec 4 := d.extractLsb' 68 4
      let qm : BitVec 16 := d.extractLsb' 72 16
      let others := [0, 1, 2, 3].filter (fun k => k != p)
      if others.any (fun k => ((s.getPartn k).dies &&& dies) != 0) then s.finish q.val seq stBadField 68 0
      else if (s.getPartn p).launch.isSome ||
          others.any (fun k => (s.getPartn k).launch.isSome && ((s.getPartn k).qmask &&& qm) != 0) then s.finish q.val seq stBusy 0 0
      else
        let t := others.foldl (fun s k => s.setPartn k (fun x => { x with qmask := x.qmask &&& ~~~qm })) s
        ((t.setPartn p (fun x => { x with dies := dies, qmask := if dies = 0 then 0 else qm })).idleChange s.regionIdles s.pkgIdle).finish
          q.val seq stOk 0 0))

/-- R137: WAKE_LAT sets a partition's tolerable wake latency; VALUE is the deepest state it permits. -/
def execWakeLat (q : Fin 81) (seq : Nat) (s : State) : Host.Outcome State Fault Refusal :=
  .next (s.onDesc q.val seq 0x33
    (fun d => [(66, anyBits d 66 30), (128, anyBits d 128 384)])
    (fun d s =>
      ((s.setPartn (bits d 64 2) (fun x => { x with lat := d.extractLsb' 96 32 })).wake (bits d 64 2) (deepest (bits d 96 32))).finish
        q.val seq stOk 0 (BitVec.ofNat 64 (deepest (bits d 96 32)))))

end Sys2Proof.Machine
end

