-- ==== Sys2Proof/Machine/Mxa.lean ====
section
/-! DEFINITION. Meanings of the matrix array's instructions (07_matrix_array.md, R166–R195). -/

namespace Sys2Proof.Machine

/-- R168: the operand format a 3-bit code names. -/
def mxFmt (n : Nat) : Fmt := (Fmt.ofCode n).getD .bf16

/-- R169: the groups of formats that combine: 0 BF16, 1 FP16, 2 FP8, 3 MX. -/
def mxGroup (n : Nat) : Option Nat :=
  match n with
  | 0 => some 0 | 1 => some 1 | 2 => some 2 | 3 => some 2 | 4 => some 3 | 5 => some 3 | 6 => some 3
  | _ => none

/-- R169: PACK and CLASS of a format group at an accumulation width. -/
def mxRow (group : Nat) (accw : Bool) : Option (Nat × Nat) :=
  match group, accw with
  | 0, false => some (1, 0) | 1, false => some (1, 0) | 0, true => some (2, 1) | 2, false => some (2, 2)
  | 2, true => some (4, 3) | 3, false => some (4, 4)
  | _, _ => none

/-- R169: PACK of a stationary format and width, none where no row holds them. -/
def mxPack (fmt : Nat) (accw : Bool) : Option (Nat × Nat) := (mxGroup fmt).bind (fun g => mxRow g accw)

/-- R170: the power rank of a CLASS; CLASS 5 has none. -/
def mxRank (cls : Nat) : Option Nat :=
  match cls with
  | 0 => some 0 | 1 => some 1 | 2 => some 1 | 4 => some 1 | 3 => some 2
  | _ => none

/-- R148: CLASS of the phase in force for a unit. -/
def Env.phaseClass (e : Env) (u : Nat) : Nat :=
  match e.ofUnit u with
  | none => 5
  | some p => bits (BitVec.ofNat 128 (p.img.phase (p.img.phaseOf p.entry))) 32 8

/-- The matrix array of linear cluster `c`, and its unit identifier. -/
def Dp.getMxa (d : Dp) (c : Nat) : Mxa := d.mxa.get {} c
def Dp.setMxa (d : Dp) (c : Nat) (f : Mxa → Mxa) : Dp := { d with mxa := d.mxa.upd {} c f }
def mxaUid (c : Nat) : Nat := cuid c 0 0

/-- A stationary buffer. -/
def Mxa.buf (m : Mxa) (b : Bool) : MxBuf := if b then m.buf1 else m.buf0

/-! ### LOADW (R172, R174, R184) -/

/-- Lines of one record: up to its last line holding an element of an active row. -/
def recLines (kr pack width : Nat) : Nat := ceilDiv ((kr + 1) * pack * width) 512

/-- R184: LOADW's fields are valid. -/
def loadwValid (w : BitVec 128) : Bool :=
  let fmt := bits w 9 3
  match mxPack fmt (bit w 12) with
  | none => false
  | some (pack, _) =>
    let mx := decide (fmt ≥ 4)
    !(anyBits w 13 3) && !(anyBits w 28 4) && !(anyBits w 32 6) && !(anyBits w 54 10) && !(anyBits w 72 24) && !(anyBits w 96 6) &&
      !(anyBits w 118 10) && (mx || bits w 96 22 == 0) && bits w 64 8 != 0 &&
      decide (recLines (bits w 16 6) pack (mxFmt fmt).width ≤ bits w 64 8) && (!mx || (bits w 16 6 + 1) % 8 == 0)

/-- R184: load a stationary block: NC + 1 column records and, for MX formats, their scale records. -/
def loadBlock (c : Nat) (w : BitVec 128) (e : Env) (d : Dp) : Dp :=
  let fmt := bits w 9 3
  let accw := bit w 12
  match mxPack fmt accw with
  | none => d
  | some (pack, _) =>
    let nc := bits w 22 6
    let n := 64 * recLines (bits w 16 6) pack (mxFmt fmt).width
    let recs := (List.range (nc + 1)).map (fun i => (bits w 32 22 + i * bits w 64 8 * 64, n))
    match clRuns e (mxaUid c) c false recs d with
    | (none, d) => d
    | (some rs, d) =>
      match (if fmt ≥ 4 then clBytes e (mxaUid c) c false (bits w 96 22) (64 * ceilDiv ((nc + 1) * 8) 64) d else (some 0, d)) with
      | (none, d) => d
      | (some sc, d) =>
        let b : MxBuf := { loaded := true, fmt := fmt, accw := accw, kr := bits w 16 6, nc := nc, recs := rs,
                           scales := (List.range (nc + 1)).map (fun i => (sc >>> (64 * i)) % 2 ^ 64) }
        d.setMxa c (fun m => if bit w 8 then { m with buf1 := b } else { m with buf0 := b })

def execLoadw (c : Fin 512) (w : BitVec 128) (s : State) : Host.Outcome State Fault Refusal :=
  .next (s.runDp (mxaUid c.val) 0x10 w.toNat (loadwValid w) (loadBlock c.val w))

/-! ### MMA (R166, R167, R173–R176, R185, R190) -/

/-- R185: the format of the accumulator. -/
def accFmt (accw a16 : Bool) : Fmt := if !accw then .fp32 else if a16 then .fp16 else .bf16

/-- R175: the last accumulator row of a width. -/
def lastRow (accw : Bool) : Nat := if accw then 1023 else 511

/-- The fields of an MMA. -/
structure Mma where
  buf : Bool
  fmt : Nat
  accw : Bool
  a16 : Bool
  mode : Nat
  chain : Bool
  reuse : Bool
  taps : Nat
  m : Nat
  feed : Nat
  fscale : Nat
  arow : Nat

/-- R185: the fields of an MMA's word. -/
def mmaOf (w : BitVec 128) : Mma :=
  { buf := bit w 8, fmt := bits w 9 3, accw := bit w 12, a16 := bit w 13, mode := bits w 14 2, chain := bit w 16, reuse := bit w 17,
    taps := bits w 18 5, m := bits w 24 12 + 1, feed := bits w 48 22, fscale := bits w 72 22, arow := bits w 96 10 }

/-- R173, R176: lanes, slots, feed-word bytes and scale-word bytes. -/
def Mma.lanes (x : Mma) : Nat := if x.reuse then 64 / x.taps else 64
def Mma.slots (x : Mma) : Nat := if x.reuse then x.m + x.taps - 1 else x.m
def Mma.wb (x : Mma) (pack : Nat) : Nat := 64 * ceilDiv (x.lanes * pack * (mxFmt x.fmt).width) 512
def Mma.swb (x : Mma) : Nat := 64 * ceilDiv x.lanes 64
/-- R190: what a chained MMA has in common with the one before it. -/
def Mma.key (x : Mma) : Nat := x.fmt + 8 * b2n x.accw + 16 * b2n x.a16 + 32 * b2n x.reuse + 64 * x.taps

/-- R169, R170, R176, R185: an MMA's fields are valid over the block its buffer holds, in a phase of class `cls`. -/
def mmaValid (w : BitVec 128) (b : MxBuf) (cls : Nat) : Bool :=
  let x := mmaOf w
  match mxPack x.fmt x.accw, mxRank cls with
  | some (_, c), some r =>
    !(anyBits w 23 1) && !(anyBits w 36 12) && !(anyBits w 48 6) && !(anyBits w 70 2) && !(anyBits w 72 6) && !(anyBits w 94 2) &&
      !(anyBits w 106 22) && (decide (x.fmt ≥ 4) || x.fscale == 0) && (x.accw || !x.a16) && decide (x.mode ≤ 1) &&
      (if x.reuse then decide (2 ≤ x.taps) && decide (x.taps ≤ 16) && (decide (x.fmt < 4) || x.taps == 2 || x.taps == 4 || x.taps == 8)
       else x.taps == 0) &&
      decide (x.arow + x.m - 1 ≤ lastRow x.accw) && b.loaded && b.accw == x.accw && mxGroup b.fmt == mxGroup x.fmt &&
      decide ((mxRank c).getD 3 ≤ r)
  | _, _ => false

/-- The words of a command and where they come from (R190): chained words 0 to lanes − 2 are those the previous MMA read last. -/
structure Feed where
  words : Nat
  scales : Nat

/-- R173, R174, R189, R190: the feed and scale words of an MMA; whether it chained. -/
def Mma.read (x : Mma) (e : Env) (u c pack : Nat) (prev : Option MmaPrev) (d : Dp) : Option (Feed × Bool) × Dp :=
  let wb := x.wb pack
  let nw := x.slots + x.lanes - 1
  let mx := decide (x.fmt ≥ 4)
  let link := match prev with
    | none => none
    | some p => if x.chain && p.key = x.key && p.feedEnd = x.feed && (!mx || p.scaleEnd = x.fscale) then some p else none
  let have_ := if link.isSome then x.lanes - 1 else 0
  match clBytes e u c false (x.feed + have_ * wb) ((nw - have_) * wb) d with
  | (none, d) => (none, d)
  | (some f, d) =>
    match (if mx then clBytes e u c false (x.fscale + have_ * x.swb) ((nw - have_) * x.swb) d else (some 0, d)) with
    | (none, d) => (none, d)
    | (some sc, d) =>
      match link with
      | none => (some (⟨f, sc⟩, false), d)
      | some p => (some (⟨p.words + 2 ^ (8 * have_ * wb) * f, p.scaleWords + 2 ^ (8 * have_ * x.swb) * sc⟩, true), d)

/-- R174: a product under its two block scales; a scale of 0xFF makes it NaN. -/
def scaleMx (sa sb : Nat) (p : Fp) : Fp := if sa = 255 || sb = 255 then .nan else p.scale (Int.ofNat (sa + sb) - 254)

/-- Where lane data of slot `s` for cell row `i` stands: feed word and lane (R173, R176). -/
def Mma.place (x : Mma) (s i : Nat) : Nat × Nat :=
  if x.reuse then (s + i / x.lanes + i % x.lanes, i % x.lanes) else (s + i, i)

/-- The exact sum of a list of values, none of an empty list. -/
def sumFp : List Fp → Option Fp
  | [] => none
  | a :: r => match sumFp r with
    | none => some a
    | some b => some (a.add b)

/-- R166: t of slot `s`, cell row `i`, column record `rec`: the exact sum of PACK products. -/
def Mma.term (x : Mma) (b : MxBuf) (pack : Nat) (f : Feed) (s i rec scale : Nat) : Fp :=
  let wf := (mxFmt x.fmt).width
  let wt := (mxFmt b.fmt).width
  let pl := x.place s i
  let bitAt := pl.1 * x.wb pack * 8 + pl.2 * pack * wf
  (sumFp ((List.range pack).map (fun q =>
    let a := (mxFmt x.fmt).decode ((f.words >>> (bitAt + q * wf)) % 2 ^ wf)
    let v := (mxFmt b.fmt).decode (elemOf wt rec (i * pack + q))
    let p := a.mul v
    if x.fmt ≥ 4 then scaleMx ((f.scales >>> (8 * (pl.1 * x.swb + pl.2))) % 256) ((scale >>> (8 * (i / 8))) % 256) p else p))).getD
    (.fin false 0 0)

/-- R166, R167: the partial sum of one result element over the active cell rows, one rounding per addition. -/
def Mma.cell (x : Mma) (b : MxBuf) (pack : Nat) (f : Feed) (fmt : Fmt) (s rec scale : Nat) : Nat :=
  let rows := if x.reuse then min (b.kr + 1) (x.taps * x.lanes) else b.kr + 1
  ((List.range rows).foldl (fun (p : Option Nat) i =>
    let t := x.term b pack f s i rec scale
    some (match p with
      | none => fmt.rne t
      | some v => fmt.rne ((fmt.decode v).add t))) none).getD 0

/-- R195: a NaN and an infinity of a format's encoding. -/
def countNonFinite (fmt : Fmt) (l : List Nat) : Nat × Nat :=
  l.foldl (fun a v => match fmt.decode v with
    | .nan => (a.1 + 1, a.2)
    | .inf _ => (a.1, a.2 + 1)
    | .fin _ _ _ => a) (0, 0)

/-- Write the lines of one accumulator row: columns 0 to `n − 1` of the elements; performed elements that are not finite are counted
(R166, R175, R195). -/
def writeRow (e : Env) (u c : Nat) (fmt : Fmt) (r n : Nat) (els : List Nat) (d : Dp) : Dp :=
  let bytes := fmt.width / 8
  let per := 64 / bytes
  (List.range bytes).foldl (fun d k =>
    if k * per ≥ n then d
    else
      let cnt := min per (n - k * per)
      let part := (els.drop (k * per)).take cnt
      let wr := clWrite e u c true (r * 64 * bytes + 64 * k) (2 ^ (cnt * bytes) - 1) (packElems fmt.width part) d
      if wr.1 then
        let nf := countNonFinite fmt part
        wr.2.sticky u (fun x => { x with nan := satAdd x.nan nf.1, inf := satAdd x.inf nf.2 })
      else wr.2) d

/-- R166: the rows of a command, slot by slot: computed, accumulated in ACCUMULATE, and written. -/
def Mma.rows (x : Mma) (e : Env) (u c pack : Nat) (b : MxBuf) (f : Feed) : List Nat → Dp → Dp
  | [], d => d
  | s :: rest, d =>
    let fmt := accFmt x.accw x.a16
    let cols := (b.recs.zip b.scales).map (fun y => x.cell b pack f fmt s y.1 y.2)
    let r := x.arow + s
    if x.mode = 0 then x.rows e u c pack b f rest (writeRow e u c fmt r (b.nc + 1) cols d)
    else
      match clBytes e u c true (r * 8 * fmt.width) (8 * fmt.width) d with
      | (none, d) => d
      | (some old, d) =>
        let els := cols.zipIdx.map (fun y => fmt.rne ((fmt.decode (elemOf fmt.width old y.2)).add (fmt.decode y.1)))
        x.rows e u c pack b f rest (writeRow e u c fmt r (b.nc + 1) els d)

/-- R185, R190: an MMA reads its feed, writes its rows, and leaves its final words for a chained one; MX_CHBRK counts a chain request
that starts unchained, MX_BUSY its slots. -/
def runMma (c : Nat) (w : BitVec 128) (e : Env) (d : Dp) : Dp :=
  let x := mmaOf w
  let u := mxaUid c
  let m := d.getMxa c
  match mxPack x.fmt x.accw with
  | none => d
  | some (pack, _) =>
    match x.read e u c pack m.prev d with
    | (none, d) => d
    | (some (f, chained), d) =>
      let d := if x.chain && !chained then d.perf u 0x20 1 else d
      let d := (x.rows e u c pack (m.buf x.buf) f (List.range x.m) d).perf u 0x18 x.slots
      let p : MmaPrev := { key := x.key, feedEnd := x.feed + x.slots * x.wb pack, scaleEnd := x.fscale + x.slots * x.swb,
                           words := f.words >>> (8 * x.slots * x.wb pack), scaleWords := f.scales >>> (8 * x.slots * x.swb) }
      d.setMxa c (fun y => { y with prev := some p })

def execMma (c : Fin 512) (w : BitVec 128) (s : State) : Host.Outcome State Fault Refusal :=
  .next (s.runDp (mxaUid c.val) 0x11 w.toNat
    (mmaValid w ((s.dp.getMxa c.val).buf (bit w 8)) (s.env.phaseClass (mxaUid c.val))) (runMma c.val w))

/-! ### ABCAST and CNTST -/

/-- R186: ABCAST's fields are valid. -/
def abcastValid (w : BitVec 128) : Bool :=
  !(anyBits w 20 12) && !(anyBits w 52 76) && (bit w 8 || !(bit w 19)) && decide (bits w 9 10 ≤ lastRow (bit w 8)) &&
    decide (bits w 32 10 + bits w 42 10 ≤ lastRow (bit w 8))

/-- R186: copy row SROW, read once, into the destination rows bit for bit. -/
def runAbcast (c : Nat) (w : BitVec 128) (e : Env) (d : Dp) : Dp :=
  let fmt := accFmt (bit w 8) (bit w 19)
  let u := mxaUid c
  match clBytes e u c true (bits w 9 10 * 8 * fmt.width) (8 * fmt.width) d with
  | (none, d) => d
  | (some v, d) =>
    (List.range (bits w 42 10 + 1)).foldl (fun d j => writeRow e u c fmt (bits w 32 10 + j) 64 (elemsFrom fmt.width v 64 0) d) d

def execAbcast (c : Fin 512) (w : BitVec 128) (s : State) : Host.Outcome State Fault Refusal :=
  .next (s.runDp (mxaUid c.val) 0x12 w.toNat (abcastValid w) (runAbcast c.val w))

/-- R187: CNTST writes one SRAM line with the NAN, INF and ILL counters. -/
def runCntst (c : Nat) (w : BitVec 128) (e : Env) (d : Dp) : Dp :=
  let k := (d.getUnit (mxaUid c)).sticky
  (clWrite e (mxaUid c) c false (bits w 32 22) fullMask (packBytes [(0, k.nan.toNat), (4, k.inf.toNat), (8, k.ill.toNat)]) d).2

def execCntst (c : Fin 512) (w : BitVec 128) (s : State) : Host.Outcome State Fault Refusal :=
  .next (s.runDp (mxaUid c.val) 0x13 w.toNat (!(anyBits w 8 24) && !(anyBits w 32 6) && !(anyBits w 54 74)) (runCntst c.val w))

end Sys2Proof.Machine
end

