-- ==== Sys2Proof/Machine/Regs.lean ====
section
/-! DEFINITION. Meanings of the two commands over the whole of setup space (00_scope.md R13, R14; 20_board_and_bringup.md R489): a read
with what it clears or latches, and a write by access type with the rules of the owning chapter. -/

namespace Sys2Proof.Machine

/-! ### Small updates -/

def State.onFr (s : State) (f : Fr → Fr) : State := { s with dp := { s.dp with fr := f s.dp.fr } }
def State.onLog (s : State) (f : Log → Log) : State := { s with dp := { s.dp with log := f s.dp.log } }
def State.onMemB (s : State) (f : Mem → Mem) : State := { s with dp := { s.dp with mem := f s.dp.mem } }
def State.onSels (s : State) (f : Sels → Sels) : State := { s with hp := { s.hp with sels := f s.hp.sels } }
def State.onHp (s : State) (f : Hp → Hp) : State := { s with hp := f s.hp }
def State.onSt (s : State) (f : St → St) : State := { s with st := f s.st }
def State.onClk (s : State) (f : Clk → Clk) : State := { s with clk := f s.clk }
def State.onTorus (s : State) (f : Torus → Torus) : State := { s with torus := f s.torus }
def State.onPart (s : State) (p : Nat) (f : Part → Part) : State := { s with dp := s.dp.setPart p f }

/-- Clear a measuring counter of unit `u`. -/
def State.clearPerf (s : State) (u off : Nat) : State :=
  { s with dp := s.dp.setUnit u (fun x => { x with perf := x.perf.put 0 off 0 }) }

/-- One half of a 64-bit register replaced. -/
def setLo (x : BitVec 64) (v : BitVec 32) : BitVec 64 := BitVec.ofNat 64 (hi32 x.toNat * 2 ^ 32 + v.toNat)
def setHi (x : BitVec 64) (v : BitVec 32) : BitVec 64 := BitVec.ofNat 64 (v.toNat * 2 ^ 32 + lo32 x.toNat)

/-! ### Reads -/

/-- The selected port and edge end. -/
def State.onPort (s : State) (f : Port → Port) : State := s.setPort s.torus.sel.toNat f
def State.onEnd (s : State) (f : EdgeEnd → EdgeEnd) : State :=
  { s with edge := { s.edge with ends := s.edge.ends.upd {} s.edge.sel.toNat f } }

/-- R13: the RC registers of the blocks below 0x1000, cleared. -/
def State.clearLow (s : State) (o : Nat) : State :=
  match o with
  | 0x44C => s.onFr (fun f => { f with count := 0 })
  | 0x464 => s.onFr (fun f => { f with replayCnt := 0 })
  | 0x468 => s.onFr (fun f => { f with rollbackCnt := 0 })
  | 0x46C => s.onFr (fun f => { f with restoredCnt := 0 })
  | 0x4DC => s.onSt (fun t => { t with pass := 0 })
  | 0x4E0 => s.onSt (fun t => { t with fail := 0 })
  | 0x4E4 => s.onSt (fun t => { t with refuse := 0 })
  | 0x830 => s.onPw (fun w => { w with droopCnt := 0 })
  | 0x834 => s.onPw (fun w => { w with clampCnt := 0 })
  | 0x838 => s.onPw (fun w => { w with rampVCnt := 0 })
  | 0xA1C => s.onLog (fun l => { l with ovld := 0 })
  | 0xA20 => s.onLog (fun l => { l with hdrop := 0 })
  | 0xA24 => s.onLog (fun l => { l with supp := 0 })
  | 0xA54 => s.onLog (fun l => { l with spillDrop := 0 })
  | 0xA90 => s.clearPerf (cuid s.hp.sels.dg.toNat 4 0) 0x10
  | _ => if 0xC00 ≤ o then s.onLog (fun l => { l with counts := l.counts.put 0 ((o - 0xC00) / 4) 0 }) else s

/-- R13: the RC registers of the time, contract, memory, torus and edge blocks, cleared. -/
def State.clearMid (s : State) (o : Nat) : State :=
  match o with
  | 0x1030 => s.onClk (fun c => { c with lateCnt := 0 })
  | 0x1034 => s.onClk (fun c => { c with stretchCnt := 0 })
  | 0x103C => s.onClk (fun c => { c with lateMax := 0 })
  | 0x1044 => s.onPart s.hp.sels.ts.toNat (fun q => { q with winvCnt := 0 })
  | 0x104C => s.onPart s.hp.sels.ts.toNat (fun q => { q with hostWrCnt := 0 })
  | 0x1098 => s.onMemB (fun m => { m with ceCnt := 0 })
  | 0x109C => s.onMemB (fun m => { m with ueCnt := 0 })
  | 0x10A8 => s.onMemB (fun m => { m with unmapCnt := 0 })
  | 0x128C => s.onPort (fun x => { x with fecce := 0 })
  | 0x1290 => s.onPort (fun x => { x with badflit := 0 })
  | 0x1294 => s.onPort (fun x => { x with retry := 0 })
  | 0x1298 => s.onPort (fun x => { x with failCnt := 0 })
  | 0x129C => s.onPort (fun x => { x with dup := 0 })
  | 0x12A0 => s.onPort (fun x => { x with drop := 0 })
  | 0x13D0 => s.onEnd (fun x => { x with crcErr := 0 })
  | 0x13D4 => s.onEnd (fun x => { x with retry := 0 })
  | 0x13D8 => { s with dp := { s.dp with edgeTx := s.dp.edgeTx.put 0 s.edge.sel.toNat 0 } }
  | 0x13DC => { s with dp := { s.dp with edgeRx := s.dp.edgeRx.put 0 s.edge.sel.toNat 0 } }
  | _ => s

/-- R196, R243, R244, R270, R317, R368: the unit and counter behind an RC register of a unit block, for the selection in force. -/
def State.perfAt (s : State) (o : Nat) : Option (Nat × Nat) :=
  let h := s.hp.sels
  let j := h.upStack.toNat
  if [0x1118, 0x111C, 0x1120].contains o then some (cuid h.mx.toNat 0 0, o - 0x1100)
  else if [0x1150, 0x1154, 0x1158, 0x115C].contains o then some (cuid h.sd.toNat 3 h.sdCh.toNat, o - 0x1140)
  else if [0x1198, 0x119C, 0x11A0].contains o then some (cuid h.tf.toNat 2 0, o - 0x1180)
  else if [0x11E4, 0x11E8].contains o then some (cuid h.tv.toNat 1 0, o - 0x11C0)
  else if [0x1258, 0x125C, 0x126C, 0x1270, 0x1274].contains o then some (duid (j / 3) 1 (j % 3), o - 0x1240)
  else if [0x12E4, 0x12E8, 0x12EC, 0x12F0, 0x12F4].contains o then some (duid h.flDie.toNat 0 0, o - 0x12C0)
  else none

/-- R13: what reading the register at an aligned offset clears, for the selection in force. -/
def State.clearRc (s : State) (o : Nat) : State :=
  match s.perfAt o with
  | some x => s.clearPerf x.1 x.2
  | none => if o < 0x1000 then s.clearLow o else s.clearMid o

/-- R36: reading the low word of a pair latches the upper half. -/
def State.latchPair (s : State) (o : Nat) : State :=
  if pairLow o then s.onHp (fun h => { h with latch := h.latch.put 0 o (BitVec.ofNat 32 (s.reg (o + 4))) }) else s

/-- R13, R36: a read of the register at an offset. A 32-bit read answers the value, clears an RC register and latches the upper half of
a pair; a 64-bit read answers two words from one instant, both halves of a pair as they stand, and latches nothing. -/
def execReadClearRegister (a : RegRead) (s : State) : Host.Outcome State Fault Refusal :=
  .next (if a.wide then
      let o := a.off.toNat / 8 * 8
      let hi := if pairLow o then s.reg (o + 4) else s.regRead (o + 4)
      let t := (s.clearRc o).clearRc (o + 4)
      { t with out := { t.out with rdata := BitVec.ofNat 64 (s.regRead o + 2 ^ 32 * hi) } }
    else
      let o := a.off.toNat / 4 * 4
      let t := (s.latchPair o).clearRc o
      { t with out := { t.out with rdata := BitVec.ofNat 64 (s.regRead o) } })

/-! ### Writes -/

/-- R445: FR_STAT is W1C; the host writes the rest only while no launch runs. -/
def State.writeFr (s : State) (o : Nat) (v : BitVec 32) : State :=
  if o = 0 then s.onFr (fun f => { f with multi := f.multi && !(bit v 5), newRep := f.newRep && !(bit v 4) })
  else if s.launched then s
  else match o with
    | 0x04 => s.onFr (fun f => { f with spare := bit v 1, restore := bit v 0 })
    | 0x10 => s.onFr (fun f => { f with rsplit := v.extractLsb' 16 16, rbase := v.extractLsb' 0 16 })
    | 0x14 => s.onFr (fun f => { f with xbase := v.extractLsb' 0 22 })
    | 0x18 => s.onFr (fun f => { f with xstride := v.extractLsb' 0 16 })
    | _ => s

/-- R403: PW_SEL and the W1C bits of PW_STAT; the rest is read-only to the host. -/
def Pw.write (w : Pw) (o : Nat) (v : BitVec 32) : Pw :=
  match o with
  | 0x00 => { w with sel := BitVec.ofNat 10 (v.toNat &&& 0x33F) }
  | 0x04 => { w with noFit := w.noFit && !(bit v 1), clampF := w.clampF && !(bit v 2), therm := w.therm && !(bit v 3),
                     floorShort := w.floorShort && !(bit v 4), rampVF := w.rampVF && !(bit v 5), trimLim := w.trimLim && !(bit v 6) }
  | _ => w

/-- R411, R412, R423: the Scroll block. -/
def Log.writeEv (l : Log) (o : Nat) (v : BitVec 32) : Log :=
  match o with
  | 0x00 => { l with hperiod := v.extractLsb' 16 16, fillLog2 := v.extractLsb' 8 4, irqSev := v.extractLsb' 4 2, holdSev := v.extractLsb' 0 2 }
  | 0x04 => { l with hdropF := l.hdropF && !(bit v 3), ovldF := l.ovldF && !(bit v 2) }
  | 0x0C => { l with cursor := v }
  | 0x10 => { l with mark := v }
  | 0x14 => l.ack v
  | _ => l

/-- R416, R424: the trace block: TR_SEL takes a snapshot, FREEZE freezes when it is set, AUTO resumes. -/
def State.writeTr (s : State) (o : Nat) (v : BitVec 32) : State :=
  match o with
  | 0x00 => s.trSelect v
  | 0x04 =>
    let was := s.dp.log.freeze
    let s := s.onLog (fun l => { l with classes := v.extractLsb' 8 7, spillPorts := bit v 2, spill := bit v 1, freeze := bit v 0 })
    if bit v 0 && !was then s.freezeTraces else s
  | 0x08 =>
    let s := s.onLog (fun l => { l with snapBad := l.snapBad && !(bit v 2) })
    if bit v 1 then s.resumeTraces else s
  | 0x18 => s.onLog (fun l => { l with inkOff := v.extractLsb' 11 19,
                                       inkStack := if bits v 0 4 < 12 then v.extractLsb' 0 4 else l.inkStack })
  | _ => s

/-- R409, R426: four rates, in force from the next bucket; those of reserved and unlimited codes are ignored. -/
def Log.writeRates (l : Log) (c : Nat) (v : BitVec 32) : Log :=
  { l with rateNext := (List.range 4).foldl (fun t k =>
      if codeExists (c + k) && !(neverLimited (c + k)) then t.put 0 (c + k) (v.extractLsb' (8 * k) 8) else t) l.rateNext }

/-- R83: the W1C bits of CT_STAT for the partition TS_SEL selects. -/
def Part.writeCt (q : Part) (o : Nat) (v : BitVec 32) : Part :=
  if o = 0 then { q with window := q.window && !(bit v 0), hostWr := q.hostWr && !(bit v 1) } else q

/-- R108, R111, R418: MEM_STAT is W1C; INKWELL is ignored, with CFGREJ, while a script is launched or out of range; a new area starts
with INK_PTR 0. -/
def State.writeMem (s : State) (o : Nat) (v : BitVec 32) : State :=
  match o with
  | 0x00 => s.onMemB (fun m => { m with unmapped := m.unmapped && !(bit v 0), ue := m.ue && !(bit v 1), cfgRej := m.cfgRej && !(bit v 2) })
  | 0x08 =>
    if s.launched || bits v 0 5 > 16 then s.onMemB (fun m => { m with cfgRej := true })
    else if bits v 0 5 = s.dp.mem.ink.toNat then s
    else (s.onMemB (fun m => { m with ink := v.extractLsb' 0 5 })).onLog (fun l => { l with inkLine := [], inkWraps := [] })
  | _ => s

/-- R108, R112: a word of the XT table; its reserved bits stay 0. -/
def State.writeXt (s : State) (o : Nat) (v : BitVec 32) : State :=
  if s.launched then s.onMemB (fun m => { m with cfgRej := true })
  else s.onMemB (fun m => { m with xt := m.xt.upd 0 (o / 8) (fun x =>
    if o % 8 = 0 then setLo x (v &&& 0xE#32) else setHi x (v &&& 0xFFFFFFF0#32)) })

/-- R290: TS_LSCFG's values lie in their ranges. -/
def lscfgOk (v : BitVec 32) : Bool :=
  let ok := fun (x : Int) => decide (-64 ≤ x) && decide (x ≤ 64)
  ok (sbits v 24 8) && ok (sbits v 16 8) && ok (sbits v 8 8) && (decide (bits v 0 5 ≤ 20) || bits v 0 5 == 31) &&
    decide (sbits v 8 8 ≤ sbits v 24 8) && decide (sbits v 24 8 ≤ sbits v 16 8)

/-- R282, R283, R290: the training-step registers of a partition. -/
def Part.writeTs (q : Part) (o : Nat) (v : BitVec 32) : Part :=
  match o with
  | 0x08 => if lscfgOk v then { q with lsInit := v.extractLsb' 24 8, lsMax := v.extractLsb' 16 8, lsMin := v.extractLsb' 8 8,
                                       grow := v.extractLsb' 0 5 }
            else { q with cfgRej := true }
  | 0x0C => { q with lineEn := bit v 0, lineAddr := BitVec.ofNat 48 (q.lineAddr.toNat / 2 ^ 32 * 2 ^ 32 + v.toNat / 64 * 64) }
  | 0x10 => { q with lineAddr := BitVec.ofNat 48 (bits v 0 16 * 2 ^ 32 + q.lineAddr.toNat % 2 ^ 32) }
  | 0x18 => { q with clean := v }
  | 0x1C => { q with skip := v }
  | _ => q

/-- R290: the training-step block: a write while the selected partition runs a launch is ignored and sets CFGREJ. -/
def State.writeTs (s : State) (o : Nat) (v : BitVec 32) : State :=
  let p := s.hp.sels.ts.toNat
  if o = 0 then s.onSels (fun x => { x with ts := v.extractLsb' 0 2 })
  else if o = 4 then s.onPart p (fun q => { q with floor := q.floor && !(bit v 3), cfgRej := q.cfgRej && !(bit v 2),
                                                   lineBad := q.lineBad && !(bit v 1) })
  else if !([0x08, 0x0C, 0x10, 0x18, 0x1C].contains o) then s
  else if (s.getPartn p).launch.isSome then s.onPart p (fun q => { q with cfgRej := true })
  else s.onPart p (fun q => q.writeTs o v)

/-- R314, R317: the update-unit block. -/
def State.writeUp (s : State) (o : Nat) (v : BitVec 32) : State :=
  let p := s.hp.sels.upPart.toNat
  let j := s.hp.sels.upStack.toNat
  match o with
  | 0x00 => s.onSels (fun x => { x with upPart := v.extractLsb' 8 2, upStack := if bits v 0 4 < 12 then v.extractLsb' 0 4 else x.upStack })
  | 0x04 =>
    let s := s.onSels (fun x => { x with upCfgRej := x.upCfgRej && !(bit v 6) })
    { s with dp := { s.dp with upu := s.dp.upu.upd {} j (fun u => { u with edropF := u.edropF && !(bit v 5) }) } }
  | 0x24 =>
    if (s.getPartn p).launch.isSome then s.onSels (fun x => { x with upCfgRej := true })
    else s.onPart p (fun q => { q with eseq := setLo q.eseq v, eseqHost := setLo q.eseq v })
  | 0x28 =>
    if (s.getPartn p).launch.isSome then s.onSels (fun x => { x with upCfgRej := true })
    else s.onPart p (fun q => { q with eseq := setHi q.eseq v, eseqHost := setHi q.eseq v })
  | _ => s

/-- R344: LK_SEL, and LK_VCW while no script is launched. -/
def State.writeLk (s : State) (o : Nat) (v : BitVec 32) : State :=
  match o with
  | 0x00 => if bits v 0 5 < 24 then s.onTorus (fun t => { t with sel := v.extractLsb' 0 5 }) else s
  | 0x24 => if s.launched then s.onTorus (fun t => { t with vcwRej := true }) else s.onTorus (fun t => { t with vcw := v.extractLsb' 0 16 })
  | _ => s

/-- R143: the host-port block: QRESET, then MQRESUME, when written 1. -/
def State.writeHp (s : State) (o : Nat) (v : BitVec 32) : State :=
  match o with
  | 0x00 => s.onHp (fun h => { h with viral := h.viral && !(bit v 21), cfgRej := h.cfgRej && !(bit v 20) })
  | 0x04 =>
    let s := if bit v 0 then s.qreset else s
    if bit v 1 then s.mqresume else s
  | 0x08 => s.onHp (fun h => { h with dbBase := setLo h.dbBase (v &&& 0xFFFFE000#32) })
  | 0x0C => s.onHp (fun h => { h with dbBase := setHi h.dbBase v })
  | 0x10 => s.onHp (fun h => { h with errQ := h.errQ && !(bit v 0), errDown := h.errDown && !(bit v 1),
                                      errViral := h.errViral && !(bit v 2), errIde := h.errIde && !(bit v 3) })
  | _ => s

/-- R144: a word of a queue-table entry while EN is 0. -/
def Queue.write (x : Queue) (o : Nat) (v : BitVec 32) : Queue :=
  match o with
  | 0x00 => { x with sqBase := setLo x.sqBase (v &&& 0xFFFFF000#32) }
  | 0x04 => { x with sqBase := setHi x.sqBase v }
  | 0x08 => { x with cqBase := setLo x.cqBase (v &&& 0xFFFFF000#32) }
  | 0x0C => { x with cqBase := setHi x.cqBase v }
  | 0x10 => { x with holdoff := v.extractLsb' 24 8, vector := v.extractLsb' 16 8, log2 := v.extractLsb' 0 5 }
  | _ => x

/-- R114, R120, R121, R144: the queue table: QSTAT is W1C, and clearing its bits resumes nothing; a write of the other words while EN is
1 is ignored with CFGREJ; QCFG with EN set enables the queue. -/
def State.writeQ (s : State) (q o : Nat) (v : BitVec 32) : State :=
  if o = 0x14 then s.setQ q (fun x => { x with overrun := x.overrun && !(bit v 2), badCfg := x.badCfg && !(bit v 3),
                                               fetchErr := x.fetchErr && !(bit v 4) })
  else if o > 0x10 then s
  else if (s.getQ q).en then s.onHp (fun h => { h with cfgRej := true })
  else if o = 0x10 && bit v 8 then s.queueEnable q v
  else s.setQ q (fun x => x.write o v)

/-- R145: a word of the MSI-X table, as the PCIe definition lays it out: the address is a multiple of 4, the control word is its mask. -/
def State.writeIrq (s : State) (i : Nat) (v : BitVec 32) : State :=
  let w := if i % 4 = 0 then v &&& 0xFFFFFFFC#32 else if i % 4 = 3 then v &&& 1#32 else v
  s.onDp (fun e d => { d with irq := Irq.unmask e (i / 4) { d.irq with table := d.irq.table.put 0 i w } })

/-- The selection registers of the unit blocks (R196, R243, R244, R270, R368, R381, R425). -/
def State.writeSel (s : State) (o : Nat) (v : BitVec 32) : State :=
  match o with
  | 0xA80 => s.onSels (fun x => { x with dg := v.extractLsb' 0 9 })
  | 0x1100 => s.onSels (fun x => { x with mx := v.extractLsb' 0 9 })
  | 0x1140 => s.onSels (fun x => { x with sd := v.extractLsb' 0 9, sdCh := v.extractLsb' 16 3 })
  | 0x1180 => s.onSels (fun x => { x with tf := v.extractLsb' 0 9 })
  | 0x11C0 => s.onSels (fun x => { x with tv := v.extractLsb' 0 9 })
  | 0x12C0 => s.onSels (fun x => { x with flDie := v.extractLsb' 0 2, flCg := v.extractLsb' 8 6 })
  | 0x13C0 => { s with edge := { s.edge with sel := v.extractLsb' 0 3 } }
  | _ => s

/-- R13, R14, R489: a 32-bit write at an aligned offset: RW sets, W1C clears, WO acts, RO and RC and offsets not listed ignore it. -/
def State.regWrite (s : State) (o : Nat) (v : BitVec 32) : State :=
  if 0x440 ≤ o && o < 0x480 then s.writeFr (o - 0x440) v
  else if 0x800 ≤ o && o < 0x840 then s.onPw (fun w => w.write (o - 0x800) v)
  else if 0xA00 ≤ o && o < 0xA40 then s.onLog (fun l => l.writeEv (o - 0xA00) v)
  else if 0xA40 ≤ o && o < 0xA80 then s.writeTr (o - 0xA40) v
  else if 0xB00 ≤ o && o < 0xC00 then s.onLog (fun l => l.writeRates (o - 0xB00) v)
  else if 0x1040 ≤ o && o < 0x1080 then s.onPart s.hp.sels.ts.toNat (fun q => q.writeCt (o - 0x1040) v)
  else if 0x1080 ≤ o && o < 0x10C0 then s.writeMem (o - 0x1080) v
  else if 0x1200 ≤ o && o < 0x1240 then s.writeTs (o - 0x1200) v
  else if 0x1240 ≤ o && o < 0x1280 then s.writeUp (o - 0x1240) v
  else if 0x1280 ≤ o && o < 0x12C0 then s.writeLk (o - 0x1280) v
  else if 0x1400 ≤ o && o < 0x1800 then s.writeXt (o - 0x1400) v
  else if 0x2000 ≤ o && o < 0x2040 then s.writeHp (o - 0x2000) v
  else if 0x2400 ≤ o && o < 0x2E20 then s.writeQ ((o - 0x2400) / 32) (o % 32) v
  else if 0x3000 ≤ o && o < 0x3540 then s.writeIrq ((o - 0x3000) / 4) v
  else s.writeSel o v

/-- R13, R14: the host writes the register at an offset. -/
def execRegisterWrite (off : BitVec 16) (v : BitVec 32) (s : State) : Host.Outcome State Fault Refusal :=
  .next (s.regWrite (off.toNat / 4 * 4) v)

end Sys2Proof.Machine
end

