-- ==== Sys2Proof/Machine/Slant.lean ====
section
/-! DEFINITION. Meanings of the Slant channels' instructions and of what arrives at them (09_slant_dma_and_format_engine.md R217–R232),
and of an add-write at its controller (R99). -/

namespace Sys2Proof.Machine

/-- The fields COPY, FILL, ADDW and PUT share (R224). -/
structure Move where
  rows : Nat
  lines : Nat
  src : Nat
  spl : Nat
  dst : Nat
  dpl : Nat

def moveOf (w : BitVec 256) : Move :=
  { rows := bits w 16 12 + 1, lines := bits w 32 16, src := bits w 64 48, spl := bits w 112 16, dst := bits w 128 48, dpl := bits w 176 16 }

/-- R224: what the shared layout asks: reserved bits (bits [15:low] of the first word and, but for PUT, [223:192]), LINES, alignment,
DPL against the destination span of a row, and the credit field. -/
def moveValid (w : BitVec 256) (low : Nat) (fill put : Bool) (span dies : Nat) : Bool :=
  !(anyBits w low (16 - low)) && !(anyBits w 28 4) && bits w 32 16 != 0 && !(anyBits w 48 16) && (fill || !(anyBits w 64 6)) &&
    !(anyBits w 128 6) && (put || !(anyBits w 192 32)) && (bits w 16 12 == 0 || decide (span ≤ bits w 176 16)) && creditOk w put dies

/-- Rows in ascending order, until the stroke is voided. -/
def overRows (n : Nat) (f : Nat → Dp → Dp) (d : Dp) : Dp :=
  (List.range n).foldl (fun d r => if d.fr.voided then d else f r d) d

/-- R224: COPY moves ROWS rows of LINES lines. -/
def runCopy (c ch : Nat) (w : BitVec 256) (e : Env) (d : Dp) : Dp :=
  let x := moveOf w
  overRows x.rows (fun r d => copyRow e c ch (x.src + r * x.spl * 64) (x.dst + r * x.dpl * 64) x.lines d) d

/-- R107, R117: a line of a COPY lies in the external window behind an entry that admits the access, and the host link is not in L0. -/
def State.copyWaits (s : State) (u : Nat) (w : BitVec 256) : Bool :=
  let x := moveOf w
  let ext := fun (a : Nat) (wr : Bool) => match s.dp.mem.at48 a with
    | some (.ext n o) => (s.dp.mem.xtHpa n o wr).isSome && (!wr || s.env.mayWrite u a)
    | _ => false
  !s.env.linkUp && (List.range x.rows).any (fun r => (List.range x.lines).any (fun l =>
    ext (x.src + r * x.spl * 64 + 64 * l) false || ext (x.dst + r * x.dpl * 64 + 64 * l) true))

/-- R117, R224: COPY; one that must reach the host waits while the link is not in L0. -/
def execCopy (c : Fin 512) (ch : Fin 8) (w : BitVec 256) (s : State) : Host.Outcome State Fault Refusal :=
  let u := sdUid c.val ch.val
  .next (s.runMove u 0x10 w.toNat (moveValid w 8 false false (bits w 32 16) (s.env.diesOf u)) (s.copyWaits u w) (fun s =>
    (s.onDp (runCopy c.val ch.val w)).slCredit u w))

/-- R225: FILL writes PATTERN to every aligned 8 bytes of each destination row. -/
def runFill (c ch : Nat) (w : BitVec 256) (e : Env) (d : Dp) : Dp :=
  let x := moveOf w
  overRows x.rows (fun r d => fillRow e c ch (x.dst + r * x.dpl * 64) (patLine (w.extractLsb' 64 64)) x.lines d) d

def execFillLines (c : Fin 512) (ch : Fin 8) (w : BitVec 256) (s : State) : Host.Outcome State Fault Refusal :=
  let u := sdUid c.val ch.val
  .next (s.runMove u 0x12 w.toNat (moveValid w 8 true false (bits w 32 16) (s.env.diesOf u)) false (fun s =>
    (s.onDp (runFill c.val ch.val w)).slCredit u w))

/-- R226: ADDW sends source lines as add-writes. -/
def runAddw (c ch : Nat) (w : BitVec 256) (e : Env) (d : Dp) : Dp :=
  let x := moveOf w
  match addFmt (bits w 8 4) with
  | none => d
  | some (f, per) =>
    overRows x.rows (fun r d => addRow e c ch f per (x.src + r * x.spl * 64) (x.dst + r * x.dpl * 64) x.lines d) d

/-- R226: lines of the destination span of one source row. -/
def addwSpan (w : BitVec 256) : Nat :=
  match addFmt (bits w 8 4) with
  | some (_, per) => bits w 32 16 * (per / 16)
  | none => 0

def execAddw (c : Fin 512) (ch : Fin 8) (w : BitVec 256) (s : State) : Host.Outcome State Fault Refusal :=
  let u := sdUid c.val ch.val
  .next (s.runMove u 0x13 w.toNat ((addFmt (bits w 8 4)).isSome && moveValid w 12 false false (addwSpan w) (s.env.diesOf u)) false (fun s =>
    (s.onDp (runAddw c.val ch.val w)).slCredit u w))

/-- R99, R226: the units that send add-writes: Slant channels. -/
def addUnit (u : Nat) : Bool := unitKind u == 3

/-- R99: an add-write as the controller performs it: one source line of addends of unit `u` for the lines from `a` on; FMT 0 BF16,
1 FP16, 2 FP32. -/
def execAddWrite (u : BitVec 16) (fmt : Fin 3) (a : BitVec 64) (v : BitVec 512) (s : State) : Host.Outcome State Fault Refusal :=
  .next (if s.dp.canRun s.env u.toNat && addUnit u.toNat then
      match addFmt (if fmt.val = 2 then 7 else fmt.val) with
      | none => s
      | some (f, per) => (s.onDp (fun e => addSource e u.toNat (a.toNat / 64 * 64) f per v)).settleStop
    else s)

/-! ### PUT -/

/-- R227: PUT's destination: DCG and DRANK. -/
def putCg (w : BitVec 256) : Nat := bits w 192 6
def putRank (w : BitVec 256) : Nat := bits w 198 18

/-- R227: DCG is declared by the running script and open, and DRANK lies below its size. -/
def State.putCgOk (s : State) (u : Nat) (w : BitVec 256) : Bool :=
  match s.env.ofUnit u with
  | none => false
  | some p =>
    (List.range p.img.nCg).any (fun i => (p.img.cg i).1 == putCg w) && s.torus.cgOpen.contains (putCg w) &&
      decide (putRank w < cgSize (s.torus.cgs.get 0 (putCg w)))

/-- R227, R328: the lines of one row go out in packets of at most 64 consecutive lines. -/
def State.sendLines (s : State) (c u pkg pod addr entry : Nat) : Nat → List (BitVec 512) → State
  | 0, _ => s
  | n + 1, l =>
    if l.isEmpty then s
    else
      let s := s.sendAwaited (c / 128) u 1 2 pkg pod addr (entry % 2 ^ 16 * 2 ^ 32) 0 (l.take 64)
      s.sendLines c u pkg pod (addr + 4096) entry n (l.drop 64)

/-- R227: one row of a PUT: read, then performed here or sent; SD_WRLINES counts the lines performed or sent. -/
def State.putRow (s : State) (c ch : Nat) (own : Bool) (pkg pod src dst n : Nat) : State :=
  let u := sdUid c ch
  let e := s.env
  match slReads e c ch .inside src n s.dp with
  | (none, d) => { s with dp := d }
  | (some l, d) =>
    if own then
      { s with dp := (l.zipIdx).foldl (fun d x =>
          let r := putLine e ch (e.entryOf u) (dst + 64 * x.2) x.1 d
          if r.1 then r.2.perf u 0x14 1 else r.2) d }
    else ({ s with dp := d.perf u 0x14 n }).sendLines c u pkg pod dst (e.entryOf u) n l

/-- R222, R223, R227: PUT: rows in order, then its credit. -/
def State.runPut (s : State) (c ch : Nat) (w : BitVec 256) : State :=
  let u := sdUid c ch
  let x := moveOf w
  let p := s.torus.rankPkg (putCg w) (putRank w)
  let own := p.1 == s.torus.pod && p.2 == s.torus.pkg
  let s := (List.range x.rows).foldl (fun s r =>
    if s.dp.fr.voided then s else s.putRow c ch own p.2 p.1 (x.src + r * x.spl * 64) (x.dst + r * x.dpl * 64) x.lines) s
  let tag := bits w 225 19
  if !(bit w 224) || s.dp.fr.voided then s
  else if own then s.onDp (fun e d => putCredit e tag u 0 (trace e u { kind := 5, sub := creditCtr tag, a0 := creditUnit tag, a1 := 1 } d))
  else
    (s.onDp (fun e => trace e u { kind := 5, sub := creditCtr tag, a0 := creditUnit tag, a1 := 1, ppkg := p.2, ppod := p.1 })).whenAcked u
      (.remote tag p.2 p.1)

def execPut (c : Fin 512) (ch : Fin 8) (w : BitVec 256) (s : State) : Host.Outcome State Fault Refusal :=
  let u := sdUid c.val ch.val
  .next (s.runMove u 0x14 w.toNat
    (moveValid w 8 false true (bits w 32 16) (s.env.diesOf u) && !(anyBits w 216 8) && s.putCgOk u w) false (fun s => s.runPut c.val ch.val w))

/-- R320: the die whose port plane acknowledges a PUT: that of the cluster its first line addresses. -/
def Mem.putDie (m : Mem) (a : Nat) : Nat :=
  match (m.resolveMap a).bind Loc.cluster? with
  | some (i, _) => i / 128
  | none => 0

/-- R218, R227, R328, R430: a PUT packet that arrived: each line is performed or suppressed by channel `ch` of the addressed cluster,
checked against its windows for the carried entry; then the ACK. A die that has lost its clock performs nothing (R379). The packet does not name the channel: the command does. -/
def execPutReceive (k : Packet) (ch : Fin 8) (s : State) : Host.Outcome State Fault Refusal :=
  .next (if k.typ = 1 && s.torus.inbox.contains k && !(s.edge.lost.getLsbD (s.dp.mem.putDie k.addr)) then
      let s := s.takeInbox k
      let s := s.onDp (fun e d => (k.lines.zipIdx).foldl (fun d x =>
        let r := putLine e ch.val (bits k.tag 32 16) (k.addr + 64 * x.2) x.1 d
        if r.1 then taint r.2 else r.2) d)
      s.sendAck (s.dp.mem.putDie k.addr) k
    else s)

/-- R222, R328: a CREDIT packet adds 1 to the named unit's counter. -/
def execCreditPacketReceive (k : Packet) (s : State) : Host.Outcome State Fault Refusal :=
  .next (if k.typ = 3 && s.torus.inbox.contains k then
      (s.takeInbox k).onDp (fun e => remoteCredit e (bits k.tag 0 19) (k.spkg + 4096 * k.spod))
    else s)

/-- R18, R86, R218: the accesses that reach cluster `c` from outside it: a Slant channel's of another cluster of the partition, by the
channel of the same number, and a Flue's writes, by channel 7. -/
def Env.comesIn (e : Env) (c ch src : Nat) (write : Bool) : Bool :=
  isStreamUnit src && (e.diesOf src).testBit (c / 128) &&
    ((unitKind src == 3 && src % 8 == ch && decide (uidCluster src ≠ c)) || (unitKind src == 5 && ch == 7 && write))

/-- R218: an access that reaches cluster `c` from outside it is performed by its channel `ch`; `src` is the issuing unit. A read's
line is the answer. No other unit's access reaches the cluster (R18). -/
def execInboundAccess (c : Fin 512) (ch : Fin 8) (src : BitVec 16) (acc : Inbound) (s : State) : Host.Outcome State Fault Refusal :=
  let via := sdUid c.val ch.val
  let e := s.env
  let at_ := fun (a : Nat) => match s.dp.mem.at48 (a / 64 * 64) with
    | none => none
    | some l => (l.cluster?).map (fun x => (l, x))
  .next (match acc with
    | .read a =>
      if !(e.comesIn c.val ch.val src.toNat false) then s
      else
        match at_ a.toNat with
        | none => { s with dp := unmapped e src.toNat 0 a.toNat s.dp, out := { s.out with line := 0 } }
        | some (l, i, ac, off) =>
          if i ≠ c.val || !(e.claims via ac off) then { s with dp := unmapped e via 0 a.toNat s.dp, out := { s.out with line := 0 } }
          else
            let r := readLoc e src.toNat (a.toNat / 64 * 64) l (s.dp.perf via 0x18 1)
            ({ s with dp := r.2, out := { s.out with line := r.1.getD s.out.line } }).settleStop
    | .write a v =>
      if !(e.comesIn c.val ch.val src.toNat true) then s
      else
        match at_ a.toNat with
        | none => { s with dp := unmapped e src.toNat 1 a.toNat s.dp }
        | some (l, i, ac, off) =>
          if i ≠ c.val then { s with dp := unmapped e via 1 a.toNat s.dp }
          else { s with dp := (chanWrite e via (e.entryOf via) true (a.toNat / 64 * 64) l ac off v s.dp).2 })

/-! ### SKEW (R229, R230) -/

/-- R229: SKEW's format and PACK. -/
def skewPack (fmt pk : Nat) : Option Nat :=
  match fmt, pk with
  | 0, 0 => some 1 | 0, 1 => some 2 | 1, 0 => some 1 | 2, 1 => some 2 | 2, 2 => some 4 | 3, 1 => some 2 | 3, 2 => some 4
  | 4, 2 => some 4 | 5, 2 => some 4 | 6, 2 => some 4 | 8, 2 => some 4
  | _, _ => none

/-- The fields of a SKEW. -/
structure Skew where
  fmt : Nat
  pack : Nat
  lanes : Nat
  sb : Nat
  nb : Nat
  src : Nat
  spl : Nat
  dst : Nat
  kb : Nat
  k0 : Nat

def skewOf (w : BitVec 256) : Skew :=
  { fmt := bits w 8 4, pack := (skewPack (bits w 8 4) (bits w 12 2)).getD 1, lanes := bits w 16 6 + 1, sb := bits w 32 12 + 1,
    nb := bits w 48 8 + 1, src := bits w 64 48, spl := bits w 112 16, dst := bits w 128 48, kb := bits w 192 16, k0 := bits w 208 16 }

/-- R229: SKEW's fields are valid. -/
def skewValid (w : BitVec 256) (dies : Nat) : Bool :=
  (skewPack (bits w 8 4) (bits w 12 2)).isSome && !(anyBits w 14 2) && !(anyBits w 22 10) && !(anyBits w 44 4) && !(anyBits w 56 8) &&
    !(anyBits w 64 6) && !(anyBits w 128 6) && !(anyBits w 176 16) && creditOk w false dies

/-- Bits one lane of one word carries, and the bytes of a word (R173, R174, R230). -/
def Skew.laneBits (x : Skew) : Nat := if x.fmt = 8 then 8 else x.pack * ((Fmt.ofCode x.fmt).getD .bf16).width
def Skew.wb (x : Skew) : Nat := 64 * ceilDiv (x.lanes * x.laneBits) 512

/-- R230: the bit offset, within a source row, of what lane `i` takes from block `b`. -/
def Skew.bitAt (x : Skew) (b i : Nat) : Nat :=
  if x.fmt = 8 then (x.k0 + b * x.kb + i * 4) / 32 * 8
  else (x.k0 + b * x.kb + i * x.pack) * ((Fmt.ofCode x.fmt).getD .bf16).width

/-- Byte address of source row `m`. -/
def Skew.rowAt (x : Skew) (m : Nat) : Nat := x.src + m * x.spl * (if x.fmt = 8 then 8 else 64)

/-- The lines of row `m` that hold something a lane takes, in ascending order, as line numbers. -/
def Skew.rowLines (x : Skew) (m : Nat) : List Nat :=
  (List.range x.nb).foldl (fun l b =>
    let lo := (x.rowAt m * 8 + x.bitAt b 0) / 512
    let hi := (x.rowAt m * 8 + x.bitAt b (x.lanes - 1) + x.laneBits - 1) / 512
    (List.range (hi + 1 - lo)).foldl (fun l k => NSet.add l (lo + k)) l) []

/-- Read lines into a table by line number; none where one voids. -/
def slGather (e : Env) (c ch : Nat) : List Nat → Tab (BitVec 512) → Dp → Option (Tab (BitVec 512)) × Dp
  | [], t, d => (some t, d)
  | l :: r, t, d =>
    match slRead e c ch .inside (64 * l) d with
    | (none, d) => (none, d)
    | (some v, d) => slGather e c ch r (t.put 0 l v) d

/-- Read every source row's lines. -/
def Skew.gather (x : Skew) (e : Env) (c ch : Nat) : Nat → List (Tab (BitVec 512)) → Dp → Option (List (Tab (BitVec 512))) × Dp
  | 0, acc, d => (some acc.reverse, d)
  | n + 1, acc, d =>
    match slGather e c ch (x.rowLines (x.sb - (n + 1))) [] d with
    | (none, d) => (none, d)
    | (some t, d) => x.gather e c ch n (t :: acc) d

/-- `n` bits from absolute bit address `a` of gathered lines; they may cross one line end. -/
def gatherBits (t : Tab (BitVec 512)) (a n : Nat) : Nat :=
  (((t.get 0 (a / 512)).toNat + 2 ^ 512 * (t.get 0 (a / 512 + 1)).toNat) >>> (a % 512)) % 2 ^ n

/-- R230: word `t` of a SKEW from its rows. -/
def Skew.word (x : Skew) (rows : List (Tab (BitVec 512))) (t : Nat) : Nat :=
  (List.range x.lanes).foldl (fun w i =>
    if t < i || t - i ≥ x.nb * x.sb then w
    else
      let s := t - i
      let m := s % x.sb
      w ||| (gatherBits (rows.getD m []) (x.rowAt m * 8 + x.bitAt (s / x.sb) i) x.laneBits <<< (i * x.laneBits))) 0

/-- R230: SKEW reads its rows and writes its words in ascending order. -/
def runSkew (c ch : Nat) (w : BitVec 256) (e : Env) (d : Dp) : Dp :=
  let x := skewOf w
  match x.gather e c ch x.sb [] d with
  | (none, d) => d
  | (some rows, d) =>
    (List.range (x.nb * x.sb + x.lanes - 1)).foldl (fun d t =>
      let v := x.word rows t
      (List.range (x.wb / 64)).foldl (fun d k => slWrite e c ch .ownSram (x.dst + t * x.wb + 64 * k) (BitVec.ofNat 512 (v >>> (512 * k))) d) d) d

def execSkew (c : Fin 512) (ch : Fin 8) (w : BitVec 256) (s : State) : Host.Outcome State Fault Refusal :=
  let u := sdUid c.val ch.val
  .next (s.runMove u 0x11 w.toNat (skewValid w (s.env.diesOf u)) false (fun s => (s.onDp (runSkew c.val ch.val w)).slCredit u w))

end Sys2Proof.Machine
end

