-- ==== Sys2Proof/Machine/Torus.lean ====
section
/-! DEFINITION. Meanings of the torus, placement and stroke-configuration commands (13_torus_links.md; R46, R441, R481, R483). -/

namespace Sys2Proof.Machine

/-! ### Flits and packets -/

/-- R324: a flit is good when its codewords are, its CRC holds and its SEQ is the next expected. -/
def Port.good (p : Port) (fecOk : Bool) (f : Flit) : Bool :=
  fecOk && bits f.ctl 448 64 == f.crc && f.slots.length == 32 && f.seq == p.rxSeq

/-- R322–R325: a good flit's acknowledgement, credits and slots are taken. -/
def Port.takeFlit (p : Port) (f : Flit) : Port :=
  let p := { p with rxSeq := p.rxSeq + 1, nakOwed := false,
                    used := (List.range 10).foldl (fun u i => u.upd 0 i (fun n => n - f.cred i)) p.used }
  if f.nak then p.nakked f.ack else p.acked f.ack

/-- R55: the flit carries a go marker no root sends, in a control slot a package with a parent would act on. -/
def State.goCorrupt (s : State) (p : Nat) (f : Flit) : Bool :=
  !s.clk.role.isRoot && s.torus.placed && !(s.torus.interPod (p % 6)) &&
    f.slots.zipIdx.any (fun y => decide (f.desc (y.2 + 1) / 16 % 8 = 3) && decide (bits y.1 0 8 = 3) &&
      (let m : BitVec 128 := y.1.extractLsb' 128 128
       goBad s.clk m && !(goOld s.clk m)))

/-- R55, R324, R331: a flit is received: its acknowledgement and slots are taken, or it is discarded with a NAK; what the acknowledgement
frees goes out. A flit with a corrupt go marker is discarded like any corrupt flit. -/
def execFlitReceive (p : Fin 24) (fecOk : Bool) (fixed : Nat) (f : Flit) (s : State) : Host.Outcome State Fault Refusal :=
  let x := s.torus.port p.val
  .next (if x.state == .live || x.state == .lock || x.state == .training then
      if x.good fecOk f && !(s.goCorrupt p.val f) then
        let s := s.setPort p.val (fun x => { x.takeFlit f with fecce := satAdd x.fecce fixed })
        ((((s.takeSlots p.val f).replayed p.val x).pumpDir (p.val % 6))).portRecovered
      else s.setPort p.val (fun x => { x with fecce := satAdd x.fecce fixed, badflit := satAdd x.badflit 1, nakOwed := true })
    else s)

/-- R53, R324: a NAK makes the sender replay from ACK + 1. -/
def execNakReceive (p : Fin 24) (ack : BitVec 12) (s : State) : Host.Outcome State Fault Refusal :=
  let x := s.torus.port p.val
  .next (((s.setPort p.val (fun x => x.nakked ack)).replayed p.val x).pumpDir (p.val % 6)).portRecovered

end Sys2Proof.Machine

namespace Sys2Proof
open Machine

/-- R328: why a packet is dropped at the hop that receives it, in the order of R328's list, then a FLUE packet of reserved KIND (R363);
none when it goes on. -/
def Packet.dropReason (k : Packet) : Option Nat :=
  match typeRule k.typ with
  | none => some 0
  | some (vc, lo, hi) =>
    if k.vc != vc then some 1
    else if k.nlines < lo || k.nlines > hi || k.lines.length != k.nlines then some 2
    else if k.hops = 255 then some 3
    else if k.typ = 4 && decide (bits k.args 0 8 ≥ 7) then some 9
    else none

end Sys2Proof

namespace Sys2Proof.Machine

/-- R372: the die a delivered packet's lines go to: the cluster of a PUT's address; a FLUE or EMBER packet stays on its plane's die. -/
def State.landsOn (s : State) (p : Nat) (k : Packet) : Nat :=
  if k.typ = 1 then
    match s.dp.mem.resolveMap k.addr with
    | some l => l.home
    | none => p / 6
  else p / 6

/-- R329, R334: the packet is delivered here, or forwarded with HOPS + 1 on the plane it came on. -/
def State.forward (s : State) (p : Nat) (k : Packet) : State :=
  if k.dpod = s.torus.pod && k.dpkg = s.torus.pkg then
    let s := if k.lines.isEmpty then s
      else s.onDp (fun e d =>
        let d := trace e (portUid p) { kind := 8, sub := k.vc, a0 := k.rtag.toNat, a1 := k.nlines, ppkg := k.spkg,
                                       ppod := k.spod, a2 := k.typ } d
        d.cross (edgeRoute (p / 6) (s.landsOn p k) (fabricAddr k)) k.lines.length)
    { s with torus := { s.torus with inbox := s.torus.inbox ++ [k] } }
  else
    match s.torus.hop k.dpod k.dpkg with
    | .unreachable => s.dropPacket p 4 k
    | _ => s.routePacket (p / 6) (some (p % 6, k.cls)) (k.rehop (k.hops + 1) k.cls k.hseq)

/-- R328, R329, R334: the oldest complete packet of a port is dropped, discarded as a duplicate, delivered or forwarded. -/
def execPacketReceive (p : Fin 24) (s : State) : Host.Outcome State Fault Refusal :=
  .next (match (s.torus.port p.val).inbox with
    | [] => s
    | k :: _ =>
      let s := s.setPort p.val Port.popInbox
      match k.dropReason with
      | some why => s.dropPacket p.val why k
      | none =>
        let h := s.torus.hseqSeen (p.val % 6) k
        if h.1 then s.setPort p.val (fun x => { x with dup := satAdd x.dup 1 })
        else ({ s with torus := h.2 }).forward p.val k)

/-- R223, R328: an ACK completes a packet's performance at POD scope; credits, fences and seal lines that waited for it follow. -/
def execAckReceive (k : Packet) (s : State) : Host.Outcome State Fault Refusal :=
  .next (if k.typ = 2 && s.torus.inbox.contains k then (s.takeInbox k).ackArrives k.rtag k.spkg k.spod else s)

/-! ### Identity, failure and training -/

/-- R325: IDENT carries pod, package index and port; it is sent at training and every 1 ms after it. -/
def execIdentSend (p : Fin 24) (s : State) : Host.Outcome State Fault Refusal :=
  .next (if s.torus.carries p.val || (s.torus.port p.val).state == .training then
      s.sendSymbol p.val (mkSymbol 4 [(16, s.torus.pod), (18, s.torus.pkg), (20, p.val)])
    else s)

/-- R340: the order packets are resent in: VC, class, then HSEQ. -/
def resendBefore (a b : OutItem) : Bool :=
  decide (a.vk < b.vk) || (a.vk == b.vk && decide ((b.pkt.hseq + 2 ^ 24 - a.pkt.hseq) % 2 ^ 24 < 2 ^ 23))

/-- Insertion into a list in resending order. -/
def resendInsert (x : OutItem) : List OutItem → List OutItem
  | [] => [x]
  | y :: r => if resendBefore x y then x :: y :: r else y :: resendInsert x r

/-- R340: the packets of a failed port, each whole, in resending order. -/
def Port.unsent (p : Port) : List OutItem :=
  ((p.out.filter (fun x => !x.ctrl)).map (fun x => { x with left := x.pkt.lines.length + 1, lastSeq := none, resent := true })).foldr
    resendInsert []

/-- R340: the DONE and GO symbols of a failed port; the other control symbols are not resent. A done marker of a package that is late by
then carries CAUSE REPLAY (R53). -/
def Port.unsentMarks (p : Port) (late : Bool) : List OutItem :=
  (p.out.filter (fun x => x.ctrl && (bits x.pkt.hdr 0 8 == 2 || bits x.pkt.hdr 0 8 == 3))).map (fun x =>
    { x with left := 1, lastSeq := none,
             pkt := { x.pkt with hdr := if late && bits x.pkt.hdr 0 8 == 2 then x.pkt.hdr ||| 1#512 <<< 208 else x.pkt.hdr } })

/-- Queue an item on a port; a port in LOCK first sends WAKE for a packet (R343). -/
def Port.push (p : Port) (x : OutItem) : Port :=
  let p := if p.state == .lock && !p.wakeSent && !x.ctrl then { p.symbol (mkSymbol 5 []) with wakeSent := true } else p
  { p with out := p.out ++ [x] }

/-- R340: markers go to the lowest sibling, packet k to sibling k mod L in ascending order; later packets of the failed port's plane go on
with the rotation. DESIGN CHOICE (entry 87): k counts all resent packets of the port in resending order. -/
def State.spread (s : State) (p : Nat) (sibs : List Nat) (marks l : List OutItem) : State :=
  let s := marks.foldl (fun (s : State) x => s.setPort (sibs.headD 0) (fun y => y.push x)) s
  let s := (l.zipIdx).foldl (fun (s : State) x =>
    let q := sibs.getD (x.2 % sibs.length) 0
    (s.setPort q (fun y => y.push x.1)).crossPort (p / 6) q x.1.pkt) s
  ({ s with torus := { s.torus with rot := s.torus.rot.put 0 p l.length } }).pumpDir (p % 6)

/-- R36, R39, R340: the port in use to the parent moves to the lowest sibling that carries marks; with none the package enters
HOLDOVER. -/
def State.moveParent (s : State) : State :=
  if s.clk.role.isRoot || s.clk.upDir.toNat ≥ 6 then s
  else
    match s.torus.carryOf s.clk.upDir.toNat with
    | p :: _ => { s with clk := { s.clk with upPort := BitVec.ofNat 5 p } }
    | [] => if s.clk.lock = .locked || s.clk.lock = .acquire then s.setLock .holdover else s

/-- R339, R342: one port fails (condition 1–5 in R339's order): its state, its counters and its record. -/
def State.portLost (s : State) (p cond : Nat) : State :=
  let x := s.torus.port p
  let recent := (s.clk.tb :: x.fails).filter (fun t => decide (s.clk.tb.toNat < t.toNat + 3600000000000))
  (s.setPort p (fun x => { x.cut with
    state := if cond = 5 then .miswired else .failed, failCnt := satAdd x.failCnt 1, fails := recent,
    stuck := decide (recent.length ≥ 3) })).note (portUid p) 0x30 [(24, p), (25, cond)]

/-- R428: every port toward the package behind direction `i` is FAILED. -/
def Torus.pkgGone (t : Torus) (i : Nat) : Bool :=
  t.nbValid i && (List.range 24).all (fun p => !(t.nbValid (p % 6) && t.nbPkg (p % 6) == t.nbPkg i && t.nbPod (p % 6) == t.nbPod i) ||
    (t.port p).state == .failed)

/-- R428: the same event is also a fault of another class: a report of its own, unless the event was a multiple fault. The faulty package
may be a neighbour. -/
def alsoFault (e : Env) (cls action unit detail : Nat) (d : Dp) : Dp :=
  if d.fr.jobStop.isSome then d
  else
    let d := writeReport e cls action unit detail d
    { d with fr := { d.fr with open_ := ⟨cls, d.fr.last.toNat, e.entryOf unit⟩ :: d.fr.open_ } }

/-- R340, R341, R428: the reports of port `p`'s failure: class 3 while a sibling carries; the loss of a direction is class 4, and also
class 9 of the neighbour when every port toward it is FAILED. -/
def State.portReport (s : State) (p : Nat) : State :=
  let dir := p % 6
  if !(s.torus.carryOf dir).isEmpty then s.onDp (fun e d => raiseFault e 3 0 (portUid p) p d)
  else
    let s := s.onDp (fun e d => raiseFault e 4 0 (portUid p) dir d)
    if s.torus.pkgGone dir then
      s.onDp (fun e d => alsoFault { e with pkg := s.torus.nbPkg dir, pod := s.torus.nbPod dir } 9 3 (portUid p) 0 d)
    else s

/-- R340, R341: what a failed port held goes to its siblings, or, with none, is routed again in the class it arrived in. -/
def State.failover (s : State) (p : Nat) (x : Port) : State :=
  let late := decide (s.clk.nominal < s.clk.tb.toNat + s.clk.cwNs.toNat)
  let s := s.causeReplay (x.unsent.map (fun y => y.pkt))
  let dir := p % 6
  let live := s.torus.liveOf dir
  match (if live.isEmpty then s.torus.lockOf dir else live) with
  | [] => x.unsent.foldl (fun (s : State) y => s.routePacket (p / 6) y.arrived y.pkt) s
  | sibs => s.spread p sibs (x.unsentMarks late) x.unsent

/-- R339–R342: ports fail together: each with its record, then the reports, one for each direction that is lost and one for each port that
has a sibling, then failover. -/
def State.portsFail (s : State) (ps : List Nat) (cond : Nat) : State :=
  let was := s.torus
  let s := ps.foldl (fun (s : State) p => s.portLost p cond) s
  let s := ps.zipIdx.foldl (fun (s : State) x =>
    if (s.torus.carryOf (x.1 % 6)).isEmpty && (ps.take x.2).any (fun q => q % 6 == x.1 % 6) then s else s.portReport x.1) s
  let s := ps.foldl (fun (s : State) p => s.failover p (was.port p)) s
  s.portRecovered.moveParent

/-- R339, R343: a failure condition holds on a port, and on the ports named with it (entry 88). A far end that stopped after COLD takes
its port DOWN without a fault. -/
def execPortFail (x : FailedPorts) (cond : Fin 5) (s : State) : Host.Outcome State Fault Refusal :=
  let ps := (x.port :: x.also.filter (fun q => q != x.port)).foldl (fun (l : List Nat) q => if l.contains q.val then l else l ++ [q.val]) []
  let ps := ps.filter s.torus.carries
  let cold := ps.filter (fun q => (s.torus.port q).coldSeen)
  let bad := ps.filter (fun q => !(s.torus.port q).coldSeen)
  let s := if cold.isEmpty then s
    else (cold.foldl (fun (s : State) q => s.setPort q (fun x => { x.cut with state := .down })) s).moveParent
  .next (if bad.isEmpty then s else (s.portsFail bad (cond.val + 1)).settleStop)

/-- R463: a port under test: retraining is suspended and IDENT ignored. -/
def State.portTested (s : State) (p : Nat) : Bool := s.st.tests.any (fun t => t.unit == portUid p)

/-- R319: a port that trains finds another far end than the placement names: MISWIRED, and reported. DESIGN CHOICE (entry 89): the report
to the management controller is a LINKFAIL record and a class 3 fault report. -/
def State.miswired (s : State) (p : Nat) : State :=
  let s := (s.setPort p (fun x => { x with state := .miswired })).note (portUid p) 0x30 [(24, p), (25, 5)]
  (s.onDp (fun e d => raiseFault e 3 0 (portUid p) p d)).portRecovered

/-- R319, R339: the far end's identity is compared with the placement. -/
def execIdentReceive (p : Fin 24) (pod : BitVec 8) (pkg : BitVec 12) (far : BitVec 8) (s : State) :
    Host.Outcome State Fault Refusal :=
  let dir := p.val % 6
  let x := s.torus.port p.val
  let good := pod.toNat == s.torus.nbPod dir && pkg.toNat == s.torus.nbPkg dir && far.toNat == 6 * (p.val / 6) + (dir ^^^ 1)
  .next (if !s.torus.nbValid dir || good || s.portTested p.val then s
    else if x.state == .live || x.state == .lock then (s.portsFail [p.val] 5).settleStop
    else if x.state == .training then (s.miswired p.val).settleStop
    else s)

/-- R321, R342: a FAILED port retrains; on success, with the asymmetry measured, it returns to LIVE at the next boundary; after three
failures in an hour it does not. -/
def execPortRetrain (p : Fin 24) (r : Retrained) (s : State) : Host.Outcome State Fault Refusal :=
  .next (s.setPort p.val (fun x =>
    if x.state == .failed && !x.stuck && r.good && !(s.portTested p.val) then { x with ready := true, asym := r.asym } else x))

/-- R343: WAKE returns a port in LOCK to LIVE. -/
def execWakeSymbol (p : Fin 24) (s : State) : Host.Outcome State Fault Refusal :=
  .next ((s.setPort p.val (fun x => if x.state == .lock then { x with state := .live, wakeSent := false } else x)).pumpPort p.val)

/-- R343: COLD lets the port enter DOWN when the far end stops. -/
def execColdSymbol (p : Fin 24) (s : State) : Host.Outcome State Fault Refusal :=
  .next (s.setPort p.val (fun x => { x with coldSeen := true }))

/-- R321, R343: a port whose lanes come up: one that trains goes LIVE with a fresh link and the asymmetry measured; one that woke its far
end from LOCK goes LIVE as it is. -/
def Port.trained (x : Port) (asym : BitVec 32) : Port :=
  if x.state == .lock then (if x.wakeSent then { x with state := .live, wakeSent := false } else x)
  else { x.cut with out := x.out.map (fun y => { y with lastSeq := none, left := if y.ctrl then 1 else y.pkt.lines.length + 1 }),
                    state := .live, coldSeen := false, coldSent := false, asym := asym }

/-- R321, R343: lane training ends. -/
def execPortTrainingDone (y : TrainedPort) (s : State) : Host.Outcome State Fault Refusal :=
  let p := y.port
  let x := s.torus.port p.val
  .next (if s.torus.nbValid (p.val % 6) && !(s.portTested p.val) && (x.state == .training || x.state == .lock || (x.state == .down && x.coldSeen)) then
      ((s.setPort p.val (fun x => x.trained y.asym)).pumpPort p.val).releaseWaiting
    else s)

/-! ### Placement and routing messages -/

/-- R335: the banks of a commit swap. -/
def Torus.swap (t : Torus) : Torus :=
  match t.commit with
  | none => t
  | some (_, rt, rm) =>
    let t := if rt then { t with bank := !t.bank, pkgTab := t.pkgShadow, pkgShadow := t.pkgTab, podTab := t.podShadow,
                                 podShadow := t.podTab } else t
    let t := if rm then { t with remap := t.remapShadow, remapShadow := t.remap } else t
    { t with commit := none }

/-- R335, R341, R429: the banks swap; what waits is routed again, and new routing tables complete a class 4 recovery. -/
def State.swapBanks (s : State) : State :=
  let tables := match s.torus.commit with
    | some (_, rt, _) => rt
    | none => false
  let s := ({ s with torus := s.torus.swap }).releaseWaiting
  if tables then s.onDp (fun e => completeRecov e 4) else s

/-- R335: at S+0 of the committed stroke the banks swap. -/
def State.bankSwap (s : State) : State :=
  match s.torus.commit with
  | none => s
  | some (n, _, _) =>
    if n.toNat ≤ s.clk.stroke.toNat || (n.toNat = s.clk.stroke.toNat + 1 && s.clk.go.isSome) then s.swapBanks else s

def execRoutingBankSwap (s : State) : Host.Outcome State Fault Refusal := .next s.bankSwap

/-- R335: ROUTE_WR writes bytes into the shadow bank. -/
def execRouteWr (tag : BitVec 16) (pl : List Byte) (s : State) : Host.Outcome State Fault Refusal :=
  .next (s.request 0x03 4 tag pl (fun s =>
    let tb := plAt pl 0 2
    let off := plAt pl 2 2
    let b := pl.drop 4
    if tb > 1 || off + b.length > (if tb = 0 then 4096 else 64) then s.respond 0x03 msBadField tag []
    else
      let put := fun (t : Tab (BitVec 8)) => b.zipIdx.foldl (fun t x => t.put 0 (off + x.2) x.1) t
      let t := if tb = 0 then { s.torus with pkgShadow := put s.torus.pkgShadow }
               else { s.torus with podShadow := put s.torus.podShadow }
      ({ s with torus := t }).respond 0x03 msOk tag []))

/-- The remap entry's implemented bits (R338). -/
def remapMask (e : Nat) : BitVec 64 := BitVec.ofNat 64 (e &&& 0x8003FFFF0003FFFF)

/-- R338: REMAP_WR writes one entry to its shadow. -/
def execRemapWr (tag : BitVec 16) (pl : List Byte) (s : State) : Host.Outcome State Fault Refusal :=
  .next (s.request 0x04 16 tag pl (fun s =>
    if plAt pl 0 8 ≥ 16 then s.respond 0x04 msBadField tag []
    else ({ s with torus := { s.torus with remapShadow := s.torus.remapShadow.put 0 (plAt pl 0 8) (remapMask (plAt pl 8 8)) } }).respond
      0x04 msOk tag []))

/-- R335: COMMIT schedules the swap for a stroke that has not begun. -/
def execCommit (tag : BitVec 16) (pl : List Byte) (s : State) : Host.Outcome State Fault Refusal :=
  .next (s.request 0x05 9 tag pl (fun s =>
    let n := plAt pl 0 8
    if n ≤ s.clk.stroke.toNat then s.respond 0x05 msBusy tag []
    else ({ s with torus := { s.torus with commit := some (BitVec.ofNat 64 n, nbit (plAt pl 8 1) 0, nbit (plAt pl 8 1) 1) } }).respond
      0x05 msOk tag []))

/-- R46: STROKE_CFG names a period and close window for a stroke; BUSY while a script is launched. -/
def execStrokeCfg (tag : BitVec 16) (pl : List Byte) (s : State) : Host.Outcome State Fault Refusal :=
  .next (s.request 0x06 14 tag pl (fun s =>
    let p := plAt pl 8 2
    if p < 25 || p > 4000 then s.respond 0x06 msBadField tag []
    else if s.launched then s.respond 0x06 msBusy tag []
    else ({ s with clk := { s.clk with req := some ⟨BitVec.ofNat 64 (plAt pl 0 8), BitVec.ofNat 12 p, BitVec.ofNat 16 (plAt pl 10 2),
      BitVec.ofNat 16 (plAt pl 12 2)⟩ } }).respond 0x06 msOk tag []))

/-- The role, parent direction and hops of PLACE and TREE are valid (R37, R60, R481). -/
def treeOk (role dir hops : Nat) : Bool :=
  decide (role ≤ 3) && (decide (dir ≤ 5) || dir == 7) && decide (hops ≤ 254) && ((role == 1 || role == 3) == (dir == 7))

/-- R36, R60: the time role, parent and hops; a root is 0 hops from itself. -/
def State.setTree (s : State) (role dir hops : Nat) : State :=
  let up := if dir = 7 then 31 else (s.torus.carryOf dir).headD dir
  { s with clk := { s.clk with role := Role.ofCode role, upDir := BitVec.ofNat 3 dir,
                               hops := if (Role.ofCode role).isRoot then 0 else BitVec.ofNat 8 hops,
                               upPort := BitVec.ofNat 5 up, kids := s.clk.kids.filter (fun d => d != dir) } }

/-- R37: the lock of a root: FREE when it has no neighbour, else LOCKED to itself (entry 13). -/
def State.rootLock (s : State) : Lock := if (List.range 6).all (fun i => !(s.torus.nbValid i)) then .free else .locked

/-- R37, R441: the lock after a TREE message: a new root is its own reference, a root that gets a parent measures it, and a package whose
new parent sends no marks is in HOLDOVER. A time fault stays one (R38). -/
def State.lockTree (s : State) (was : Role) : State :=
  if s.clk.lock = .fault then s
  else if s.clk.role.isRoot then s.setLock s.rootLock
  else (if was.isRoot then s.setLock .acquire else s).moveParent

/-- R441, R481: TREE takes effect on receipt; the package resends its latest done marker to its new parent, and a new root closes
the stroke itself. -/
def execTree (tag : BitVec 16) (pl : List Byte) (s : State) : Host.Outcome State Fault Refusal :=
  .next (s.request 0x07 3 tag pl (fun s =>
    let role := plAt pl 0 1
    let dir := plAt pl 1 1
    let hops := plAt pl 2 1
    if !(treeOk role dir hops) then s.respond 0x07 msBadField tag []
    else
      let s := (s.setTree role dir hops).lockTree s.clk.role
      let s := if s.clk.role.isRoot then ({ s with clk := { s.clk with sent := if s.clk.go.isSome then s.clk.sent else none } }).catchUp.tryClose
        else if s.clk.lastSent = 0 then s
        else s.symbolTo dir (mkSymbol 2 [(16, s.clk.lastSent.toNat)])
      s.respond 0x07 msOk tag []))

/-- R336, R337: a port after a placement: UNUSED without a neighbour, training where it was down or miswired. -/
def Port.placed (x : Port) (valid : Bool) : Port :=
  if !valid then { x with state := .unused }
  else if x.state == .down || x.state == .unused || x.state == .miswired then { x with state := .training }
  else x

/-- R338: the CG entries of a placement, for CG 0 to C − 1. -/
def placeCgs (pl : List Byte) (c : Nat) : List (BitVec 256) := (List.range c).map (fun i => BitVec.ofNat 256 (plAt pl (48 + 32 * i) 32))

/-- R336, R483: the placement takes effect. -/
def State.applyPlace (s : State) (pl : List Byte) : State :=
  let c := plAt pl 40 1
  let m := plAt pl 41 1
  let neigh : Tab (BitVec 32) := (List.range 6).foldl (fun t i => t.put 0 i (BitVec.ofNat 32 (plAt pl (8 + 4 * i) 4 &&& 0x8003FFFF))) []
  let remap : Tab (BitVec 64) := (List.range m).foldl (fun t i => t.put 0 i (remapMask (plAt pl (48 + 32 * c + 8 * i) 8))) []
  let cgs : Tab (BitVec 256) := (placeCgs pl c).zipIdx.foldl (fun t x => t.put 0 x.2 x.1)
    ((s.torus.cgs.filter (fun x => decide (x.1 ≥ c))).map (fun x => (x.1, x.2 &&& ~~~1#256)))
  let t := { s.torus with
    coord := BitVec.ofNat 32 (plAt pl 0 4 &&& 0x003F0FFF), shape := BitVec.ofNat 32 (plAt pl 4 4 &&& 0x003F7FFF), neigh := neigh,
    remap := remap, remapShadow := remap, cgs := cgs, embCfg := BitVec.ofNat 7 (plAt pl 35 1 &&& 0x77), placed := true,
    refused := false }
  let t := (List.range 24).foldl (fun (t : Torus) p => t.setPort p (fun x => x.placed (t.nbValid (p % 6)))) t
  let c := { s.clk with kids := [], kidDone := [], kidNext := [], podSkew := if (List.range 6).any t.interPod then s.clk.podSkew else 0x80000000, downNs := BitVec.ofNat 16 (plAt pl 38 2), cwNs := BitVec.ofNat 16 (plAt pl 36 2) }
  let s := ({ s with torus := t, clk := c }).setTree (plAt pl 32 1) (plAt pl 33 1) (plAt pl 34 1)
  (s.setLock (if s.clk.role.isRoot then s.rootLock else .acquire)).tryClose

/-- R336, R338, R483: PLACE: BUSY, with PL_STAT.REFUSED, while a script is launched; BAD_FIELD when a field is invalid; else the
whole placement takes effect. -/
def execPlace (tag : BitVec 16) (pl : List Byte) (s : State) : Host.Outcome State Fault Refusal :=
  .next (s.request 0x02 48 tag pl (fun s =>
    let c := plAt pl 40 1
    let m := plAt pl 41 1
    if s.launched || s.edge.ends.any (fun x => x.2.state == .training) then
      ({ s with torus := { s.torus with refused := true } }).respond 0x02 msBusy tag []
    else if c > 64 || m > 16 || pl.length < 48 + 32 * c + 8 * m || !(treeOk (plAt pl 32 1) (plAt pl 33 1) (plAt pl 34 1)) ||
        (placeCgs pl c).any (fun e => cgValid e && !(cgOk e)) then
      s.respond 0x02 msBadField tag []
    else (s.applyPlace pl).respond 0x02 msOk tag []))

end Sys2Proof.Machine
end

