-- ==== Sys2Proof/Machine/Strokes.lean ====
section
/-! DEFINITION. The start of a stroke (02_strokes_and_time.md R48–R51, R57, R59) and everything that takes effect at the boundary before it:
samples and histograms (R413), step close and STOP (R132, R272), controls (R141, R142), replay's end (R429), hold and resume (R435), the
power controller's choice (R387–R391), commits (R335), ports that return (R342) and self-test passes (R461). -/

namespace Sys2Proof.Machine

/-! ### What the stroke that ends leaves -/

/-- R413: SLACK of the stroke that ends, and REPLAY of each LIVE port. -/
def State.sampleEnd (s : State) : State :=
  let used := s.clk.cwNs.toNat + s.clk.doneNs.toNat
  let s := s.onDp (fun e => sample e 1 10 pmcUid (stretched s.clk.period.toNat s.clk.k.toNat - used))
  let live := (List.range 24).filter (fun p => (s.torus.port p).state == .live)
  let s := live.foldl (fun (s : State) p => s.onDp (fun e => sample e 5 0 (portUid p) (s.torus.port p).replayed)) s
  { s with torus := { s.torus with ports := s.torus.ports.map (fun (x : Nat × Port) => (x.1, { x.2 with replayed := 0 })) } }

/-- R413: SHIFT of a quantity. -/
def qtyShift : Nat → Nat
  | 0 => 6 | 1 => 10 | 2 => 0 | 3 => 10 | 4 => 6 | _ => 0

/-- R413: the HIST and EXTREME records of one quantity with samples, which is then cleared. -/
def State.histRecords (s : State) (q : Nat) : State :=
  let h := s.dp.log.hist.get {} q
  if h.samples = 0 then s
  else
    let s := s.note pmcUid 0x38 ([(24, q), (25, qtyShift q)] ++ (List.range 16).map (fun i => (28 + 2 * i, (h.bins.get 0 i).toNat)))
    let s := s.note pmcUid 0x39 [(24, q), (28, h.max.toNat), (36, h.maxStroke.toNat), (44, h.maxUnit.toNat), (48, h.samples.toNat),
      (52, h.sum.toNat)]
    { s with dp := { s.dp with log := { s.dp.log with hist := s.dp.log.hist.put {} q {} } } }

/-- R413: at the end of every HPERIOD-th stroke the histograms are written. -/
def State.histEnd (s : State) : State :=
  let h := s.dp.log.hperiod.toNat
  if h = 0 || s.clk.stroke.toNat % h != 0 then s else [0, 1, 2, 3, 4, 5].foldl State.histRecords s

/-- R429, R430: a replayed stroke has closed: its fault is recovered. -/
def State.replayEnd (s : State) : State :=
  if !s.dp.fr.replay then s
  else
    let s := (s.onDp (fun e => completeRecov e 1)).onDp (fun e => completeRecov e 2)
    { s with dp := { s.dp with fr := { s.dp.fr with replay := false } } }

/-- R277: the vote values of the stroke reach the gates. -/
def State.latchGates (s : State) : State :=
  { s with dp := [0, 1, 2, 3].foldl (fun (d : Dp) p => d.setPart p Part.latchGate) s.dp }

/-- R132: a STOP with MODE 1 ends the launch at the boundary; during a hold it waits for the resume stroke. -/
def State.stopNow (s : State) (p : Nat) : State :=
  match (s.getPartn p).launch with
  | none => s
  | some l => if !s.dp.fr.hold && l.stops.any (fun x => x.mode1) then s.endLaunch p stStopped 0 true true else s

/-- R461, R464: a pass ends with its stroke: the region is re-initialised, retained and no longer isolated. -/
def State.passesEnd (s : State) : State :=
  let ended := fun (t : Test) => t.powered && t.underLaunch && s.testLaunched t.unit
  let l := s.st.tests.filter ended
  let s := { s with dp := l.foldl (fun (d : Dp) (t : Test) => d.reinit t.unit) s.dp }
  s.setTests { s.st with tests := s.st.tests.map (fun t => if ended t then { t with powered := false } else t) }

/-! ### What the stroke that begins takes over -/

/-- R131, R147: a launch begins at S+0 of stroke START; a running one moves to its next entry. -/
def State.stepLaunch (s : State) (n p : Nat) : State :=
  match (s.getPartn p).launch with
  | none => s
  | some l =>
    if !l.began then
      (if l.start = 0 || decide (l.start.toNat ≤ n) then s.setPartn p (fun x => { x with launch := some { l with began := true, entry := 0 } })
       else s)
    else
      match s.imageOf l with
      | none => s
      | some g => s.setPartn p (fun x => { x with launch := some { l with entry := g.nextEntry l.entry, closed := false } })

/-- R131, R435: the launches at the boundary: held, moved on in a rollback, or at their next entries. -/
def State.stepLaunches (s : State) (n : Nat) : State :=
  if s.dp.fr.pendHold then s.beginHold
  else if s.dp.fr.hold then s.recoverMove
  else [0, 1, 2, 3].foldl (fun (s : State) p => s.stepLaunch n p) s

/-- R342: ports whose training has succeeded return to LIVE, the rotation of their planes ends, and what waits for them is routed
again. -/
def State.portsReturn (s : State) : State :=
  let back := (List.range 24).filter (fun p => (s.torus.port p).ready)
  if back.isEmpty then s
  else
    (back.foldl (fun (s : State) p =>
      let s := (s.setPort p (fun x => { x with state := .live, ready := false })).note (portUid p) 0x31 [(24, p)]
      ({ s with torus := { s.torus with rot := s.torus.rot.put 0 p 0 } }).pumpPort p) s).releaseWaiting

/-- R46, R50, R54, R57, R59: stroke number, T, P and k of the go marker; CLOSE_WIN of a request whose stroke has come; STRETCH counts. -/
def Clk.begin (c : Clk) (m : BitVec 128) : Clk :=
  let n := if c.joined then c.stroke + 1 else BitVec.ofNat 64 (goStroke m)
  let due := match c.req with
    | some r => if r.stroke.toNat ≤ n.toNat then some r else none
    | none => none
  { c with stroke := n, sstart := goT m, k := BitVec.ofNat 6 (goK m), period := BitVec.ofNat 12 (goPeriod m), joined := true,
           downNs := (due.map (·.down)).getD c.downNs, cwNs := (due.map (·.cw)).getD c.cwNs, req := if due.isSome then none else c.req,
           stretchCnt := if goK m = 0 then c.stretchCnt else satAdd c.stretchCnt 1, kidDone := c.kidNext, kidNext := [], own := 0, doneNs := 0, sent := none,
           go := none, reqK := 0 }

/-- R276: the blot flags at S+0. -/
def State.blotStart (s : State) : State :=
  { s with dp := [0, 1, 2, 3].foldl (fun (d : Dp) p => d.setPart p (fun q => { q with
      blotS0 := q.blot, strokeSrc := 0, strokeUnit := 0, voteIn := none })) s.dp }

/-- The regions a service stroke names (R158). -/
def State.servicedNow (s : State) : List Nat :=
  (List.range 64).filter (fun r => match s.partOfDie (r / 16) with
    | some p => s.serviced p r
    | none => false)

/-- R159, R407: GATE and WAKE records of regions that a service stroke takes out of work, or gives back. -/
def State.serviceRecords (s : State) (was : List Nat) : State :=
  let now := s.servicedNow
  let s := (now.filter (fun r => !(was.contains r))).foldl (fun (s : State) r => s.note (regionUid r) 0x15 [(24, 2)]) s
  (was.filter (fun r => !(now.contains r))).foldl (fun (s : State) r => s.note (regionUid r) 0x16 [(24, 2)]) s

/-- What the boundary does before the stroke number changes. -/
def State.endStroke (s : State) (t : Nat) : State :=
  let s := (s.settlePower t).latchGates.sampleEnd
  let s := [0, 1, 2, 3].foldl (fun (s : State) p => if s.atStepEnd p then s.closeStep p else s) s
  let s := [0, 1, 2, 3].foldl State.stopNow s
  s.replayEnd.histEnd.passesEnd

/-- R59: the STRETCH record when k changes. -/
def State.stretchRecord (s : State) (was : Nat) : State :=
  if s.clk.k.toNat = was then s else s.note pmcUid 0x11 [(24, was), (25, s.clk.k.toNat)]

/-- What the boundary does with the stroke number of the stroke that begins. -/
def State.newStroke (s : State) (m : BitVec 128) : State :=
  let k := s.clk.k.toNat
  let served := s.servicedNow
  let s := ({ s with clk := s.clk.begin m }).stretchRecord k
  let s := s.queueCtls.engineCtls
  let s := s.bankSwap.portsReturn
  let s := s.stepLaunches s.clk.stroke.toNat
  let s := [0, 1, 2, 3].foldl State.stopNow s
  (s.serviceRecords served).powerTests.blotStart.beginPower.startUnits.carryCauses

/-- R48, R50, R51: stroke n + 1 starts on this package. -/
def State.startStroke (s : State) (m : BitVec 128) : State :=
  let s := s.advance (goT m).toNat
  let s := if s.clk.joined then s.endStroke s.clk.tb.toNat else s
  (s.newStroke m).tryClose

/-- R50, R379, R397, R430, R474: the time base reaches T of the go marker scheduled; a package that is fenced, tripped or still voiding
starts no stroke, nor does one in Cold (R39). -/
def execStrokeStart (s : State) : Host.Outcome State Fault Refusal :=
  .next (match s.clk.go with
    | none => s
    | some m => if s.dp.fr.fenced || s.pw.tripped || s.dp.fr.voidHolds || s.bu.dark || s.pw.cold then s else s.startStroke m)

end Sys2Proof.Machine
end

