-- ==== Sys2Proof/Machine/Tfe.lean ====
section
/-! DEFINITION. Meanings of the transpose-and-format engine's instructions (09_slant_dma_and_format_engine.md R233–R242). -/

namespace Sys2Proof.Machine

/-- Identifier of the TFE of cluster `c`. -/
def tfeUid (c : Nat) : Nat := cuid c 2 0

/-- R235: the operand addresses. -/
structure TfeAddr where
  src : Nat
  ssp : Bool
  sp : Nat
  dst : Nat
  dsp : Bool
  dp : Nat

def tfeAddr (w : BitVec 256) : TfeAddr :=
  { src := bits w 64 22, ssp := bit w 86, sp := bits w 96 16, dst := bits w 128 22, dsp := bit w 150, dp := bits w 160 16 }

/-- R235: reserved bits and alignment of the operand addresses. -/
def tfeAddrOk (w : BitVec 256) : Bool := !(anyBits w 87 9) && !(anyBits w 112 16) && !(anyBits w 128 6) && !(anyBits w 151 9)

/-- R235: IDX's fields are valid. -/
def tfeIdxValid (w : BitVec 256) : Bool := !(anyBits w 8 56) && !(anyBits w 126 2) && !(anyBits w 224 32)

/-- R235: IDX loads E0, ES and TID. -/
def runTfeIdx (c : Nat) (w : BitVec 256) (_ : Env) (d : Dp) : Dp :=
  { d with idx := d.idx.put {} c { e0 := w.extractLsb' 64 64, es := w.extractLsb' 128 64, tid := w.extractLsb' 192 32 } }

def execTfeIdx (c : Fin 512) (w : BitVec 256) (s : State) : Host.Outcome State Fault Refusal :=
  .next (s.runDp (tfeUid c.val) 0x13 w.toNat (tfeIdxValid w) (runTfeIdx c.val w))

/-! ### TRANS (R236) -/

/-- R236: TRANS's fields are valid. -/
def transValid (w : BitVec 256) : Bool :=
  let ew := 2 ^ bits w 8 2
  decide (bits w 8 2 < 3) && !(anyBits w 10 6) && !(anyBits w 28 4) && !(anyBits w 44 20) && tfeAddrOk w && !(anyBits w 176 80) &&
    bits w 64 22 % ew == 0 && decide (ceilDiv ((bits w 16 12 + 1) * ew) 64 ≤ bits w 160 16)

/-- R236: transpose R × C elements bit for bit; destination rows are whole lines; TF_TLINES counts the lines written. -/
def runTrans (c : Nat) (w : BitVec 256) (e : Env) (d : Dp) : Dp :=
  let x := tfeAddr w
  let ew := 2 ^ bits w 8 2
  let nr := bits w 16 12 + 1
  let nc := bits w 32 12 + 1
  let u := tfeUid c
  match clRuns e u c x.ssp ((List.range nr).map (fun r => (x.src + r * x.sp * 64, nc * ew))) d with
  | (none, d) => d
  | (some rows, d) =>
    let nl := ceilDiv (nr * ew) 64
    (List.range nc).foldl (fun d k =>
      let col := packElems (8 * ew) (rows.map (fun v => elemOf (8 * ew) v k))
      let wr := clPut e u c x.dsp (x.dst + k * x.dp * 64) (64 * nl) col d
      wr.2.perf u 0x18 (wr.1.countP id)) d

def execTrans (c : Fin 512) (w : BitVec 256) (s : State) : Host.Outcome State Fault Refusal :=
  .next (s.runDp (tfeUid c.val) 0x10 w.toNat (transValid w) (runTrans c.val w))

/-! ### CONV and QMX (R237–R240) -/

/-- A converted element: its encoding and counts, and whether it is a NaN, an infinity or of a NaN block (R240). -/
structure OutEl where
  conv : Conv
  bad : Bool

/-- Write one row of `n` lines of elements and count those of which a line was performed (R215, R241). Answers whether one that GRAD
looks for was written. -/
def putElems (e : Env) (u c : Nat) (acc : Bool) (off width n : Nat) (els : List OutEl) (d : Dp) : Bool × Dp :=
  let wr := clPut e u c acc off (64 * n) (packElems width (els.map (fun x => x.conv.bits))) d
  let done := (els.zipIdx).filter (fun y => wr.1.getD (y.2 * width / 512) false || wr.1.getD ((y.2 * width + width - 1) / 512) false)
  let nanw := (done.filter (fun y => y.1.conv.nanw)).length
  let ovfw := (done.filter (fun y => y.1.conv.ovfw)).length
  (done.any (fun y => y.1.bad), wr.2.sticky u (fun x => { x with nanw := satAdd x.nanw nanw, ovfw := satAdd x.ovfw ovfw }))

/-- The source elements of row `r`, as values. -/
def srcRow (e : Env) (u c : Nat) (x : TfeAddr) (f : Fmt) (nc r : Nat) (d : Dp) : Option (List Fp) × Dp :=
  match clBytes e u c x.ssp (x.src + r * x.sp * 64) (ceilDiv (nc * f.width) 8) d with
  | (none, d) => (none, d)
  | (some v, d) => (some ((elemsFrom f.width v nc 0).map f.decode), d)

/-- R235: the random word of row `r`, column `k`. -/
def tfeWord (e : Env) (c r k : Nat) (d : Dp) : Nat :=
  let x := d.idx.get {} c
  e.word (tfeUid c) (x.e0.toNat + r * x.es.toNat + k) x.tid.toNat d

/-- Rows from `r` on, `n` of them: read, converted by `f` (TF_FELEMS counts their elements), written; the blot flag rises at the end when GRAD asks. -/
def convRows (e : Env) (c : Nat) (x : TfeAddr) (sf df : Fmt) (nc : Nat) (f : Nat → List Fp → Dp → List OutEl × Dp) :
    Nat → Nat → Bool → Dp → Bool × Dp
  | 0, _, bad, d => (bad, d)
  | n + 1, r, bad, d =>
    match srcRow e (tfeUid c) c x sf nc r d with
    | (none, d) => (bad, d)
    | (some l, d) =>
      let els := f r l d
      let wr := putElems e (tfeUid c) c x.dsp (x.dst + r * x.dp * 64) df.width (ceilDiv (nc * df.width) 512) els.1 els.2
      convRows e c x sf df nc f n (r + 1) (bad || wr.1) (wr.2.perf (tfeUid c) 0x1C nc)

/-- R240: raise the blot flag when a GRAD instruction wrote what it looks for. -/
def convEnd (e : Env) (c : Nat) (grad : Bool) (r : Bool × Dp) : Dp :=
  if grad && r.1 then raiseBlot e (tfeUid c) 1 r.2 else r.2

/-- R237: the source and destination formats of CONV. -/
def convSrc (n : Nat) : Option Fmt := if n ≤ 3 || n = 7 || n = 9 || n = 10 then Fmt.ofCode n else none
def convDst (n : Nat) : Option Fmt := if n ≤ 3 || (7 ≤ n && n ≤ 10) then Fmt.ofCode n else none

/-- R205, R210: CVC is valid for a target. -/
def cvcFor (n : Nat) (f : Fmt) : Option Cvc :=
  match Cvc.ofBits n with
  | none => none
  | some c => if f.isInt && c.rnd = .sr then none else some c

/-- R237: CONV's fields are valid. -/
def convValid (w : BitVec 256) : Bool :=
  match convSrc (bits w 8 4), convDst (bits w 12 4) with
  | some sf, some df =>
    (cvcFor (bits w 16 4) df).isSome && !(anyBits w 21 3) && !(anyBits w 44 4) && !(anyBits w 60 4) && tfeAddrOk w && !(anyBits w 176 80) &&
      !(anyBits w 64 6) && decide (ceilDiv ((bits w 48 12 + 1) * df.width) 512 ≤ bits w 160 16) &&
      (bits w 24 8 == 0 || !(sf.isInt || df.isInt))
  | _, _ => false

/-- A converted value with what GRAD looks for. -/
def outEl (f : Fmt) (r : Conv) : OutEl := ⟨r, (f.decode r.bits).nonFinite⟩

/-- R237: convert R × C elements. -/
def runConv (c : Nat) (w : BitVec 256) (e : Env) (d : Dp) : Dp :=
  match convSrc (bits w 8 4), convDst (bits w 12 4) with
  | some sf, some df =>
    match cvcFor (bits w 16 4) df with
    | none => d
    | some cv =>
      let nr := bits w 32 12 + 1
      let nc := bits w 48 12 + 1
      let row := fun (r : Nat) (l : List Fp) (d : Dp) =>
        ((l.zipIdx).map (fun y => outEl df (df.conv cv (if cv.rnd = .sr then tfeWord e c r y.2 d else 0) (y.1.scale (sbits w 24 8)))), d)
      convEnd e c (bit w 20) (convRows e c (tfeAddr w) sf df nc row nr 0 false d)
  | _, _ => d

def execConv (c : Fin 512) (w : BitVec 256) (s : State) : Host.Outcome State Fault Refusal :=
  .next (s.runDp (tfeUid c.val) 0x11 w.toNat (convValid w) (runConv c.val w))

/-- R239: the exponent of the largest binade of an MX format, and its largest value as m × 2^e. -/
def mxTop : Fmt → Int × Nat × Int
  | .e2m1 => (2, 6, 0)
  | .e2m3 => (2, 15, -1)
  | _ => (4, 28, 0)

/-- m × 2^e ≤ n × 2^f. -/
def leScaled (m : Nat) (e : Int) (n : Nat) (f : Int) : Bool :=
  let q := min e f
  decide (m <<< (e - q).toNat ≤ n <<< (f - q).toNat)

/-- The greater of two magnitudes. -/
def maxMag (a b : Nat × Int) : Nat × Int := if leScaled a.1 a.2 b.1 b.2 then b else a

/-- R239: the scale X of a block whose largest magnitude is m × 2^e. -/
def mxScale (f : Fmt) (fit : Bool) (m : Nat) (e : Int) : Nat :=
  if m = 0 then 0
  else
    let t := mxTop f
    let l : Int := Int.ofNat (Nat.log2 m) + e
    let x := l - t.1 + 127
    let y := if fit then (if leScaled m (e + 127 - x) t.2.1 t.2.2 then x else x + 1) else x
    if y < 0 then 0 else if y > 254 then 254 else y.toNat

/-- R208, R209, R239: one block of 32 values from column `k` on: its scale and its elements. -/
def mxBlock (f : Fmt) (cv : Cvc) (fit : Bool) (word : Nat → Nat) (k : Nat) (l : List Fp) : Nat × List OutEl :=
  if l.any Fp.nonFinite then (255, l.map (fun _ => ⟨{ bits := 0, nanw := true }, true⟩))
  else
    let top := l.foldl (fun a v => match v with
      | .fin _ m e => maxMag a (m, e)
      | _ => a) (0, 0)
    let x := mxScale f fit top.1 top.2
    (x, (l.zipIdx).map (fun y => ⟨f.conv cv (if cv.rnd = .sr then word (k + y.2) else 0) (y.1.scale (127 - Int.ofNat x)), false⟩))

/-- R238: the formats of QMX. -/
def qmxSrc (n : Nat) : Option Fmt := if n = 0 || n = 1 || n = 7 then Fmt.ofCode n else none
def qmxDst (n : Nat) : Option Fmt := if 4 ≤ n && n ≤ 6 then Fmt.ofCode n else none

/-- R238: QMX's fields are valid. -/
def qmxValid (w : BitVec 256) : Bool :=
  match qmxSrc (bits w 8 4), qmxDst (bits w 12 4) with
  | some _, some df =>
    let nc := bits w 48 12 + 1
    (Cvc.ofBits (bits w 16 4)).isSome && decide (bits w 21 2 ≤ 1) && !(anyBits w 23 9) && !(anyBits w 44 4) && !(anyBits w 60 4) &&
      tfeAddrOk w && !(anyBits w 176 16) && !(anyBits w 192 3) && !(anyBits w 214 10) && !(anyBits w 240 16) && !(anyBits w 64 6) &&
      decide (ceilDiv (nc * df.width) 512 ≤ bits w 160 16) && nc % 32 == 0 && bits w 224 16 % 8 == 0 &&
      decide (8 * ceilDiv nc 256 ≤ bits w 224 16)
  | _, _ => false

/-- R238: quantise R rows into an MX format with their scales. -/
def runQmx (c : Nat) (w : BitVec 256) (e : Env) (d : Dp) : Dp :=
  match qmxSrc (bits w 8 4), qmxDst (bits w 12 4), Cvc.ofBits (bits w 16 4) with
  | some sf, some df, some cv =>
    let nr := bits w 32 12 + 1
    let nc := bits w 48 12 + 1
    let row := fun (r : Nat) (l : List Fp) (d : Dp) =>
      let bl := (List.range (nc / 32)).map (fun j =>
        mxBlock df cv (bits w 21 2 = 1) (fun k => tfeWord e c r k d) (32 * j) ((l.drop (32 * j)).take 32))
      let wr := clPut e (tfeUid c) c false (bits w 192 22 + r * bits w 224 16) (8 * ceilDiv (nc / 32) 8) (packElems 8 (bl.map (·.1))) d
      (bl.flatMap (·.2), wr.2)
    convEnd e c (bit w 20) (convRows e c (tfeAddr w) sf df nc row nr 0 false d)
  | _, _, _ => d

def execQmx (c : Fin 512) (w : BitVec 256) (s : State) : Host.Outcome State Fault Refusal :=
  .next (s.runDp (tfeUid c.val) 0x12 w.toNat (qmxValid w) (runQmx c.val w))

end Sys2Proof.Machine
end

