-- ==== Sys2Proof/Machine/Time.lean ====
section
/-! DEFINITION. Meanings of the time-base and stroke-marker commands (02_strokes_and_time.md; TIME, DONE and GO symbols of R325). -/

namespace Sys2Proof.Machine

/-- R34, R450, R478, R485: the reference is stable: the time base starts counting from 0 (one that runs already runs on, and REF_OK
waits for a package reset), the firmware check ends if it has not, and bring-up goes on as far as PWR_EN lets it. A dark package
does nothing. -/
def execTimeBaseStart (s : State) : Host.Outcome State Fault Refusal :=
  .next (if s.bu.dark then s
    else
      let s := { s with bu := { s.bu with refIn := true, refOk := s.bu.refOk || !s.clk.running } }
      let s := if s.clk.running then s else { s with clk := { s.clk with running := true, tb := 0 } }
      (if s.bu.booted || s.edge.defect then s else s.bootFirmware).raiseRails)

/-- R36: a 64-bit read returns both halves; a 32-bit read latches the upper half into TB_HI. -/
def execTbLoRead (wide : Bool) (s : State) : Host.Outcome State Fault Refusal :=
  .next (if wide then { s with out := { s.out with rdata := s.clk.tb } }
    else { s with out := { s.out with rdata := s.clk.tb &&& 0xFFFFFFFF#64 },
                  hp := { s.hp with latch := s.hp.latch.put 0 0x1000 (s.clk.tb.extractLsb' 32 32) } })

/-- R325: a port that carries symbols sends a TIME symbol ahead of data in its next flit. -/
def execTimeSymbolSend (p : Fin 24) (s : State) : Host.Outcome State Fault Refusal :=
  let x := s.torus.port p.val
  .next (if s.torus.carries p.val && decide (x.unacked.length < 255) then
      let hold := if x.marked then (s.clk.tb - x.markAt).toNat * 1000 else 0
      let sym := mkSymbol 1 [(16, s.clk.tb.toNat), (24, x.markTx.toNat), (32, hold % 2 ^ 32)]
      let l := s.torus.link p.val
      s.setPort p.val (fun x => x.sendFlit l (some sym))
    else s)

/-- R36: the phase error to the far end, ps: its time plus half the round trip less this package's time. -/
def phaseError (tb txT echoT : BitVec 64) (holdPs asym : BitVec 32) : Int :=
  let trip : Int := (Int.ofNat tb.toNat - Int.ofNat echoT.toNat) * 1000 - Int.ofNat holdPs.toNat
  (Int.ofNat txT.toNat - Int.ofNat tb.toNat) * 1000 + trip / 2 + asym.toInt

/-- R37: a phase error within the bound of LOCKED, ps. -/
def inBound (err : Int) : Bool := decide (err.natAbs ≤ 200)

/-- R37: the lock after a mark with phase error `err`; the first LOCKED is the acquisition of R35. -/
def State.lockAt (s : State) (err : Int) : State :=
  if inBound err then { s with clk := { s.clk with acquired := true } }.setLock .locked else s.setLock .acquire

/-- R35: the one step of the time base, by the whole nanoseconds nearest the phase error. -/
def State.stepBase (s : State) (err : Int) : State :=
  { s with clk := { s.clk with tb := BitVec.ofInt 64 (Int.ofNat s.clk.tb.toNat + (err + 500) / 1000), stepped := true,
                               ofs := BitVec.ofInt 32 (max (-(2 ^ 31)) (min (2 ^ 31 - 1) err)) } }

/-- R35: the package may step its time base: it has not yet acquired lock, nor stepped, and no script is launched. -/
def State.mayStep (s : State) : Bool := !s.clk.acquired && !s.clk.stepped && !s.launched

/-- R35, R37: the parent's mark is taken: within bound the package is LOCKED; at the first acquisition the base may step, and what is
left of the error decides the lock; otherwise the rate is trimmed. -/
def State.takeMark (s : State) (err : Int) : State :=
  match s.clk.lock with
  | .free => s
  | .fault => s.steer err
  | .acquire =>
    if !(inBound err) && s.mayStep then (s.stepBase err).lockAt ((err + 500) % 1000 - 500) else (s.steer err).lockAt err
  | _ => (s.steer err).lockAt err

/-- R35, R40: a root takes a mark of its pod upstream: stepped once to that pod's time at pod join, then only its rate is trimmed. -/
def State.takePodMark (s : State) (err : Int) : State :=
  if s.mayStep then { s.stepBase err with clk := { (s.stepBase err).clk with acquired := true } } else s.steer err

/-- R36, R40: a time mark: kept for the echo; from the parent's port it steers the rate, and on an inter-pod port it is the root's
pod upstream. DESIGN CHOICE (entry 86): every inter-pod neighbour of a root counts as its pod upstream, for no message names one. -/
def execTimeSymbolReceive (p : Fin 24) (txT echoT : BitVec 64) (holdPs : BitVec 32) (s : State) :
    Host.Outcome State Fault Refusal :=
  let x := s.torus.port p.val
  .next (if x.state == .live || x.state == .lock then
      let err := phaseError s.clk.tb txT echoT holdPs x.asym
      let s := s.setPort p.val (fun x => { x with markTx := txT, markAt := s.clk.tb, marked := true })
      if echoT = 0 then s
      else if s.clk.role.isRoot then
        (if s.torus.interPod (p.val % 6) && s.clk.role != .masterRoot then s.takePodMark err else s)
      else if s.clk.upPort.toNat = p.val && s.torus.placed then s.takeMark err
      else s
    else s)

/-- R38: 10 ms in HOLDOVER: FAULT, a time fault, and the package is handled as failed. -/
def execHoldoverTimeout (s : State) : Host.Outcome State Fault Refusal :=
  .next (if s.clk.lock = .holdover then
      let s := (s.advance (s.clk.holdAt.toNat + 10000000)).setLock .fault
      (s.onDp (fun e d => fence (raiseFault e 5 3 pmcUid 0 d))).settleStop
    else s)

/-- R39, R41: the offset of the neighbour pod's time base, from the marks a LIVE or LOCK port carries, published and recorded. -/
def execPodOffsetMeasure (p : Fin 24) (skew : BitVec 32) (s : State) : Host.Outcome State Fault Refusal :=
  .next (if s.torus.interPod (p.val % 6) && s.torus.carries p.val then
      ({ s with clk := { s.clk with podSkew := skew } }).note (portUid p.val) 0x17 [(24, skew.toNat), (28, p.val)]
    else s)

/-- R97, R303: the unit's stream is finished: every instruction of its segment has executed and nothing is outstanding. -/
def State.unitFinished (s : State) (p : PEnv) (u : Nat) : Bool :=
  let x := s.dp.getUnit u
  let bytes := match p.img.streamOf u with
    | some t => (p.img.seg t p.entry).2
    | none => 0
  let flying := (unitKind u == 5 && !(s.dp.cle.get {} (uidDie u)).ops.isEmpty) ||
    (unitKind u == 6 && !(s.dp.upu.get {} (3 * uidDie u + u % 256)).ops.isEmpty)
  x.blocked.isNone && !x.fetchLate && !x.held && !flying && decide (bytes ≤ x.idx * instrBytes u) && !(s.torus.awaits.any (fun a => a.unit == u)) &&
    !(s.torus.later.any (fun a => a.unit == u))

/-- R52, R97: a unit reports done for the stroke; the package's marker goes when all are in. -/
def execUnitDone (u : BitVec 16) (cause : BitVec 6) (s : State) : Host.Outcome State Fault Refusal :=
  .next (match s.env.ofUnit u.toNat with
    | none => s
    | some p =>
      if (s.workersOf p).contains u.toNat && !(s.dp.getUnit u.toNat).done && s.unitFinished p u.toNat then
        let c := (cause ||| (s.dp.getUnit u.toNat).cause).toNat
        let s := s.onDp (fun e d => trace e u.toNat { kind := 2, a0 := (s.clk.tb - s.clk.sstart).toNat }
          (d.setUnit u.toNat (fun x => { x with done := true })))
        (s.enterDone u.toNat c).tryClose
      else s)

/-- R53, R441: a child's done marker. One of the present stroke is merged; one of the next stroke is kept for it, and a new root starts
that stroke; one of the stroke before is answered with the present
stroke's go marker, for a child moved here by a TREE message. -/
def execDoneMarkerReceive (p : Fin 24) (m : BitVec 128) (s : State) : Host.Outcome State Fault Refusal :=
  let dir := p.val % 6
  .next (if !s.torus.nbValid dir || s.torus.interPod dir then s
    else
      let s := { s with clk := { s.clk with kids := NSet.add s.clk.kids dir } }
      if doneStroke m = s.clk.stroke.toNat % 2 ^ 40 then
        ({ s with clk := { s.clk with kidDone := s.clk.kidDone.put 0 dir m } }).tryClose
      else if doneStroke m = (s.clk.stroke.toNat + 1) % 2 ^ 40 then
        ({ s with clk := { s.clk with kidNext := s.clk.kidNext.put 0 dir m } }).catchUp
      else if doneStroke m + 1 = s.clk.stroke.toNat % 2 ^ 40 then
        s.symbolTo dir (mkSymbol 3 [(16, (mkGo s.clk.sstart.toNat s.clk.stroke.toNat s.clk.k.toNat s.clk.period.toNat).toNat)])
      else s)

/-- R54, R55: a go marker: ignored when its stroke has started or is scheduled, retried by the link when it is corrupt, else
forwarded and scheduled. -/
def execGoMarkerReceive (p : Fin 24) (m : BitVec 128) (s : State) : Host.Outcome State Fault Refusal :=
  .next (if s.clk.role.isRoot || !s.torus.placed || s.torus.interPod (p.val % 6) then s
    else if goOld s.clk m then s
    else if goBad s.clk m then s.setPort p.val (fun x => { x with nakOwed := true })
    else if s.clk.go.isSome then s
    else s.acceptGo m)

end Sys2Proof.Machine
end

