-- ==== Sys2Proof/Machine/Units.lean ====
section
/-! DEFINITION. Meanings of the instructions and events every stream-running unit shares (07_matrix_array.md R177–R183; R98, R152,
R219–R221, R250, R252, R294, R349). -/

namespace Sys2Proof.Machine

/-- R152: a segment fetch completes: a late one lets the unit start its segment; else the next entry's segment is in the buffer. -/
def execSegmentFetchDone (u : BitVec 16) (s : State) : Host.Outcome State Fault Refusal :=
  .next (if isStreamUnit u.toNat then
      { s with dp := s.dp.setUnit u.toNat (fun x => if x.fetchLate then { x with fetchLate := false } else { x with fetched := true }) }
    else s)

/-- R177: NOP has no effect; a reserved opcode or a reserved bit makes the word invalid (R179). -/
def execNop (u : BitVec 16) (w : BitVec 512) (s : State) : Host.Outcome State Fault Refusal :=
  .next (s.runUnit u.toNat 0 w.toNat (bits w 0 (8 * instrBytes u.toNat) == 0) (fun s => s))

/-- R181: WAIT's fields are valid; a die unit has no WAIT (R294, R349). -/
def waitValid (u : Nat) (w : BitVec 512) : Bool :=
  decide (unitKind u < 5) && !(anyBits w 12 4) && bits w 16 16 != 0 && !(anyBits w 32 (8 * instrBytes u - 32))

/-- R181: WAIT takes COUNT from counter CTR, or blocks the unit until it holds that. -/
def execWait (u : BitVec 16) (w : BitVec 512) (s : State) : Host.Outcome State Fault Refusal :=
  .next (s.runDp u.toNat 0x01 w.toNat (waitValid u.toNat w) (fun e => waitCredit e u.toNat (bits w 8 4) (bits w 16 16)))

/-- R180: a credit of unit `src` arrives at a counter; it saturates, and may satisfy a blocked WAIT. -/
def execCreditArrival (u : BitVec 16) (ctr : Fin 16) (n : BitVec 16) (src : BitVec 16) (s : State) :
    Host.Outcome State Fault Refusal :=
  .next (if isClusterUnit u.toNat && isStreamUnit src.toNat then s.onDp (fun e => addCredit e u.toNat ctr.val n.toNat src.toNat 0) else s)

/-- R182, R221: POST's fields are valid. -/
def postValid (u : Nat) (w : BitVec 512) : Bool :=
  decide (unitKind u < 5) && !(bit w 15) && decide (bits w 12 3 ≤ 4) && bits w 16 16 != 0 &&
    (bits w 12 3 == 3 || bits w 32 3 == 0) && !(anyBits w 35 (8 * instrBytes u - 35))

/-- R182, R221: POST adds COUNT to a counter of a unit of the same cluster once the unit's earlier work is performed. -/
def execPost (u : BitVec 16) (w : BitVec 512) (s : State) : Host.Outcome State Fault Refusal :=
  .next (s.runUnit u.toNat 0x02 w.toNat (postValid u.toNat w) (fun s =>
    s.whenAcked u.toNat (.credit (cuid (uidCluster u.toNat) (bits w 12 3) (bits w 32 3)) (bits w 8 4) (bits w 16 16))))

/-- R303, R349: unit `u` has an operation in flight whose writes are not all performed: one of a Blotter, or one of the script on a Flue. -/
def Dp.working (u : Nat) (d : Dp) : Bool :=
  (unitKind u == 6 && !(d.upu.get {} (3 * uidDie u + u % 256)).ops.isEmpty) ||
    (unitKind u == 5 && (d.cle.get {} (uidDie u)).ops.any (fun o => o.host.isNone))

/-- R98, R183, R221: FENCE: it waits while an earlier operation is in flight; every other write inside the package is performed when its
instruction has run; scopes POD and HOST wait for the unit's outstanding acknowledgements. -/
def execFence (u : BitVec 16) (w : BitVec 512) (s : State) : Host.Outcome State Fault Refusal :=
  let valid := !(anyBits w 10 (8 * instrBytes u.toNat - 10))
  .next (if s.dp.runs s.env u.toNat 0x03 w.toNat && valid && !(s.dp.atFragment s.env u.toNat) && s.dp.working u.toNat then s
  else s.runUnit u.toNat 0x03 w.toNat valid (fun s =>
    if bits w 8 2 < 2 || (s.awaitsOf u.toNat).isEmpty then s
    else ({ s with dp := s.dp.setUnit u.toNat (fun x => { x with held := true }) }).whenAcked u.toNat .release))

end Sys2Proof.Machine
end

