-- ==== Sys2Proof/Machine/Dispatch.lean ====
section
/-! DEFINITION. One arm per command: each a direct call of its meaning. -/

namespace Sys2Proof.Machine

def exec (i : Instr) (s : State) : Host.Outcome State Fault Refusal :=
  match i with
  | .timeBaseStart => Sys2Proof.Machine.execTimeBaseStart s
  | .tbLoRead wide => Sys2Proof.Machine.execTbLoRead wide s
  | .readClearRegister a => Sys2Proof.Machine.execReadClearRegister a s
  | .registerWrite off v => Sys2Proof.Machine.execRegisterWrite off v s
  | .timeSymbolSend p => Sys2Proof.Machine.execTimeSymbolSend p s
  | .timeSymbolReceive p txT echoT holdPs => Sys2Proof.Machine.execTimeSymbolReceive p txT echoT holdPs s
  | .holdoverTimeout => Sys2Proof.Machine.execHoldoverTimeout s
  | .podOffsetMeasure p skew => Sys2Proof.Machine.execPodOffsetMeasure p skew s
  | .unitDone u cause => Sys2Proof.Machine.execUnitDone u cause s
  | .doneMarkerReceive p m => Sys2Proof.Machine.execDoneMarkerReceive p m s
  | .goMarkerReceive p m => Sys2Proof.Machine.execGoMarkerReceive p m s
  | .strokeStart => Sys2Proof.Machine.execStrokeStart s
  | .strokeCfg tag pl => Sys2Proof.Machine.execStrokeCfg tag pl s
  | .hostMemRead a => Sys2Proof.Machine.execHostMemRead a s
  | .hostMemWrite a v be => Sys2Proof.Machine.execHostMemWrite a v be s
  | .hdmCommit skip size => Sys2Proof.Machine.execHdmCommit skip size s
  | .addWrite u fmt a v => Sys2Proof.Machine.execAddWrite u fmt a v s
  | .patrolRead j o f => Sys2Proof.Machine.execPatrolRead j o f s
  | .doorbellSnoop q st => Sys2Proof.Machine.execDoorbellSnoop q st s
  | .doorbellPoll st => Sys2Proof.Machine.execDoorbellPoll st s
  | .descriptorFetch q => Sys2Proof.Machine.execDescriptorFetch q s
  | .nopDescriptor q seq => Sys2Proof.Machine.execNopDescriptor q seq s
  | .fenceDescriptor q seq => Sys2Proof.Machine.execFenceDescriptor q seq s
  | .barrier q seq => Sys2Proof.Machine.execBarrier q seq s
  | .signal q seq => Sys2Proof.Machine.execSignal q seq s
  | .copyIn q seq => Sys2Proof.Machine.execCopyIn q seq s
  | .copyOut q seq => Sys2Proof.Machine.execCopyOut q seq s
  | .fill q seq => Sys2Proof.Machine.execFill q seq s
  | .loadScript q seq => Sys2Proof.Machine.execLoadScript q seq s
  | .launch q seq => Sys2Proof.Machine.execLaunch q seq s
  | .zeroFillDone p => Sys2Proof.Machine.execZeroFillDone p s
  | .stop q seq => Sys2Proof.Machine.execStop q seq s
  | .cgOpen q seq => Sys2Proof.Machine.execCgOpen q seq s
  | .cgClose q seq => Sys2Proof.Machine.execCgClose q seq s
  | .collective q seq => Sys2Proof.Machine.execCollective q seq s
  | .queueCtl q seq => Sys2Proof.Machine.execQueueCtl q seq s
  | .queueCtlApply => Sys2Proof.Machine.execQueueCtlApply s
  | .engineCtl q seq => Sys2Proof.Machine.execEngineCtl q seq s
  | .engineCtlApply => Sys2Proof.Machine.execEngineCtlApply s
  | .partSet q seq => Sys2Proof.Machine.execPartSet q seq s
  | .wakeLat q seq => Sys2Proof.Machine.execWakeLat q seq s
  | .completionWrite q => Sys2Proof.Machine.execCompletionWrite q s
  | .msixHoldoffExpiry v => Sys2Proof.Machine.execMsixHoldoffExpiry v s
  | .mqresume => Sys2Proof.Machine.execMqresume s
  | .qreset => Sys2Proof.Machine.execQreset s
  | .queueEnable q cfg => Sys2Proof.Machine.execQueueEnable q cfg s
  | .viral => Sys2Proof.Machine.execViral s
  | .hostLinkDownTimeout => Sys2Proof.Machine.execHostLinkDownTimeout s
  | .perstN asserted => Sys2Proof.Machine.execPerstN asserted s
  | .segmentFetchDone u => Sys2Proof.Machine.execSegmentFetchDone u s
  | .nop u w => Sys2Proof.Machine.execNop u w s
  | .wait u w => Sys2Proof.Machine.execWait u w s
  | .creditArrival u ctr n src => Sys2Proof.Machine.execCreditArrival u ctr n src s
  | .post u w => Sys2Proof.Machine.execPost u w s
  | .fence u w => Sys2Proof.Machine.execFence u w s
  | .loadw c w => Sys2Proof.Machine.execLoadw c w s
  | .mma c w => Sys2Proof.Machine.execMma c w s
  | .abcast c w => Sys2Proof.Machine.execAbcast c w s
  | .cntst c w => Sys2Proof.Machine.execCntst c w s
  | .copy c ch w => Sys2Proof.Machine.execCopy c ch w s
  | .skew c ch w => Sys2Proof.Machine.execSkew c ch w s
  | .fillLines c ch w => Sys2Proof.Machine.execFillLines c ch w s
  | .addw c ch w => Sys2Proof.Machine.execAddw c ch w s
  | .put c ch w => Sys2Proof.Machine.execPut c ch w s
  | .putReceive k ch => Sys2Proof.Machine.execPutReceive k ch s
  | .inboundAccess c ch src acc => Sys2Proof.Machine.execInboundAccess c ch src acc s
  | .stalledUnitTimeout u => Sys2Proof.Machine.execStalledUnitTimeout u s
  | .trans c w => Sys2Proof.Machine.execTrans c w s
  | .conv c w => Sys2Proof.Machine.execConv c w s
  | .qmx c w => Sys2Proof.Machine.execQmx c w s
  | .tfeIdx c w => Sys2Proof.Machine.execTfeIdx c w s
  | .setvl c w => Sys2Proof.Machine.execSetvl c w s
  | .setx c w => Sys2Proof.Machine.execSetx c w s
  | .addx c w => Sys2Proof.Machine.execAddx c w s
  | .tveIdx c w => Sys2Proof.Machine.execTveIdx c w s
  | .loop c w => Sys2Proof.Machine.execLoop c w s
  | .ld c w => Sys2Proof.Machine.execLd c w s
  | .st c w => Sys2Proof.Machine.execSt c w s
  | .fop c w => Sys2Proof.Machine.execFop c w s
  | .fun_ c w => Sys2Proof.Machine.execFun_ c w s
  | .cmp c w => Sys2Proof.Machine.execCmp c w s
  | .sel c w => Sys2Proof.Machine.execSel c w s
  | .iop c w => Sys2Proof.Machine.execIop c w s
  | .movi c w => Sys2Proof.Machine.execMovi c w s
  | .cvt c w => Sys2Proof.Machine.execCvt c w s
  | .red c w => Sys2Proof.Machine.execRed c w s
  | .perm c w => Sys2Proof.Machine.execPerm c w s
  | .pfix c w => Sys2Proof.Machine.execPfix c w s
  | .rand c w => Sys2Proof.Machine.execRand c w s
  | .stepClose p => Sys2Proof.Machine.execStepClose p s
  | .prog j w => Sys2Proof.Machine.execProg j w s
  | .cld j w => Sys2Proof.Machine.execCld j w s
  | .args j w => Sys2Proof.Machine.execArgs j w s
  | .upd j w => Sys2Proof.Machine.execUpd j w s
  | .stat j w => Sys2Proof.Machine.execStat j w s
  | .take j w => Sys2Proof.Machine.execTake j w s
  | .open_ j w => Sys2Proof.Machine.execOpen_ j w s
  | .seal j w => Sys2Proof.Machine.execSeal j w s
  | .stagingBlockResident j blk => Sys2Proof.Machine.execStagingBlockResident j blk s
  | .emberReceive k => Sys2Proof.Machine.execEmberReceive k s
  | .tallyReceive k => Sys2Proof.Machine.execTallyReceive k s
  | .flitReceive p fecOk fixed f => Sys2Proof.Machine.execFlitReceive p fecOk fixed f s
  | .nakReceive p ack => Sys2Proof.Machine.execNakReceive p ack s
  | .packetReceive p => Sys2Proof.Machine.execPacketReceive p s
  | .ackReceive k => Sys2Proof.Machine.execAckReceive k s
  | .creditPacketReceive k => Sys2Proof.Machine.execCreditPacketReceive k s
  | .identSend p => Sys2Proof.Machine.execIdentSend p s
  | .identReceive p pod pkg far => Sys2Proof.Machine.execIdentReceive p pod pkg far s
  | .portFail x cond => Sys2Proof.Machine.execPortFail x cond s
  | .portRetrain p r => Sys2Proof.Machine.execPortRetrain p r s
  | .wakeSymbol p => Sys2Proof.Machine.execWakeSymbol p s
  | .coldSymbol p => Sys2Proof.Machine.execColdSymbol p s
  | .place tag pl => Sys2Proof.Machine.execPlace tag pl s
  | .routeWr tag pl => Sys2Proof.Machine.execRouteWr tag pl s
  | .remapWr tag pl => Sys2Proof.Machine.execRemapWr tag pl s
  | .commit tag pl => Sys2Proof.Machine.execCommit tag pl s
  | .routingBankSwap => Sys2Proof.Machine.execRoutingBankSwap s
  | .tree tag pl => Sys2Proof.Machine.execTree tag pl s
  | .ag d w => Sys2Proof.Machine.execAg d w s
  | .rs d w => Sys2Proof.Machine.execRs d w s
  | .bcast d w => Sys2Proof.Machine.execBcast d w s
  | .a2a d w => Sys2Proof.Machine.execA2a d w s
  | .a2av d w => Sys2Proof.Machine.execA2av d w s
  | .a2ar d w => Sys2Proof.Machine.execA2ar d w s
  | .vote d w => Sys2Proof.Machine.execVote d w s
  | .grantPacket d k => Sys2Proof.Machine.execGrantPacket d k s
  | .partPacket d k => Sys2Proof.Machine.execPartPacket d k s
  | .blockPacket d k => Sys2Proof.Machine.execBlockPacket d k s
  | .rowPacket d k => Sys2Proof.Machine.execRowPacket d k s
  | .countsPacket d k => Sys2Proof.Machine.execCountsPacket d k s
  | .basesPacket d k => Sys2Proof.Machine.execBasesPacket d k s
  | .flagPacket d k => Sys2Proof.Machine.execFlagPacket d k s
  | .flueOpComplete d cg oseq => Sys2Proof.Machine.execFlueOpComplete d cg oseq s
  | .edgeSlotReceive a r => Sys2Proof.Machine.execEdgeSlotReceive a r s
  | .edgeTrainingDone p w0 w1 => Sys2Proof.Machine.execEdgeTrainingDone p w0 w1 s
  | .forcedReset => Sys2Proof.Machine.execForcedReset s
  | .dieClockLoss d => Sys2Proof.Machine.execDieClockLoss d s
  | .powerEstimate o => Sys2Proof.Machine.execPowerEstimate o s
  | .coefficientTrim uj => Sys2Proof.Machine.execCoefficientTrim uj s
  | .forecast => Sys2Proof.Machine.execForecast s
  | .droopResponse r below => Sys2Proof.Machine.execDroopResponse r below s
  | .thermalSample tj coolant => Sys2Proof.Machine.execThermalSample tj coolant s
  | .idleGlowEntry p => Sys2Proof.Machine.execIdleGlowEntry p s
  | .idleBankedEntry p => Sys2Proof.Machine.execIdleBankedEntry p s
  | .coldEntry => Sys2Proof.Machine.execColdEntry s
  | .wakeComplete p => Sys2Proof.Machine.execWakeComplete p s
  | .powerCfg tag pl => Sys2Proof.Machine.execPowerCfg tag pl s
  | .rateBucketEnd => Sys2Proof.Machine.execRateBucketEnd s
  | .evHack v => Sys2Proof.Machine.execEvHack v s
  | .evIrqSpacing => Sys2Proof.Machine.execEvIrqSpacing s
  | .trSel v => Sys2Proof.Machine.execTrSel v s
  | .traceFreeze => Sys2Proof.Machine.execTraceFreeze s
  | .traceResume => Sys2Proof.Machine.execTraceResume s
  | .spillPad j => Sys2Proof.Machine.execSpillPad j s
  | .dopen c w => Sys2Proof.Machine.execDopen c w s
  | .dfeed c w => Sys2Proof.Machine.execDfeed c w s
  | .dclose c w => Sys2Proof.Machine.execDclose c w s
  | .replay => Sys2Proof.Machine.execReplay s
  | .recover tag pl => Sys2Proof.Machine.execRecover tag pl s
  | .recovRdReceive k => Sys2Proof.Machine.execRecovRdReceive k s
  | .recovDataReceive k => Sys2Proof.Machine.execRecovDataReceive k s
  | .sealRead tag pl => Sys2Proof.Machine.execSealRead tag pl s
  | .holdRead tag pl => Sys2Proof.Machine.execHoldRead tag pl s
  | .holdAck tag pl => Sys2Proof.Machine.execHoldAck tag pl s
  | .status tag pl => Sys2Proof.Machine.execStatus tag pl s
  | .mctpControl op => Sys2Proof.Machine.execMctpControl op s
  | .lifecycleNonce tag => Sys2Proof.Machine.execLifecycleNonce tag s
  | .lifecycleTransition tag pl => Sys2Proof.Machine.execLifecycleTransition tag pl s
  | .keyRevoke tag pl => Sys2Proof.Machine.execKeyRevoke tag pl s
  | .inspectExit tag => Sys2Proof.Machine.execInspectExit tag s
  | .provision tag pl => Sys2Proof.Machine.execProvision tag pl s
  | .firmwareTransferComplete => Sys2Proof.Machine.execFirmwareTransferComplete s
  | .firmwareActivate => Sys2Proof.Machine.execFirmwareActivate s
  | .getVersion => Sys2Proof.Machine.execGetVersion s
  | .getCapabilities version => Sys2Proof.Machine.execGetCapabilities version s
  | .negotiateAlgorithms => Sys2Proof.Machine.execNegotiateAlgorithms s
  | .getDigests => Sys2Proof.Machine.execGetDigests s
  | .getCertificate slot off len => Sys2Proof.Machine.execGetCertificate slot off len s
  | .challenge slot => Sys2Proof.Machine.execChallenge slot s
  | .getMeasurements index signed => Sys2Proof.Machine.execGetMeasurements index signed s
  | .keyExchange doe => Sys2Proof.Machine.execKeyExchange doe s
  | .finish session => Sys2Proof.Machine.execFinish session s
  | .keyUpdate session => Sys2Proof.Machine.execKeyUpdate session s
  | .heartbeat session => Sys2Proof.Machine.execHeartbeat session s
  | .endSession session => Sys2Proof.Machine.execEndSession session s
  | .chunkGet n => Sys2Proof.Machine.execChunkGet n s
  | .logic q seq => Sys2Proof.Machine.execLogic q seq s
  | .scandump q seq => Sys2Proof.Machine.execScandump q seq s
  | .sramT q seq => Sys2Proof.Machine.execSramT q seq s
  | .sramM q seq => Sys2Proof.Machine.execSramM q seq s
  | .hbmMarch q seq => Sys2Proof.Machine.execHbmMarch q seq s
  | .hbmRow q seq => Sys2Proof.Machine.execHbmRow q seq s
  | .portLoop q seq => Sys2Proof.Machine.execPortLoop q seq s
  | .repair q seq => Sys2Proof.Machine.execRepair q seq s
  | .selftestPass r => Sys2Proof.Machine.execSelftestPass r s
  | .selftestEnd u found => Sys2Proof.Machine.execSelftestEnd u found s
  | .vinExcursion v a us => Sys2Proof.Machine.execVinExcursion v a us s
  | .overcurrentTrip a us => Sys2Proof.Machine.execOvercurrentTrip a us s
  | .inputLoss v => Sys2Proof.Machine.execInputLoss v s
  | .pwrEn => Sys2Proof.Machine.execPwrEn s
  | .bringupReady => Sys2Proof.Machine.execBringupReady s
  | .referenceLoss => Sys2Proof.Machine.execReferenceLoss s
  | .thermalCut => Sys2Proof.Machine.execThermalCut s
  | .powerOnReset src slot => Sys2Proof.Machine.execPowerOnReset src slot s
  | .packageReset src slot => Sys2Proof.Machine.execPackageReset src slot s
  | .reenable tag pl slot => Sys2Proof.Machine.execReenable tag pl slot s
  | .sensorUpdate power current ce => Sys2Proof.Machine.execSensorUpdate power current ce s
  | .portTrainingDone x => Sys2Proof.Machine.execPortTrainingDone x s
  | .hostLinkDown => Sys2Proof.Machine.execHostLinkDown s
  | .hostLinkUp speed width => Sys2Proof.Machine.execHostLinkUp speed width s
  | .ideIntegrityFail => Sys2Proof.Machine.execIdeIntegrityFail s
  | .cxlConfigWrite cxl msix => Sys2Proof.Machine.execCxlConfigWrite cxl msix s
  | .ideKmRequest session op => Sys2Proof.Machine.execIdeKmRequest session op s
  | .pldmFirmwareUpdate op => Sys2Proof.Machine.execPldmFirmwareUpdate op s
  | .i3cDynamicAddress addr => Sys2Proof.Machine.execI3cDynamicAddress addr s
  | .droopEnd r cycles => Sys2Proof.Machine.execDroopEnd r cycles s
  | .pwrEnDeasserted => Sys2Proof.Machine.execPwrEnDeasserted s
  | .selftestDeferredStart u => Sys2Proof.Machine.execSelftestDeferredStart u s
  | .suspectDeclaration => Sys2Proof.Machine.execSuspectDeclaration s
  | .managementWake p => Sys2Proof.Machine.execManagementWake p s

end Sys2Proof.Machine
end

