-- ==== Sys2Proof/Machine/Step.lean ====
section
/-! DEFINITION. One step of the package: the command at the front of its queue takes effect; with none waiting, the time base counts on
(R34). -/

namespace Sys2Proof.Machine

/-- The package with no command waiting: its time base, where it runs, counts one nanosecond (R34). -/
def State.idle (s : State) : State := s.advance (s.clk.tb.toNat + 1)

/-- One step. -/
def step (s : State) : Host.Outcome State Fault Refusal :=
  match s.pending with
  | [] => .next s.idle
  | c :: rest => exec c { s with pending := rest }

/-- The package with the command a word spells at the front of its queue. -/
def State.withFetchWord (s : State) (nbits w : Nat) : State :=
  match Sys2Proof.decodeTableWord nbits w with
  | none => s
  | some c => { s with pending := c :: s.pending }

end Sys2Proof.Machine
end

