-- ==== Sys2Proof/WellFormed.lean ====
section
/-! DEFINITION. Which commands have operands that a sender can give: the ranges the spec gives the numbers and lengths that a command
carries (R26, R27, R322, R327, R385, R397, R480). -/

namespace Sys2Proof

/-- R327: a packet has as many lines as its header says, at most 64. -/
def Packet.wellFormed (k : Packet) : Bool :=
  decide (k.lines.length = Sys2Proof.Machine.bits k.hdr 8 8) && decide (k.lines.length ≤ 64)

/-- R322: a flit has 32 data slots. -/
def Flit.wellFormed (f : Flit) : Bool := decide (f.slots.length = 32)

/-- A store of the host: 1 to 64 bytes of one line, and no more data than that. -/
def HostStore.wellFormed (h : HostStore) : Bool :=
  decide (1 ≤ h.len) && decide (h.addr.toNat % 64 + h.len ≤ 64) && decide (h.data < 2 ^ (8 * h.len))

/-- R385: the counts of 64 regions of five kinds, 64 free counts, 4 fabrics, 12 stacks. -/
def PowerObs.wellFormed (o : PowerObs) : Bool :=
  decide (o.region.length = 64) && o.region.all (fun l => decide (l.length = 5)) && decide (o.free.length = 64) &&
    decide (o.fabric.length = 4) && decide (o.hbm.length = 12)

/-- R480: a Thouri payload is at most 4,096 bytes. -/
def payloadOk (pl : List Byte) : Bool := decide (pl.length ≤ 4096)

/-- R122: a sequence number fits 64 bits. -/
def seqOk (seq : Nat) : Bool := decide (seq < 2 ^ 64)

/-- R456: an SPDM session number fits 32 bits. -/
def sessionOk (n : Nat) : Bool := decide (n < 2 ^ 32)

/-- R486: the payload of a RESET message fits R480. -/
def ResetSrc.wellFormed : ResetSrc → Bool
  | .message _ pl => payloadOk pl
  | .pin => true
  | .vin => true

/-- R454: a part of a firmware image is 1 to 4,096 bytes and lies below 4 GiB. -/
def FwOp.wellFormed : FwOp → Bool
  | .begin_ len => decide (len < 2 ^ 32)
  | .data off bytes => decide (off + bytes.length < 2 ^ 32) && decide (1 ≤ bytes.length) && decide (bytes.length ≤ 4096)
  | .cancel => true

/-- R113: a stream number fits 8 bits. -/
def IdeOp.wellFormed : IdeOp → Bool
  | .program stream _ => decide (stream < 256)
  | .go => true
  | .stop => true

/-- R479: a transmission unit fits 16 bits. -/
def MctpOp.wellFormed : MctpOp → Bool
  | .negotiateUnit n => decide (n < 2 ^ 16)
  | .setEid _ => true
  | .getEid => true
  | .messageTypes => true
  | .other => true
  | .reservedCmd _ _ => true

/-- A command whose operands are in their ranges. -/
def Instr.wellFormed : Instr → Bool
  | .timeBaseStart => true
  | .tbLoRead _ => true
  | .readClearRegister a => decide (a.off.toNat % (if a.wide then 8 else 4) = 0)
  | .registerWrite off _ => decide (off.toNat % 4 = 0)
  | .timeSymbolSend _ => true
  | .timeSymbolReceive _ _ _ _ => true
  | .holdoverTimeout => true
  | .podOffsetMeasure _ _ => true
  | .unitDone u _ => Sys2Proof.Machine.isStreamUnit u.toNat
  | .doneMarkerReceive _ _ => true
  | .goMarkerReceive _ _ => true
  | .strokeStart => true
  | .strokeCfg _ pl => payloadOk pl
  | .hostMemRead _ => true
  | .hostMemWrite _ _ _ => true
  | .hdmCommit _ _ => true
  | .addWrite _ _ _ _ => true
  | .patrolRead _ o _ => decide (o.toNat % 64 = 0)
  | .doorbellSnoop _ stores => stores.all HostStore.wellFormed
  | .doorbellPoll stores => stores.all HostStore.wellFormed
  | .descriptorFetch _ => true
  | .nopDescriptor _ seq => seqOk seq
  | .fenceDescriptor _ seq => seqOk seq
  | .barrier _ seq => seqOk seq
  | .signal _ seq => seqOk seq
  | .copyIn _ seq => seqOk seq
  | .copyOut _ seq => seqOk seq
  | .fill _ seq => seqOk seq
  | .loadScript _ seq => seqOk seq
  | .launch _ seq => seqOk seq
  | .zeroFillDone _ => true
  | .stop _ seq => seqOk seq
  | .cgOpen _ seq => seqOk seq
  | .cgClose _ seq => seqOk seq
  | .collective _ seq => seqOk seq
  | .queueCtl _ seq => seqOk seq
  | .queueCtlApply => true
  | .engineCtl _ seq => seqOk seq
  | .engineCtlApply => true
  | .partSet _ seq => seqOk seq
  | .wakeLat _ seq => seqOk seq
  | .completionWrite _ => true
  | .msixHoldoffExpiry _ => true
  | .mqresume => true
  | .qreset => true
  | .queueEnable _ _ => true
  | .viral => true
  | .hostLinkDownTimeout => true
  | .perstN _ => true
  | .segmentFetchDone u => Sys2Proof.Machine.isStreamUnit u.toNat
  | .nop u _ => Sys2Proof.Machine.isStreamUnit u.toNat
  | .wait u _ => Sys2Proof.Machine.isStreamUnit u.toNat
  | .creditArrival u _ _ _ => Sys2Proof.Machine.isClusterUnit u.toNat
  | .post u _ => Sys2Proof.Machine.isStreamUnit u.toNat
  | .fence u _ => Sys2Proof.Machine.isStreamUnit u.toNat
  | .loadw _ _ => true
  | .mma _ _ => true
  | .abcast _ _ => true
  | .cntst _ _ => true
  | .copy _ _ _ => true
  | .skew _ _ _ => true
  | .fillLines _ _ _ => true
  | .addw _ _ _ => true
  | .put _ _ _ => true
  | .putReceive k _ => k.wellFormed
  | .inboundAccess _ _ _ _ => true
  | .stalledUnitTimeout u => Sys2Proof.Machine.isStreamUnit u.toNat
  | .trans _ _ => true
  | .conv _ _ => true
  | .qmx _ _ => true
  | .tfeIdx _ _ => true
  | .setvl _ _ => true
  | .setx _ _ => true
  | .addx _ _ => true
  | .tveIdx _ _ => true
  | .loop _ _ => true
  | .ld _ _ => true
  | .st _ _ => true
  | .fop _ _ => true
  | .fun_ _ _ => true
  | .cmp _ _ => true
  | .sel _ _ => true
  | .iop _ _ => true
  | .movi _ _ => true
  | .cvt _ _ => true
  | .red _ _ => true
  | .perm _ _ => true
  | .pfix _ _ => true
  | .rand _ _ => true
  | .stepClose _ => true
  | .prog _ _ => true
  | .cld _ _ => true
  | .args _ _ => true
  | .upd _ _ => true
  | .stat _ _ => true
  | .take _ _ => true
  | .open_ _ _ => true
  | .seal _ _ => true
  | .stagingBlockResident _ blk => decide (blk < 2 ^ 16)
  | .emberReceive k => k.wellFormed
  | .tallyReceive k => k.wellFormed
  | .flitReceive _ _ fixed f => decide (fixed < 2 ^ 16) && f.wellFormed
  | .nakReceive _ _ => true
  | .packetReceive _ => true
  | .ackReceive k => k.wellFormed
  | .creditPacketReceive k => k.wellFormed
  | .identSend _ => true
  | .identReceive _ _ _ _ => true
  | .portFail _ _ => true
  | .portRetrain _ _ => true
  | .wakeSymbol _ => true
  | .coldSymbol _ => true
  | .place _ pl => payloadOk pl
  | .routeWr _ pl => payloadOk pl
  | .remapWr _ pl => payloadOk pl
  | .commit _ pl => payloadOk pl
  | .routingBankSwap => true
  | .tree _ pl => payloadOk pl
  | .ag _ _ => true
  | .rs _ _ => true
  | .bcast _ _ => true
  | .a2a _ _ => true
  | .a2av _ _ => true
  | .a2ar _ _ => true
  | .vote _ _ => true
  | .grantPacket _ k => k.wellFormed
  | .partPacket _ k => k.wellFormed
  | .blockPacket _ k => k.wellFormed
  | .rowPacket _ k => k.wellFormed
  | .countsPacket _ k => k.wellFormed
  | .basesPacket _ k => k.wellFormed
  | .flagPacket _ k => k.wellFormed
  | .flueOpComplete _ _ _ => true
  | .edgeSlotReceive _ _ => true
  | .edgeTrainingDone _ _ _ => true
  | .forcedReset => true
  | .dieClockLoss _ => true
  | .powerEstimate o => o.wellFormed
  | .coefficientTrim uj => decide (uj < 2 ^ 48)
  | .forecast => true
  | .droopResponse _ below => decide (below < 2 ^ 12)
  | .thermalSample tj coolant => decide (tj.length = 64) && tj.all (fun t => decide (t < 256)) && decide (coolant < 256)
  | .idleGlowEntry _ => true
  | .idleBankedEntry _ => true
  | .coldEntry => true
  | .wakeComplete _ => true
  | .powerCfg _ pl => payloadOk pl
  | .rateBucketEnd => true
  | .evHack _ => true
  | .evIrqSpacing => true
  | .trSel _ => true
  | .traceFreeze => true
  | .traceResume => true
  | .spillPad _ => true
  | .dopen _ _ => true
  | .dfeed _ _ => true
  | .dclose _ _ => true
  | .replay => true
  | .recover _ pl => payloadOk pl
  | .recovRdReceive k => k.wellFormed
  | .recovDataReceive k => k.wellFormed
  | .sealRead _ pl => payloadOk pl
  | .holdRead _ pl => payloadOk pl
  | .holdAck _ pl => payloadOk pl
  | .status _ pl => payloadOk pl
  | .mctpControl op => op.wellFormed
  | .lifecycleNonce _ => true
  | .lifecycleTransition _ pl => payloadOk pl
  | .keyRevoke _ pl => payloadOk pl
  | .inspectExit _ => true
  | .provision _ pl => payloadOk pl
  | .firmwareTransferComplete => true
  | .firmwareActivate => true
  | .getVersion => true
  | .getCapabilities version => decide (version < 256)
  | .negotiateAlgorithms => true
  | .getDigests => true
  | .getCertificate slot off len => decide (slot < 16) && decide (off < 2 ^ 16) && decide (len < 2 ^ 16)
  | .challenge slot => decide (slot < 16)
  | .getMeasurements index _ => decide (index < 256)
  | .keyExchange _ => true
  | .finish session => sessionOk session
  | .keyUpdate session => sessionOk session
  | .heartbeat session => sessionOk session
  | .endSession session => sessionOk session
  | .chunkGet n => decide (n < 2 ^ 16)
  | .logic _ seq => seqOk seq
  | .scandump _ seq => seqOk seq
  | .sramT _ seq => seqOk seq
  | .sramM _ seq => seqOk seq
  | .hbmMarch _ seq => seqOk seq
  | .hbmRow _ seq => seqOk seq
  | .portLoop _ seq => seqOk seq
  | .repair _ seq => seqOk seq
  | .selftestPass _ => true
  | .selftestEnd _ _ => true
  | .vinExcursion _ _ us => decide (us < 2 ^ 32)
  | .overcurrentTrip _ us => decide (us < 2 ^ 32)
  | .inputLoss _ => true
  | .pwrEn => true
  | .bringupReady => true
  | .referenceLoss => true
  | .thermalCut => true
  | .powerOnReset src _ => src.wellFormed
  | .packageReset src _ => src.wellFormed
  | .reenable _ pl _ => payloadOk pl
  | .sensorUpdate power current ce => decide (power < 2 ^ 16) && decide (current < 2 ^ 16) && decide (ce < 2 ^ 32)
  | .portTrainingDone _ => true
  | .hostLinkDown => true
  | .hostLinkUp _ _ => true
  | .ideIntegrityFail => true
  | .cxlConfigWrite _ _ => true
  | .ideKmRequest session op => sessionOk session && op.wellFormed
  | .pldmFirmwareUpdate op => op.wellFormed
  | .i3cDynamicAddress _ => true
  | .droopEnd _ cycles => decide (cycles < 2 ^ 32)
  | .pwrEnDeasserted => true
  | .selftestDeferredStart _ => true
  | .suspectDeclaration => true
  | .managementWake _ => true

end Sys2Proof
end

