-- ==== Sys2Proof/Safety.lean ====
section
/-! DEFINITION. What the statements speak of: the canonical form of memory, reads of one byte, a unit that dispatches, and the legal
lifecycle states. -/

namespace Sys2Proof.Machine

/-- The canonical form of memory: addresses strictly rising, no entry equal to what an unlisted address reads as. -/
def Memory.wf (m : Mem) : Bool := Tab.wf 0 m.cells && Tab.wf 0 m.host

/-- One byte of package memory, by physical key, and of host memory, by host physical address. -/
def Mem.byte (m : Mem) (k : Nat) : Byte := Tab.get 0 m.cells k
def Mem.hostByte (m : Mem) (a : Nat) : Byte := Tab.get 0 m.host a

/-- R87, R417: a physical key in the inkwell area of its stack. -/
def Mem.inInk (m : Mem) (k : Nat) : Bool := decide (m.inkBase ≤ k % 2 ^ 36)

/-- What unit `u` dispatches now is a whole instruction of opcode `opc` and word `w` (R16, R152), and no class 11 fault is about to end
its launch. -/
def State.dispatches (s : State) (u opc w : Nat) : Bool :=
  s.dp.runs s.env u opc w && !(s.dp.atFragment s.env u) && s.dp.fr.jobStop.isNone

/-- Package memory outside the bytes `w` marks, and outside the inkwell area that trace events spill to (R417), reads as before. -/
def State.keeps (s t : State) (w : Nat → Bool) : Prop :=
  ∀ k, w k = false → s.dp.mem.inInk k = false → t.dp.mem.byte k = s.dp.mem.byte k

/-- Nothing but the data path has changed. -/
def State.onlyDp (s t : State) : Prop := t = { s with dp := t.dp }

/-- No byte. -/
def noByte : Nat → Bool := fun _ => false

/-- The 64 bytes of the line at physical key `a`. -/
def lineBytes (a : Nat) : Nat → Bool := fun k => decide (a ≤ k) && decide (k < a + 64)

/-- Package memory outside the mapped lines at the addresses `p` names, and outside the inkwell area, reads as before. -/
def State.keepsAddrs (s t : State) (p : Nat → Prop) : Prop :=
  ∀ k, (∀ a l, p a → s.dp.mem.at48 a = some l → lineBytes (s.dp.mem.key l) k = false) → s.dp.mem.inInk k = false →
    t.dp.mem.byte k = s.dp.mem.byte k

/-- R77: package memory outside the lines that the units `us` may write in the entry in force, and outside the inkwell area, reads as
before. -/
def State.keepsWindows (s t : State) (us : Nat → Prop) : Prop :=
  s.keepsAddrs t (fun a => ∃ u, us u ∧ s.env.mayWrite u a = true)

/-- R154: unit `u` claims every bank of its cluster in the phase in force. -/
def State.claimsAll (s : State) (u : Nat) : Prop := ∀ acc off, s.env.claims u acc off = true

/-- Unit `u` has run one instruction: it stands at its next one, every other unit where it was, and only the data path changed. -/
def State.ranDp (s t : State) (u : Nat) : Prop :=
  s.onlyDp t ∧ (t.dp.getUnit u).idx = ((s.dp.advance u).getUnit u).idx ∧ ∀ v, v ≠ u → (t.dp.getUnit v).idx = (s.dp.getUnit v).idx

/-- The bytes from key `a` on, `n` of them. -/
def keyRange (a n : Nat) : Nat → Bool := fun k => decide (a ≤ k) && decide (k < a + n)

/-- No line of package memory holds an error. -/
def State.clean (s : State) : Prop := ∀ l, s.dp.mem.marks.get .none l = .none

/-- Every other unit is where it was. -/
def State.keepsOthers (s t : State) (u : Nat) : Prop := ∀ v, v ≠ u → (t.dp.getUnit v).idx = (s.dp.getUnit v).idx

/-- Unit `u` has run one instruction, and neither another unit nor the fault state has changed. -/
def State.ranAlone (s t : State) (u : Nat) : Prop :=
  s.ranDp t u ∧ (∀ v, v ≠ u → t.dp.getUnit v = s.dp.getUnit v) ∧ t.dp.fr = s.dp.fr

/-- Physical key of offset `off` of cluster `c`'s SRAM, or of its accumulator bank. -/
def clKey (c : Nat) (acc : Bool) (off : Nat) : Nat := if acc then accKey c off else sramKey c off

/-- Rows of a cluster's memory: `m` rows of `n` bytes, the first at offset `base`. -/
structure Rows where
  acc : Bool
  base : Nat
  pitch : Nat
  n : Nat
  m : Nat

/-- Key of row `r`; the bytes of the rows; all of them exist (R92, R93). -/
def Rows.key (x : Rows) (c r : Nat) : Nat := clKey c x.acc (x.base + r * x.pitch)
def Rows.bytes (x : Rows) (c : Nat) : Nat → Bool := fun k => (List.range x.m).any (fun r => keyRange (x.key c r) x.n k)
def Rows.exist (x : Rows) : Prop := ∀ r, r < x.m → x.base + r * x.pitch + x.n ≤ if x.acc then 0x20000 else 0x300000

/-- No row of `x` touches a row of `y`. -/
def Rows.apart (x y : Rows) : Prop :=
  ∀ r q, r < x.m → q < y.m → x.acc ≠ y.acc ∨ x.base + r * x.pitch + x.n ≤ y.base + q * y.pitch ∨
    y.base + q * y.pitch + y.n ≤ x.base + r * x.pitch

/-- R77: unit `u` may write every byte of the rows. -/
def Rows.opened (x : Rows) (s : State) (u c : Nat) : Prop :=
  ∀ r o, r < x.m → o < x.n → s.env.mayWrite u (clAddr c x.acc ((x.base + r * x.pitch + o) / 64 * 64)) = true

/-- R122–R124, R131, R401: descriptor `seq` of queue `q`, with bits `d`, of type `t`, starts now. -/
def State.starts (s : State) (q seq t : Nat) (d : BitVec 512) : Prop :=
  (∃ y, (s.getQ q).fetched.find? (fun y => y.seq == seq) = some y ∧ y.d = d ∧ (s.getQ q).mayStart y = true) ∧ dType d = t ∧
    s.litFor q = true ∧ s.typeStatus q d = none ∧ (s.ownerOf q = none ∨ t = 0x20 ∨ t = 0x21)

/-- R123: a descriptor's reserved header bits are 0. -/
def headerOk (d : BitVec 512) : Bool := !(anyBits d 11 5) && !(anyBits d 32 32)

/-- R450, R479, R482: the PMC runs its firmware and the package is READY, so that a request reaches its command. -/
def State.answers (s : State) : Bool := !s.bu.dark && s.bu.booted && s.bu.ready

/-- R446, R447: a lifecycle state the spec allows: TEST, FIELD or RETURNED in the fuses, INSPECT only over FIELD, a pending target it
names, and an identity key exactly in FIELD and INSPECT. -/
def Sec.legal (c : Sec) : Bool :=
  (c.fuse == 0 || c.fuse == 1 || c.fuse == 3) && (c.lc == c.fuse || (c.lc == 2 && c.fuse == 1)) &&
    (c.pend == 1 || c.pend == 2 || c.pend == 3 || c.pend == 7) && (c.idKey == (c.fuse == 1))

/-- R446, R447, R455: what one step may do to the fuses: SVN does not fall, no revocation is undone, RETURNED stays, and the identity key
does not come back in it. -/
def Sec.oneWay (c c' : Sec) : Prop :=
  c.svn.toNat ≤ c'.svn.toNat ∧ c.keyRev &&& c'.keyRev = c.keyRev ∧ (c.fuse = 3 → c'.fuse = 3) ∧
    (c.fuse = 3 → c.idKey = false → c'.idKey = false)

end Sys2Proof.Machine
end

