-- ==== Sys2Proof/Certificates/Slice0/Obligations.lean ====
section
/-! DEFINITION. The statements for the provers: what each command of the table does and leaves as it is, the step law, and the invariants
of the whole package. -/

open Sys2Proof Sys2Proof.Machine

/-- A step runs the command at the front of the queue; With no command waiting, a step counts one nanosecond.  -/
def Obligations.StepRunsFrontCommand : Prop :=
  (∀ (c : Instr) (rest : List Instr) (s : State), step { s with pending := c :: rest } = exec c { s with pending := rest }) ∧
  (∀ s : State, s.pending = [] →
    (s.clk.running = false → step s = .next s) ∧
    (s.clk.running = true → step s = .next { s with clk := { s.clk with tb := s.clk.tb + 1 } }))

/-- Setup-space offsets and what the spec's register maps give for reset. -/
def resetMap : List (Nat × Nat) :=
  [(0x1008, 0xFF000000), (0x1028, 0x190), (0x102C, 0x1A402D0), (0x1038, 0x80000000), (0x1040, 0x30000), (0x1084, 0x3FF0000),
   (0x1088, 0x1), (0x10C4, 0xC0C0C0C0), (0x1104, 0x1), (0x1144, 0xFF), (0x1184, 0x1), (0x11C4, 0x1000001), (0x1208, 0x1018000B),
   (0x1214, 0x10), (0x1244, 0x1), (0x1260, 0x77), (0x12A4, 0x1348), (0x12C4, 0x1), (0x808, 0xA280A28), (0x80C, 0x14), (0x824,
   0x2), (0xA00, 0x9C40A22), (0xA84, 0x1), (0x4C4, 0x96), (0x480, 0x779), (0x2410, 0x4), (0x2430, 0x10004), (0x2E10, 0x500004),
   (0x400, 0x0), (0x1000, 0x0), (0x2000, 0x0), (0x440, 0x0), (0x1080, 0x0)]

/-- What reset leaves.  -/
def Obligations.ResetLeavesSpecValues : Prop :=
  State.reset.pending = [] ∧ State.reset.clk.tb = 0 ∧ State.reset.clk.running = false ∧ State.reset.clk.lock = .free ∧
    Memory.wf State.reset.dp.mem = true ∧ State.reset.dp.mem.cells = [] ∧ State.reset.launched = false ∧
    State.reset.torus.placed = false ∧ State.reset.dp.fr.fenced = false ∧
    (State.reset.getPartn 0).dies = 0xF#4 ∧ (State.reset.getPartn 0).qmask = 0xFFFF#16 ∧
    (∀ p ∈ [1, 2, 3], (State.reset.getPartn p).dies = 0#4 ∧ (State.reset.getPartn p).qmask = 0#16) ∧
    (∀ x ∈ resetMap, State.reset.regRead x.1 = x.2)

/-- TB_LO_READ: a 64-bit read returns both halves, a 32-bit read latches the upper one.  -/
def Obligations.TimeBaseReadLatchesUpperHalf : Prop :=
  ∀ s : State,
    exec (.tbLoRead true) s = .next { s with out := { s.out with rdata := s.clk.tb } } ∧
    ∃ t, exec (.tbLoRead false) s = .next t ∧ t.out.rdata = (s.clk.tb.extractLsb' 0 32).zeroExtend 64 ∧
      (∀ s' : State, s'.hp.latch = t.hp.latch →
        ∃ t', exec (.readClearRegister ⟨0x1004, false⟩) s' = .next t' ∧ t'.out.rdata = (s.clk.tb.extractLsb' 32 32).zeroExtend 64) ∧
      t = { s with out := { s.out with rdata := t.out.rdata }, hp := { s.hp with latch := t.hp.latch } }

/-- TIME_BASE_START: the time base starts from 0 and is never set back; HOLDOVER_TIMEOUT, POD_OFFSET_MEASURE.  -/
def Obligations.TimeBaseStartsHoldsAndIsCompared : Prop :=
  (∀ s : State, s.bu.dark = false →
    ∃ t, exec .timeBaseStart s = .next t ∧ t.clk = { s.clk with running := true, tb := if s.clk.running then s.clk.tb else 0 } ∧
      t.bu.refIn = true ∧ t.dp = { s.dp with log := t.dp.log } ∧
      t = { s with clk := t.clk, dp := t.dp, sec := t.sec, bu := t.bu, edge := t.edge }) ∧
  ((∀ s : State, s.clk.lock = .holdover →
    ∃ t, exec .holdoverTimeout s = .next t ∧ t.clk.lock = .fault ∧ t.dp.fr.fenced = true ∧ t.dp.fr.last = s.dp.fr.last + 1 ∧
      s.keeps t noByte ∧ t.torus = s.torus) ∧
  (∀ (p : Fin 24) (skew : BitVec 32) (s : State), s.torus.interPod (p.val % 6) = true → s.torus.carries p.val = true →
    ∃ t, exec (.podOffsetMeasure p skew) s = .next t ∧ t.clk = { s.clk with podSkew := skew } ∧ t.regRead 0x1038 = skew.toNat ∧
      t = { s with clk := t.clk, dp := { s.dp with log := t.dp.log, irq := t.dp.irq } }))

/-- TIME_SYMBOL_RECEIVE, TIME_SYMBOL_SEND: marks are kept, and a launched package is only trimmed.  -/
def Obligations.TimeMarksNeverStepALaunchedPackage : Prop :=
  (∀ (p : Fin 24) (txT echoT : BitVec 64) (holdPs : BitVec 32) (s : State),
    ∃ t, exec (.timeSymbolReceive p txT echoT holdPs) s = .next t ∧
      ((s.launched = true ∨ s.clk.stepped = true) → t.clk.tb = s.clk.tb) ∧
      (t.clk.tb ≠ s.clk.tb → t.clk.stepped = true) ∧
      (s.launched = true → t.clk.trim = s.clk.trim ∨ (-50000 ≤ t.clk.trim.toInt ∧ t.clk.trim.toInt ≤ 50000)) ∧
      (((s.torus.port p.val).state = .live ∨ (s.torus.port p.val).state = .lock) →
        (t.torus.port p.val).markTx = txT ∧ (t.torus.port p.val).markAt = s.clk.tb ∧ (t.torus.port p.val).marked = true) ∧
      t = { s with clk := t.clk, torus := { s.torus with ports := t.torus.ports }, dp := { s.dp with log := t.dp.log, irq := t.dp.irq } }) ∧
  (∀ (p : Fin 24) (s : State), (s.torus.port p.val).state = .live ∨ (s.torus.port p.val).state = .lock →
    (s.torus.port p.val).unacked.length < 255 →
    ∃ t, exec (.timeSymbolSend p) s = .next t ∧ (t.torus.port p.val).txSeq = (s.torus.port p.val).txSeq + 1 ∧
      (t.torus.port p.val).timeSent.extractLsb' 0 8 = 1#8 ∧ (t.torus.port p.val).timeSent.extractLsb' 128 64 = s.clk.tb ∧
      (∀ q, q ≠ p.val → t.torus.port q = s.torus.port q) ∧ t = { s with torus := { s.torus with ports := t.torus.ports } })

/-- UNIT_DONE, DONE_MARKER_RECEIVE: done is collected from units and children.  -/
def Obligations.DoneMarkersAreCollected : Prop :=
  (∀ (u : BitVec 16) (cause : BitVec 6) (s : State) (p : PEnv), s.env.ofUnit u.toNat = some p → u.toNat ∈ s.workersOf p →
    (s.dp.getUnit u.toNat).done = false → s.unitFinished p u.toNat = true → s.dp.fr.hold = false →
    ∃ t, exec (.unitDone u cause) s = .next t ∧ (t.dp.getUnit u.toNat).done = true ∧ 
      (∀ k, s.dp.mem.inInk k = false → t.dp.mem.byte k = s.dp.mem.byte k)) ∧
  (∀ (p : Fin 24) (m : BitVec 128) (s : State), s.torus.nbValid (p.val % 6) = true → s.torus.interPod (p.val % 6) = false →
    doneStroke m = s.clk.stroke.toNat % 2 ^ 40 → s.dp.fr.hold = false →
    ∃ t, exec (.doneMarkerReceive p m) s = .next t ∧ p.val % 6 ∈ t.clk.kids ∧ t.clk.kidDone.get 0 (p.val % 6) = m ∧
      t.clk.stroke = s.clk.stroke ∧ t.dp.units = s.dp.units) ∧
  (∀ a b : BitVec 128,
    doneReq (mergeDone a b) = max (doneReq a) (doneReq b) ∧ doneT (mergeDone a b) = max (doneT a) (doneT b) ∧
    (doneT a > doneT b → donePkg (mergeDone a b) = donePkg a ∧ doneUnit (mergeDone a b) = doneUnit a ∧
      doneCause (mergeDone a b) = doneCause a) ∧
    (doneT a = doneT b → donePkg (mergeDone a b) = min (donePkg a) (donePkg b)) ∧
    (doneT a = doneT b → donePkg a = donePkg b → doneUnit (mergeDone a b) = min (doneUnit a) (doneUnit b)))

/-- GO_MARKER_RECEIVE: a good marker is scheduled, a corrupt one retried, a repeated one ignored.  -/
def Obligations.GoMarkersScheduleTheStroke : Prop :=
  ∀ (p : Fin 24) (m : BitVec 128) (s : State), s.clk.role.isRoot = false → s.torus.placed = true →
    s.torus.interPod (p.val % 6) = false →
    ((s.clk.joined = true ∧ (s.clk.stroke.toNat + 2 ^ 40 - goStroke m) % 2 ^ 40 < 2 ^ 39) → exec (.goMarkerReceive p m) s = .next s) ∧
    (¬ (s.clk.joined = true ∧ (s.clk.stroke.toNat + 2 ^ 40 - goStroke m) % 2 ^ 40 < 2 ^ 39) →
      (goK m > 48 ∨ goPeriod m < 25 ∨ goPeriod m > 4000 ∨
        (s.clk.joined = true ∧ goStroke m ≠ (s.clk.stroke.toNat + 1) % 2 ^ 40)) →
      exec (.goMarkerReceive p m) s = .next (s.setPort p.val (fun x => { x with nakOwed := true }))) ∧
    (goK m ≤ 48 → 25 ≤ goPeriod m → goPeriod m ≤ 4000 →
      (s.clk.joined = true → goStroke m = (s.clk.stroke.toNat + 1) % 2 ^ 40) → s.clk.go = none →
      ∃ t, exec (.goMarkerReceive p m) s = .next t ∧ t.clk.go = some m ∧ t.clk.goAt = s.clk.tb ∧ t.clk.stroke = s.clk.stroke ∧
        t.dp.mem = s.dp.mem ∧ t.dp.units = s.dp.units)

/-- STROKE_START: the stroke, its start, period and stretch are those of the go marker.  -/
def Obligations.StrokeStartsAtItsGoMarker : Prop :=
  (∀ (s : State) (m : BitVec 128), s.clk.go = some m → s.dp.fr.fenced = false → s.pw.tripped = false → s.dp.fr.voidHolds = false →
    s.bu.dark = false → s.pw.cold = false →
    ∃ t, exec .strokeStart s = .next t ∧
      t.clk.stroke = (if s.clk.joined then s.clk.stroke + 1 else BitVec.ofNat 64 (goStroke m)) ∧
      t.clk.sstart = goT m ∧ t.clk.k.toNat = goK m ∧ t.clk.period.toNat = goPeriod m ∧ t.clk.joined = true ∧ t.pending = s.pending) ∧
  (∀ s : State, (s.clk.go = none ∨ s.dp.fr.fenced = true ∨ s.pw.tripped = true ∨ s.dp.fr.voidHolds = true ∨ s.bu.dark = true ∨ s.pw.cold = true) →
    exec .strokeStart s = .next s)

/-- STROKE_CFG: a change of P waits for its stroke, and is refused with BUSY while a script is launched.  -/
def Obligations.StrokeCfgIsRefusedWhileLaunched : Prop :=
  ∀ (tag : BitVec 16) (pl : List Byte) (s : State), s.answers = true → 14 ≤ pl.length → 25 ≤ plAt pl 8 2 → plAt pl 8 2 ≤ 4000 →
    (s.launched = true → exec (.strokeCfg tag pl) s = .next (s.respond 0x06 msBusy tag [])) ∧
    (s.launched = false → exec (.strokeCfg tag pl) s = .next (({ s with clk := { s.clk with req := some ⟨BitVec.ofNat 64 (plAt pl 0 8),
        BitVec.ofNat 12 (plAt pl 8 2), BitVec.ofNat 16 (plAt pl 10 2), BitVec.ofNat 16 (plAt pl 12 2)⟩ } }).respond 0x06 msOk tag [])) ∧
    (∀ (c : Clk) (r : StrokeReq) (m : BitVec 128), c.req = some r → r.stroke.toNat ≤ (c.begin m).stroke.toNat →
      (c.begin m).downNs = r.down ∧ (c.begin m).cwNs = r.cw ∧ (c.begin m).req = none)

/-- PLACE: a valid placement takes effect as a whole, one during a launch is refused.  -/
def Obligations.PlacementTakesEffectWhole : Prop :=
  ∀ (tag : BitVec 16) (pl : List Byte) (s : State), s.answers = true → 48 ≤ pl.length →
    s.edge.ends.any (fun x => x.2.state == .training) = false →
    (s.launched = true →
      exec (.place tag pl) s = .next (({ s with torus := { s.torus with refused := true } }).respond 0x02 msBusy tag [])) ∧
    (s.launched = false → plAt pl 40 1 ≤ 64 → plAt pl 41 1 ≤ 16 → 48 + 32 * plAt pl 40 1 + 8 * plAt pl 41 1 ≤ pl.length →
      treeOk (plAt pl 32 1) (plAt pl 33 1) (plAt pl 34 1) = true →
      (∀ e ∈ placeCgs pl (plAt pl 40 1), cgValid e = true → cgOk e = true) →
      ∃ t, exec (.place tag pl) s = .next t ∧ t.torus.placed = true ∧ t.torus.refused = false ∧
        t.torus.coord = BitVec.ofNat 32 (plAt pl 0 4) &&& 0x003F0FFF#32 ∧ t.torus.shape = BitVec.ofNat 32 (plAt pl 4 4) &&& 0x003F7FFF#32 ∧
        (∀ i, i < 6 → t.torus.neigh.get 0 i = BitVec.ofNat 32 (plAt pl (8 + 4 * i) 4) &&& 0x8003FFFF#32) ∧
        (∀ i, i < plAt pl 40 1 → t.torus.cgs.get 0 i = BitVec.ofNat 256 (plAt pl (48 + 32 * i) 32)) ∧
        (∀ i, plAt pl 41 1 ≤ i → t.torus.remap.get 0 i = 0) ∧
        t.torus.embCfg = BitVec.ofNat 7 (plAt pl 35 1) &&& 0x77#7 ∧ t.clk.role = Role.ofCode (plAt pl 32 1) ∧
        t.clk.hops.toNat = (if (Role.ofCode (plAt pl 32 1)).isRoot then 0 else plAt pl 34 1) ∧ t.clk.cwNs.toNat = plAt pl 36 2 ∧ t.clk.downNs.toNat = plAt pl 38 2 ∧
        (∀ p, p < 24 → bit (BitVec.ofNat 32 (plAt pl (8 + 4 * (p % 6)) 4)) 31 = false → (t.torus.port p).state = .unused)) ∧
    (s.launched = false → (64 < plAt pl 40 1 ∨ 16 < plAt pl 41 1 ∨ pl.length < 48 + 32 * plAt pl 40 1 + 8 * plAt pl 41 1 ∨
        treeOk (plAt pl 32 1) (plAt pl 33 1) (plAt pl 34 1) = false ∨
        ∃ e ∈ placeCgs pl (plAt pl 40 1), cgValid e = true ∧ cgOk e = false) →
      exec (.place tag pl) s = .next (s.respond 0x02 msBadField tag []))

/-- ROUTE_WR, REMAP_WR, COMMIT, ROUTING_BANK_SWAP; TREE, POWER_CFG.  -/
def Obligations.RoutingTreeAndPowerSettingsAreTaken : Prop :=
  ((∀ (tag : BitVec 16) (pl : List Byte) (s : State), s.answers = true → 4 ≤ pl.length → plAt pl 0 2 ≤ 1 →
    plAt pl 2 2 + (pl.length - 4) ≤ (if plAt pl 0 2 = 0 then 4096 else 64) →
    ∃ t, exec (.routeWr tag pl) s = .next t ∧
      (∀ i b, (pl.drop 4)[i]? = some b →
        (if plAt pl 0 2 = 0 then t.torus.pkgShadow.get 0 (plAt pl 2 2 + i) else t.torus.podShadow.get 0 (plAt pl 2 2 + i)) = b) ∧
      (∀ k, k < plAt pl 2 2 ∨ plAt pl 2 2 + (pl.length - 4) ≤ k →
        t.torus.pkgShadow.get 0 k = s.torus.pkgShadow.get 0 k ∧ t.torus.podShadow.get 0 k = s.torus.podShadow.get 0 k) ∧
      (plAt pl 0 2 = 0 → t.torus.podShadow = s.torus.podShadow) ∧ (plAt pl 0 2 = 1 → t.torus.pkgShadow = s.torus.pkgShadow) ∧
      t = ({ s with torus := { s.torus with pkgShadow := t.torus.pkgShadow, podShadow := t.torus.podShadow } }).respond 0x03 msOk tag []) ∧
  (∀ (tag : BitVec 16) (pl : List Byte) (s : State), s.answers = true → 16 ≤ pl.length → plAt pl 0 8 < 16 →
    ∃ t, exec (.remapWr tag pl) s = .next t ∧
      t.torus.remapShadow.get 0 (plAt pl 0 8) = BitVec.ofNat 64 (plAt pl 8 8) &&& 0x8003FFFF0003FFFF#64 ∧
      (∀ k, k ≠ plAt pl 0 8 → t.torus.remapShadow.get 0 k = s.torus.remapShadow.get 0 k) ∧
      t = ({ s with torus := { s.torus with remapShadow := t.torus.remapShadow } }).respond 0x04 msOk tag []) ∧
  (∀ (tag : BitVec 16) (pl : List Byte) (s : State), s.answers = true → 9 ≤ pl.length →
    (plAt pl 0 8 ≤ s.clk.stroke.toNat → exec (.commit tag pl) s = .next (s.respond 0x05 msBusy tag [])) ∧
    (s.clk.stroke.toNat < plAt pl 0 8 → exec (.commit tag pl) s = .next (({ s with torus := { s.torus with
      commit := some (BitVec.ofNat 64 (plAt pl 0 8), (plAt pl 8 1).testBit 0, (plAt pl 8 1).testBit 1) } }).respond 0x05 msOk tag []))) ∧
  (∀ (s : State) (n : BitVec 64) (rt rm : Bool), s.torus.commit = some (n, rt, rm) →
    (n.toNat ≤ s.clk.stroke.toNat → ∃ t, exec .routingBankSwap s = .next t ∧ t.torus.commit = none ∧
      (rt = true → t.torus.pkgTab = s.torus.pkgShadow ∧ t.torus.pkgShadow = s.torus.pkgTab ∧ t.torus.podTab = s.torus.podShadow ∧
        t.torus.podShadow = s.torus.podTab) ∧
      (rt = false → t.torus.pkgTab = s.torus.pkgTab ∧ t.torus.podTab = s.torus.podTab) ∧
      (rm = true → t.torus.remap = s.torus.remapShadow ∧ t.torus.remapShadow = s.torus.remap) ∧
      (rm = false → t.torus.remap = s.torus.remap)) ∧
    (s.clk.stroke.toNat + 1 < n.toNat → exec .routingBankSwap s = .next s))) ∧
  ((∀ (tag : BitVec 16) (pl : List Byte) (s : State), s.answers = true → 3 ≤ pl.length →
    treeOk (plAt pl 0 1) (plAt pl 1 1) (plAt pl 2 1) = true →
    ∃ t, exec (.tree tag pl) s = .next t ∧ t.clk.role = Role.ofCode (plAt pl 0 1) ∧ t.clk.upDir.toNat = plAt pl 1 1 ∧
      t.clk.hops.toNat = (if (Role.ofCode (plAt pl 0 1)).isRoot then 0 else plAt pl 2 1) ∧ t.clk.stroke = s.clk.stroke ∧
      (s.dp.fr.hold = false → s.keeps t noByte)) ∧
  (∀ (tag : BitVec 16) (pl : List Byte) (s : State), s.answers = true → 10 ≤ pl.length →
    (plAt pl 0 2 ≤ 2600 → exec (.powerCfg tag pl) s = .next (({ s with
      pw := { s.pw with
        cap := BitVec.ofNat 16 (plAt pl 0 2), ramp := BitVec.ofNat 16 (plAt pl 2 2), floorW := BitVec.ofNat 16 (plAt pl 4 2),
        coldOk := decide (plAt pl 6 2 ≠ 0) },
      st := { s.st with budget := BitVec.ofNat 16 (plAt pl 8 2) } }).respond 0x08 msOk tag [])) ∧
    (2600 < plAt pl 0 2 → exec (.powerCfg tag pl) s = .next (s.respond 0x08 msBadField tag []))))

/-- FLIT_RECEIVE, NAK_RECEIVE: go-back-N.  -/
def Obligations.FlitsAreTakenInOrderOrRefused : Prop :=
  (∀ (p : Fin 24) (fecOk : Bool) (fixed : Nat) (f : Flit) (s : State), s.torus.carries p.val = true →
    ((fecOk = false ∨ bits f.ctl 448 64 ≠ f.crc ∨ f.slots.length ≠ 32 ∨ f.seq ≠ (s.torus.port p.val).rxSeq ∨ s.goCorrupt p.val f = true) →
      ∃ t, exec (.flitReceive p fecOk fixed f) s = .next t ∧
        t.torus.port p.val = { s.torus.port p.val with
          fecce := satAdd (s.torus.port p.val).fecce fixed, badflit := satAdd (s.torus.port p.val).badflit 1, nakOwed := true } ∧
        (∀ q, q ≠ p.val → t.torus.port q = s.torus.port q) ∧ t = { s with torus := { s.torus with ports := t.torus.ports } }) ∧
    (fecOk = true → bits f.ctl 448 64 = f.crc → f.slots.length = 32 → f.seq = (s.torus.port p.val).rxSeq → s.goCorrupt p.val f = false →
      ∃ t, exec (.flitReceive p fecOk fixed f) s = .next t ∧ (t.torus.port p.val).rxSeq = (s.torus.port p.val).rxSeq + 1 ∧
        (t.torus.port p.val).badflit = (s.torus.port p.val).badflit ∧ (∀ q, q % 6 ≠ p.val % 6 → t.torus.port q = s.torus.port q) ∧
        t.torus.inbox = s.torus.inbox ∧ t.dp.mem = s.dp.mem)) ∧
  (∀ (p : Fin 24) (ack : BitVec 12) (s : State) (n : Nat),
    n = (ack - ((s.torus.port p.val).txSeq - BitVec.ofNat 12 (s.torus.port p.val).unacked.length) + 1).toNat →
    1 ≤ n → n ≤ (s.torus.port p.val).unacked.length →
    ∃ t, exec (.nakReceive p ack) s = .next t ∧ (∃ more, (t.torus.port p.val).unacked = (s.torus.port p.val).unacked.drop n ++ more) ∧
      (n < (s.torus.port p.val).unacked.length →
        (t.torus.port p.val).retry = satAdd (s.torus.port p.val).retry 1 ∧ (t.torus.port p.val).replays = 1) ∧
      (∀ q, q % 6 ≠ p.val % 6 → t.torus.port q = s.torus.port q) ∧ t.torus.inbox = s.torus.inbox ∧ t.dp.mem = s.dp.mem)

/-- PACKET_RECEIVE: the oldest complete packet of a port.  -/
def Obligations.PacketsAreDroppedDiscardedDeliveredOrForwarded : Prop :=
  ∀ (p : Fin 24) (s : State) (k : Packet) (r : List Packet), (s.torus.port p.val).inbox = k :: r →
    (∀ why, k.dropReason = some why → ∃ t, exec (.packetReceive p) s = .next t ∧ (t.torus.port p.val).inbox = r ∧
      (t.torus.port p.val).drop = satAdd (s.torus.port p.val).drop 1 ∧ t.torus.inbox = s.torus.inbox ∧ t.dp.mem = s.dp.mem) ∧
    (k.dropReason = none → (s.torus.hseqSeen (p.val % 6) k).1 = true →
      ∃ t, exec (.packetReceive p) s = .next t ∧
        t.torus.port p.val = { (s.torus.port p.val).popInbox with inbox := r, dup := satAdd (s.torus.port p.val).dup 1 } ∧
        (∀ q, q ≠ p.val → t.torus.port q = s.torus.port q) ∧ t = { s with torus := { s.torus with ports := t.torus.ports } }) ∧
    (k.dropReason = none → (s.torus.hseqSeen (p.val % 6) k).1 = false → k.dpod = s.torus.pod → k.dpkg = s.torus.pkg →
      ∃ t, exec (.packetReceive p) s = .next t ∧ (t.torus.port p.val).inbox = r ∧ t.torus.inbox = s.torus.inbox ++ [k] ∧
        s.keeps t noByte) ∧
    (k.dropReason = none → (s.torus.hseqSeen (p.val % 6) k).1 = false → (k.dpod ≠ s.torus.pod ∨ k.dpkg ≠ s.torus.pkg) →
      s.torus.hop k.dpod k.dpkg ≠ .local_ →
      ∃ t, exec (.packetReceive p) s = .next t ∧ (t.torus.port p.val).inbox = r ∧ t.torus.inbox = s.torus.inbox ∧ s.keeps t noByte)

/-- ACK_RECEIVE, CREDIT_PACKET_RECEIVE.  -/
def Obligations.AcksAndCreditsArrive : Prop :=
  (∀ (k : Packet) (s : State), k.typ = 2 → k ∈ s.torus.inbox → (∃ a ∈ s.torus.awaits, a.rtag = k.rtag) →
    ∃ t, exec (.ackReceive k) s = .next t ∧ s.keeps t noByte ∧
      ((∀ x ∈ s.torus.later, ∀ j off l, x.act ≠ .seal j off l) → t.torus.awaits = s.torus.awaits.filter (fun a => a.rtag != k.rtag)) ∧
      (∀ x ∈ s.torus.later, x.act = .release → (∀ r ∈ x.after, r = k.rtag) → (t.dp.getUnit x.unit).held = false)) ∧
  (∀ (k : Packet) (s : State) (tag : Nat), k.typ = 3 → k ∈ s.torus.inbox → tag = bits k.tag 0 19 →
    (s.env.ofDie (tag % 512 / 128)).isSome = true → tag / 512 % 8 ≤ 4 → (s.dp.getUnit (creditUnit tag)).blocked = none →
    ∃ t, exec (.creditPacketReceive k) s = .next t ∧
      ((t.dp.getUnit (creditUnit tag)).cnt.get 0 (creditCtr tag)).toNat =
        min 65535 (((s.dp.getUnit (creditUnit tag)).cnt.get 0 (creditCtr tag)).toNat + 1) ∧
      (∀ c, c ≠ creditCtr tag → (t.dp.getUnit (creditUnit tag)).cnt.get 0 c = (s.dp.getUnit (creditUnit tag)).cnt.get 0 c) ∧
      (∀ v, v ≠ creditUnit tag → t.dp.getUnit v = s.dp.getUnit v) ∧ s.keeps t noByte ∧
      t = { s with torus := { s.torus with inbox := s.torus.inbox.erase k }, dp := t.dp })

/-- IDENT_SEND, IDENT_RECEIVE, PORT_FAIL, PORT_RETRAIN, PORT_TRAINING_DONE, WAKE_SYMBOL, COLD_SYMBOL.  -/
def Obligations.PortsFailRetrainAndSleep : Prop :=
  (∀ (p : Fin 24) (s : State), (s.torus.carries p.val = true ∨ (s.torus.port p.val).state = .training) →
    ∃ t, exec (.identSend p) s = .next t ∧ (t.torus.port p.val).state = (s.torus.port p.val).state ∧
      ((s.torus.port p.val).unacked.length < 255 → (s.torus.port p.val).txSeq ≠ (t.torus.port p.val).txSeq) ∧
      (∀ q, q ≠ p.val → t.torus.port q = s.torus.port q) ∧ t = { s with torus := { s.torus with ports := t.torus.ports } }) ∧
  (∀ (p : Fin 24) (pod : BitVec 8) (pkg : BitVec 12) (far : BitVec 8) (s : State),
    (pod.toNat = s.torus.nbPod (p.val % 6) → pkg.toNat = s.torus.nbPkg (p.val % 6) →
      far.toNat = 6 * (p.val / 6) + ((p.val % 6) ^^^ 1) → exec (.identReceive p pod pkg far) s = .next s) ∧
    (s.torus.nbValid (p.val % 6) = true → s.portTested p.val = false → (s.torus.port p.val).state = .training →
      (pod.toNat ≠ s.torus.nbPod (p.val % 6) ∨ pkg.toNat ≠ s.torus.nbPkg (p.val % 6) ∨
        far.toNat ≠ 6 * (p.val / 6) + ((p.val % 6) ^^^ 1)) →
      ∃ t, exec (.identReceive p pod pkg far) s = .next t ∧ (t.torus.port p.val).state = .miswired ∧
        (∀ q, q ≠ p.val → t.torus.port q = s.torus.port q) ∧ t.dp.fr.last = s.dp.fr.last + 1 ∧ s.keeps t noByte)) ∧
  (∀ (p : Fin 24) (cond : Fin 5) (also : List (Fin 24)) (s : State), s.torus.carries p.val = true →
    ((s.torus.port p.val).coldSeen = true → ∃ t, exec (.portFail ⟨p, also⟩ cond) s = .next t ∧ (t.torus.port p.val).state = .down ∧
      (t.torus.port p.val).failCnt = (s.torus.port p.val).failCnt ∧
      ((∀ q ∈ also, s.torus.carries q.val = true → (s.torus.port q.val).coldSeen = true) → t.dp.fr = s.dp.fr) ∧
      (∀ q, q ≠ p.val → (∀ r ∈ also, r.val ≠ q) → (t.torus.port q).state = (s.torus.port q).state) ∧ s.keeps t noByte) ∧
    ((s.torus.port p.val).coldSeen = false → ∃ t, exec (.portFail ⟨p, also⟩ cond) s = .next t ∧
      (t.torus.port p.val).state = (if cond.val = 4 then .miswired else .failed) ∧ (t.torus.port p.val).unacked = [] ∧
      (t.torus.port p.val).failCnt = satAdd (s.torus.port p.val).failCnt 1 ∧ t.dp.fr.last ≠ s.dp.fr.last ∧
      (also = [] → (∃ q ∈ s.torus.carryOf (p.val % 6), q ≠ p.val) → t.dp.fr.last = s.dp.fr.last + 1) ∧
      (∀ q, q ≠ p.val → (∀ r ∈ also, r.val ≠ q) → (t.torus.port q).state = (s.torus.port q).state) ∧ s.keeps t noByte)) ∧
  (∀ (p : Fin 24) (asym : BitVec 32) (s : State), (s.torus.port p.val).state = .failed → (s.torus.port p.val).stuck = false →
    s.portTested p.val = false →
    exec (.portRetrain p ⟨true, asym⟩) s = .next (s.setPort p.val (fun x => { x with ready := true, asym := asym }))) ∧
  (∀ (p : Fin 24) (asym : BitVec 32) (s : State), (s.torus.port p.val).state = .training → s.torus.nbValid (p.val % 6) = true →
    s.portTested p.val = false →
    ∃ t, exec (.portTrainingDone ⟨p, asym⟩) s = .next t ∧ (t.torus.port p.val).state = .live ∧ (t.torus.port p.val).coldSeen = false ∧
      (t.torus.port p.val).asym = asym ∧ s.keeps t noByte ∧
      (s.torus.waiting = [] → (s.torus.port p.val).out = [] →
        t.torus.port p.val = { (s.torus.port p.val).cut with state := .live, coldSeen := false, coldSent := false, asym := asym } ∧
        (∀ q, q ≠ p.val → t.torus.port q = s.torus.port q) ∧ t = { s with torus := { s.torus with ports := t.torus.ports } })) ∧
  (∀ (p : Fin 24) (s : State),
    ((s.torus.port p.val).state = .lock → ∃ t, exec (.wakeSymbol p) s = .next t ∧ (t.torus.port p.val).state = .live ∧
      (∀ q, q ≠ p.val → t.torus.port q = s.torus.port q) ∧ t = { s with torus := { s.torus with ports := t.torus.ports } }) ∧
    exec (.coldSymbol p) s = .next (s.setPort p.val (fun x => { x with coldSeen := true })))

/-- RC registers of the time, contract, memory, torus, edge, fault, self-test, power and Scroll blocks. -/
def rcOffsets : List (BitVec 16) :=
  [0x44C, 0x464, 0x468, 0x46C, 0x4DC, 0x4E0, 0x4E4, 0x830, 0x834, 0x838, 0xA1C, 0xA20, 0xA24, 0xA54, 0x1030, 0x1034, 0x103C, 0x1044,
   0x104C, 0x1098, 0x109C, 0x10A8, 0x128C, 0x1290, 0x1294, 0x1298, 0x129C, 0x12A0, 0x13D0, 0x13D4, 0x13D8, 0x13DC]

/-- Registers whose read has no side effect. -/
def plainOffsets : List (BitVec 16) :=
  [0x0, 0x4, 0x8, 0xC, 0x400, 0x440, 0x444, 0x448, 0x480, 0x484, 0x4C0, 0x804, 0x808, 0x80C, 0xA00, 0xA04, 0xA08, 0xA48, 0x1008, 0x100C, 0x1028,
   0x102C, 0x1038, 0x1040, 0x1048, 0x1080, 0x1084, 0x1088, 0x10C0, 0x10C8, 0x1104, 0x1144, 0x1184, 0x11C4, 0x1204, 0x1208, 0x1244, 0x1280,
   0x1284, 0x12A4, 0x12AC, 0x12C4, 0x13C4, 0x2000, 0x2010]

/-- Low words of pairs at offsets that are a multiple of 8. -/
def pairOffsets : List (BitVec 16) := [0x490, 0x900, 0x908, 0x910, 0x1000, 0x1018, 0x1020, 0x1060, 0x10A0, 0x1220]

/-- READ_CLEAR_REGISTER: a read answers the register; an RC register is cleared by it, another is not.  -/
def Obligations.RegisterReadsAnswerAndClear : Prop :=
  (∀ (o : BitVec 16) (s : State), o ∈ rcOffsets →
    ∃ t, exec (.readClearRegister ⟨o, false⟩) s = .next t ∧ t.out.rdata = BitVec.ofNat 64 (s.regRead o.toNat) ∧ t.regRead o.toNat = 0 ∧
      t.dp.mem.cells = s.dp.mem.cells ∧ t.scr = s.scr ∧ t.hp.queues = s.hp.queues ∧ t.dp.units = s.dp.units ∧ t.clk.tb = s.clk.tb ∧
      t.pending = s.pending) ∧
  (∀ (o : BitVec 16) (s : State), o ∈ plainOffsets →
    exec (.readClearRegister ⟨o, false⟩) s = .next { s with out := { s.out with rdata := BitVec.ofNat 64 (s.regRead o.toNat) } }) ∧
  (∀ (o : BitVec 16) (s : State), o ∈ pairOffsets →
    (∃ t, exec (.readClearRegister ⟨o, false⟩) s = .next t ∧ t.out.rdata = BitVec.ofNat 64 (s.reg o.toNat) ∧
      t.regRead (o.toNat + 4) = s.reg (o.toNat + 4) ∧ t = { s with out := t.out, hp := { s.hp with latch := t.hp.latch } }) ∧
    exec (.readClearRegister ⟨o, true⟩) s =
      .next { s with out := { s.out with rdata := BitVec.ofNat 64 (s.reg o.toNat + 2 ^ 32 * s.reg (o.toNat + 4)) } })

/-- Registers the host cannot write. -/
def roOffsets : List (BitVec 16) :=
  [0x0, 0x8, 0xC, 0x400, 0x43C, 0x480, 0x484, 0x4C0, 0x4C8, 0x500, 0x880, 0x900, 0x1000, 0x1004, 0x1008, 0x1018, 0x1028, 0x102C, 0x1030, 0x1038,
   0x10C0, 0x10C8, 0x1104, 0x1110, 0x1144, 0x1184, 0x11C4, 0x11D0, 0x12C4, 0x13C4, 0x13D0, 0x6000, 0x7000, 0x7800, 0x8000]

/-- RW registers with their implemented bits. -/
def rwWords : List (BitVec 16 × Nat) :=
  [(0x800, 0x33F), (0xA00, 0xFFFF0F33), (0xA0C, 0xFFFFFFFF), (0xA10, 0xFFFFFFFF), (0xA80, 0x1FF), (0x1100, 0x1FF), (0x1140, 0x701FF),
   (0x1180, 0x1FF), (0x11C0, 0x1FF), (0x1200, 3), (0x12C0, 0x3F03), (0x13C0, 7), (0x2008, 0xFFFFE000), (0x200C, 0xFFFFFFFF)]

/-- RW registers that a running launch protects, with their implemented bits. -/
def rwLocked : List (BitVec 16 × Nat) :=
  [(0x444, 3), (0x450, 0xFFFFFFFF), (0x454, 0x3FFFFF), (0x458, 0xFFFF), (0x12A4, 0xFFFF)]

/-- REGISTER_WRITE: completes everywhere; RO ignores it, W1C bits are cleared by 1, RW words read back, and a launch protects its own.  -/
def Obligations.RegisterWritesFollowTheirAccessType : Prop :=
  (∀ (o : BitVec 16) (v : BitVec 32) (s : State), ∃ t, exec (.registerWrite o v) s = .next t ∧ t.pending = s.pending ∧ t.clk = s.clk ∧
    t.scr = s.scr ∧ t.dp.units = s.dp.units ∧ t.sec = s.sec ∧ t.bu = s.bu ∧ t.dp.mem.cells = s.dp.mem.cells ∧
    (∀ m, (o, m) ∈ rwWords → t.regRead o.toNat = v.toNat &&& m) ∧
    (s.launched = false → ∀ m, (o, m) ∈ rwLocked → t.regRead o.toNat = v.toNat &&& m)) ∧
  (∀ (o : BitVec 16) (v : BitVec 32) (s : State), o ∈ roOffsets → exec (.registerWrite o v) s = .next s) ∧
  (∀ (v : BitVec 32) (s : State),
    exec (.registerWrite 0x440 v) s = .next (s.onFr (fun f => { f with multi := f.multi && !(bit v 5), newRep := f.newRep && !(bit v 4) })) ∧
    (∃ t, exec (.registerWrite 0x804 v) s = .next t ∧ t = { s with pw := t.pw } ∧
      t.pw.stat = s.pw.stat - (s.pw.stat &&& (v.toNat &&& 0x7E)) ∧ t.pw.cap = s.pw.cap) ∧
    (∃ t, exec (.registerWrite 0x1080 v) s = .next t ∧ t.dp.mem.stat = s.dp.mem.stat - (s.dp.mem.stat &&& (v.toNat &&& 7)) ∧
      t.dp.mem.cells = s.dp.mem.cells ∧ s.onlyDp t) ∧
    (∃ t, exec (.registerWrite 0x1040 v) s = .next t ∧ t.regRead 0x1040 = s.regRead 0x1040 - (s.regRead 0x1040 &&& (v.toNat &&& 3)) ∧
      (∀ p, p ≠ s.hp.sels.ts.toNat → t.dp.getPart p = s.dp.getPart p) ∧ s.onlyDp t) ∧
    (∃ t, exec (.registerWrite 0x2010 v) s = .next t ∧ t.hp.err = s.hp.err - (s.hp.err &&& (v.toNat &&& 0xF)) ∧
      t.hp.queues = s.hp.queues ∧ t = { s with hp := t.hp }) ∧
    (∃ t, exec (.registerWrite 0x1100 v) s = .next t ∧ t.regRead 0x1100 = v.toNat % 512 ∧ t.dp = s.dp ∧ t.hp.queues = s.hp.queues) ∧
    (s.launched = false → ∃ t, exec (.registerWrite 0x12A4 v) s = .next t ∧ t.regRead 0x12A4 = v.toNat % 2 ^ 16 ∧
      t.torus.ports = s.torus.ports ∧ t.dp = s.dp) ∧
    (s.launched = true →
      exec (.registerWrite 0x12A4 v) s = .next (s.onTorus (fun t => { t with vcwRej := true })) ∧
      exec (.registerWrite 0x1088 v) s = .next (s.onMemB (fun m => { m with cfgRej := true }))))

/-- HOST_MEM_READ: whole lines, zeros outside the window, poison for an uncorrectable error; HDM_COMMIT, PATROL_READ.  -/
def Obligations.HostAndPatrolReadsAndTheDecoder : Prop :=
  (∀ (a : BitVec 48) (s : State),
    (s.inHostWindow a.toNat = false →
      exec (.hostMemRead a) s = .next { s with out := { s.out with line := 0, poison := false } }) ∧
    (s.inHostWindow a.toNat = true → s.hostWindow a.toNat = none → ∃ t, exec (.hostMemRead a) s = .next t ∧
      t.out.line = 0 ∧ t.out.poison = false ∧ t.dp.mem.unmapped = true ∧ t.dp.mem.unmapCnt = satAdd s.dp.mem.unmapCnt 1 ∧
      t.dp.mem.cells = s.dp.mem.cells ∧ t.dp.fr = s.dp.fr) ∧
    (∀ l, s.hostWindow a.toNat = some l → s.hostHeld (a.toNat / 64 * 64) 1 = true → exec (.hostMemRead a) s = .next s) ∧
    (∀ l, s.hostWindow a.toNat = some l → s.hostHeld (a.toNat / 64 * 64) 1 = false →
      (s.dp.mem.marks.get .none (s.dp.mem.key l / 64) = .none → ∃ t, exec (.hostMemRead a) s = .next t ∧
        t.out.line.toNat = readBytes s.dp.mem.cells (s.dp.mem.key l) 64 ∧ t.out.poison = false ∧
        t = { s with out := t.out, dp := { s.dp with edgeTx := t.dp.edgeTx, edgeRx := t.dp.edgeRx, mem := { s.dp.mem with snoop := t.dp.mem.snoop, backInv := t.dp.mem.backInv } } }) ∧
      (s.dp.mem.marks.get .none (s.dp.mem.key l / 64) = .ce → ∃ t, exec (.hostMemRead a) s = .next t ∧
        t.out.line.toNat = readBytes s.dp.mem.cells (s.dp.mem.key l) 64 ∧ t.out.poison = false ∧
        t.dp.mem.ceCnt = satAdd s.dp.mem.ceCnt 1 ∧ t.dp.mem.cells = s.dp.mem.cells ∧ t.dp.fr = s.dp.fr) ∧
      (s.dp.mem.marks.get .none (s.dp.mem.key l / 64) = .ue → ∃ t, exec (.hostMemRead a) s = .next t ∧
        t.out.line = 0 ∧ t.out.poison = true ∧ t.dp.mem.ue = true ∧ t.dp.mem.ueCnt = satAdd s.dp.mem.ueCnt 1 ∧
        t.dp.mem.cells = s.dp.mem.cells ∧ t.dp.fr = s.dp.fr))) ∧
  ((∀ (skip size : BitVec 64) (s : State),
    (skip.toNat % 2 ^ 30 = 0 → size.toNat % 2 ^ 30 = 0 → skip.toNat + size.toNat ≤ 768 * 2 ^ 30 → s.launched = false →
      exec (.hdmCommit skip size) s = .next (({ s with hp := { s.hp with hdmErr := false } }).onMem (fun m => { m with
        hdmBase := BitVec.ofNat 16 (skip.toNat / 2 ^ 30), hdmSize := BitVec.ofNat 16 (size.toNat / 2 ^ 30) }))) ∧
    ((skip.toNat % 2 ^ 30 ≠ 0 ∨ size.toNat % 2 ^ 30 ≠ 0 ∨ 768 * 2 ^ 30 < skip.toNat + size.toNat ∨ s.launched = true) →
      exec (.hdmCommit skip size) s = .next { s with hp := { s.hp with hdmErr := true } })) ∧
  (∀ (j : Fin 12) (o : BitVec 36) (s : State),
    exec (.patrolRead j o .good) s = .next s ∧
    ((s.pw.cold = true ∨ s.edge.lost.getLsbD (j.val / 3) = true) → ∀ f, exec (.patrolRead j o f) s = .next s) ∧
    (s.pw.cold = false → s.edge.lost.getLsbD (j.val / 3) = false →
     (∃ t, exec (.patrolRead j o .correctable) s = .next t ∧ t.dp.mem.ceCnt = satAdd s.dp.mem.ceCnt 1 ∧
      t.dp.mem.marks.get .none (hbmKey j.val (o.toNat / 64 * 64) / 64) = .none ∧ t.dp.mem.cells = s.dp.mem.cells ∧ t.dp.fr = s.dp.fr ∧
      s.onlyDp t) ∧
     (∃ t, exec (.patrolRead j o .uncorrectable) s = .next t ∧ t.dp.mem.ueCnt = satAdd s.dp.mem.ueCnt 1 ∧ t.dp.mem.ue = true ∧
      t.dp.mem.marks.get .none (hbmKey j.val (o.toNat / 64 * 64) / 64) = .ue ∧ t.dp.mem.cells = s.dp.mem.cells ∧ t.dp.fr = s.dp.fr ∧
      s.onlyDp t))))

/-- HOST_MEM_WRITE: the enabled bytes of one line, and nothing else.  -/
def Obligations.HostWritesStoreTheirBytes : Prop :=
  ∀ (a : BitVec 48) (v : BitVec 512) (be : BitVec 64) (s : State),
    (s.inHostWindow a.toNat = false → exec (.hostMemWrite a v be) s = .next s) ∧
    (s.inHostWindow a.toNat = true → s.hostWindow a.toNat = none → ∃ t, exec (.hostMemWrite a v be) s = .next t ∧ s.onlyDp t ∧
      t.dp.mem.unmapped = true ∧ t.dp.mem.unmapCnt = satAdd s.dp.mem.unmapCnt 1 ∧ t.dp.mem.cells = s.dp.mem.cells) ∧
    (∀ l, s.hostWindow a.toNat = some l → s.hostHeld (a.toNat / 64 * 64) 1 = true → exec (.hostMemWrite a v be) s = .next s) ∧
    (∀ l, s.hostWindow a.toNat = some l → s.hostHeld (a.toNat / 64 * 64) 1 = false → ∃ t, exec (.hostMemWrite a v be) s = .next t ∧ s.onlyDp t ∧
      (∀ i, i < 64 → t.dp.mem.byte (s.dp.mem.key l + i) =
        if be.getLsbD i then BitVec.ofNat 8 (bits v (8 * i) 8) else s.dp.mem.byte (s.dp.mem.key l + i)) ∧
      (∀ k, lineBytes (s.dp.mem.key l) k = false → t.dp.mem.byte k = s.dp.mem.byte k) ∧
      (be = BitVec.allOnes 64 → t.dp.mem.marks.get .none (s.dp.mem.key l / 64) = .none) ∧
      (be ≠ BitVec.allOnes 64 → t.dp.mem.marks = s.dp.mem.marks) ∧
      (∀ p ∈ s.env.parts, p.tracks s.dp.mem (a.toNat / 64 * 64) l = true → (t.dp.getPart p.part).covered = false ∧
        (t.dp.getPart p.part).hostWr = true))

/-- ADD_WRITE: each FP32 element plus its addend, rounded to nearest even.  -/
def Obligations.AddWritesAccumulate : Prop :=
  (∀ (u : BitVec 16) (fmt : Fin 3) (a : BitVec 64) (v : BitVec 512) (s : State), unitKind u.toNat ≠ 3 →
    exec (.addWrite u fmt a v) s = .next s) ∧
  (∀ (u : BitVec 16) (fmt : Fin 3) (a : BitVec 64) (v : BitVec 512) (s : State) (f : Fmt) (n : Nat) (k : Nat → Nat),
    (fmt.val = 0 → f = .bf16 ∧ n = 2) → (fmt.val = 1 → f = .fp16 ∧ n = 2) → (fmt.val = 2 → f = .fp32 ∧ n = 1) →
    s.dp.canRun s.env u.toNat = true → unitKind u.toNat = 3 → s.dp.fr.jobStop = none →
    (∀ c, c < n → ∃ l, s.dp.mem.at48 (a.toNat / 64 * 64 + 64 * c) = some l ∧ l.inDies (s.env.diesOf u.toNat) = true ∧
      s.dp.mem.inAcc l = true ∧ s.env.mayWrite u.toNat (a.toNat / 64 * 64 + 64 * c) = true ∧ s.dp.mem.key l = k c ∧
      s.dp.mem.marks.get .none (k c / 64) = .none) →
    (n = 2 → k 0 + 64 ≤ k 1 ∨ k 1 + 64 ≤ k 0) →
    ∃ t, exec (.addWrite u fmt a v) s = .next t ∧ s.onlyDp t ∧ t.dp.fr.tainted = true ∧
      (∀ c, c < n → readBytes t.dp.mem.cells (k c) 64 = packElems 32 (addLine (readBytes s.dp.mem.cells (k c) 64)
        ((List.range 16).map (fun i => f.decode (elemOf f.width v.toNat (16 * c + i))))) % 2 ^ 512) ∧
      (∀ b, (∀ c, c < n → lineBytes (k c) b = false) → t.dp.mem.byte b = s.dp.mem.byte b))

/-- A completed descriptor leaves its queue, is counted and gets one record; DESCRIPTOR_FETCH: the next descriptor of the ring, by its sequence number.  -/
def Obligations.DescriptorsAreFetchedAndRecorded : Prop :=
  (∀ (s : State) (q seq st det : Nat) (v : BitVec 64) (y : Desc), (s.getQ q).fetched.find? (fun y => y.seq == seq) = some y →
    (∀ y' , y' ∈ ((s.finish q seq st det v).getQ q).fetched ↔ y' ∈ (s.getQ q).fetched ∧ y'.seq ≠ seq) ∧
    (seq < ((s.finish q seq st det v).getQ q).doneCnt ∨ seq ∈ ((s.finish q seq st det v).getQ q).doneSet) ∧
    (s.getQ q).doneCnt ≤ ((s.finish q seq st det v).getQ q).doneCnt ∧
    ((s.finish q seq st det v).getQ q).comps = (if bit y.d 10 && st == 0 then (s.getQ q).comps else (s.getQ q).comps ++
      [⟨seq, y.d.extractLsb' 16 16, y.d.extractLsb' 0 8, bit y.d 8, BitVec.ofNat 8 st, BitVec.ofNat 32 det, v, false⟩]) ∧
    (∀ q', q' ≠ q → (s.finish q seq st det v).getQ q' = s.getQ q') ∧
    s.finish q seq st det v = { s with hp := { s.hp with queues := (s.finish q seq st det v).hp.queues } }) ∧
  (∀ (q : Fin 81) (s : State) (x : Queue), x = s.getQ q.val → x.en = true → x.stopped = false → s.hp.linkUp = true →
    (x.comps = [] ∨ x.cqRoom = true) → (∀ y ∈ x.fetched, s.typeStatus q.val y.d = none) →
    (BitVec.ofNat 32 x.fetch = x.tail → exec (.descriptorFetch q) s = .next s) ∧
    (BitVec.ofNat 32 x.fetch ≠ x.tail →
      (s.dp.mem.hostLine (x.sqBase.toNat + 64 * (x.fetch % 2 ^ x.log2.toNat)) = none →
        ∃ t, exec (.descriptorFetch q) s = .next t ∧ (t.getQ q.val).fetchErr = true ∧ (t.getQ q.val).stopped = true ∧
          (t.getQ q.val).fetch = x.fetch ∧ t.hp.errQ = true ∧ t.dp.mem = s.dp.mem) ∧
      (∀ l, s.dp.mem.hostLine (x.sqBase.toNat + 64 * (x.fetch % 2 ^ x.log2.toNat)) = some l → x.ctlOff = false →
        (s.typeStatus q.val l = none → exec (.descriptorFetch q) s =
          .next (s.setQ q.val (fun x => { x with fetch := x.fetch + 1, fetched := x.fetched ++ [⟨x.fetch, l, false⟩] }))) ∧
        (∀ st det, x.fetched = [] → s.typeStatus q.val l = some (st, det) → ∃ t, exec (.descriptorFetch q) s = .next t ∧
          (t.getQ q.val).fetched = [] ∧ (t.getQ q.val).fetch = x.fetch + 1 ∧ (t.getQ q.val).comps.length = x.comps.length + 1 ∧
          t = { s with hp := { s.hp with queues := t.hp.queues } }))))

/-- DOORBELL_SNOOP, DOORBELL_POLL: the doorbell line of an enabled queue is read.  -/
def Obligations.DoorbellsMoveTailAndHead : Prop :=
  (∀ (q : Fin 81) (st : List HostStore) (s : State),
    ∃ t, exec (.doorbellSnoop q st) s = .next t ∧ t.dp.mem = s.dp.mem.hostPuts st ∧ t.scr = s.scr ∧ t.dp.units = s.dp.units ∧
     t.torus = s.torus ∧ t.clk = s.clk ∧ (∀ q', q' ≠ q.val → t.getQ q' = s.getQ q') ∧
     (((s.getQ q.val).en = false ∨ s.hp.linkUp = false) → t.getQ q.val = s.getQ q.val) ∧
     ((s.getQ q.val).en = true → s.hp.linkUp = true → (s.dp.mem.hostPuts st).hostLine (s.hp.dbBase.toNat + 64 * q.val) = none →
      (t.getQ q.val).fetchErr = true ∧ (t.getQ q.val).stopped = true ∧ t.hp.errQ = true) ∧
     (∀ l, (s.getQ q.val).en = true → s.hp.linkUp = true →
      (s.dp.mem.hostPuts st).hostLine (s.hp.dbBase.toNat + 64 * q.val) = some l →
      (t.getQ q.val).cqHead = l.extractLsb' 32 32 ∧
      (((l.extractLsb' 0 32 - BitVec.ofNat 32 (s.getQ q.val).fetch).toNat ≤ 2 ^ (s.getQ q.val).log2.toNat ∧
        (l.extractLsb' 0 32 - (s.getQ q.val).tail).toNat < 2 ^ 31) → (t.getQ q.val).tail = l.extractLsb' 0 32 ∧
          (t.getQ q.val).overrun = (s.getQ q.val).overrun) ∧
      (((l.extractLsb' 0 32 - BitVec.ofNat 32 (s.getQ q.val).fetch).toNat > 2 ^ (s.getQ q.val).log2.toNat ∨
        (l.extractLsb' 0 32 - (s.getQ q.val).tail).toNat ≥ 2 ^ 31) → (t.getQ q.val).overrun = true ∧ (t.getQ q.val).stopped = true ∧
          t.hp.errQ = true)) ∧
      (∀ p, s.partOfQ q.val = some p → 0 < s.idleOf p → (t.pw.waking.get none p).isSome = true)) ∧
  (∀ (st : List HostStore) (s : State), ∃ t, exec (.doorbellPoll st) s = .next t ∧ t.dp.mem = s.dp.mem.hostPuts st ∧ t.scr = s.scr ∧
    t.dp.units = s.dp.units ∧ t.torus = s.torus ∧ t.clk = s.clk ∧ t.pw = s.pw ∧
    (∀ q, q < 81 → ((s.getQ q).en = false ∨ s.hp.linkUp = false) → t.getQ q = s.getQ q) ∧
    (∀ q, q < 81 → (s.getQ q).en = true → s.hp.linkUp = true →
      (s.dp.mem.hostPuts st).hostLine (s.hp.dbBase.toNat + 64 * q) = none → (t.getQ q).fetchErr = true ∧ (t.getQ q).stopped = true) ∧
    (∀ q l, q < 81 → (s.getQ q).en = true → s.hp.linkUp = true →
      (s.dp.mem.hostPuts st).hostLine (s.hp.dbBase.toNat + 64 * q) = some l →
      (l.extractLsb' 0 32 - BitVec.ofNat 32 (s.getQ q).fetch).toNat ≤ 2 ^ (s.getQ q).log2.toNat →
      (l.extractLsb' 0 32 - (s.getQ q).tail).toNat < 2 ^ 31 → (t.getQ q).tail = l.extractLsb' 0 32))

/-- NOP_D, FENCE_D, SIGNAL, WAKE_LAT.  -/
def Obligations.QueueDescriptorsComplete : Prop :=
  (∀ (q : Fin 81) (seq : Nat) (d : BitVec 512) (s : State), s.starts q.val seq 0x00 d → headerOk d = true →
    (bits d 64 448 = 0 → exec (.nopDescriptor q seq) s = .next (s.finish q.val seq stOk 0 0)) ∧
    (bits d 64 448 ≠ 0 → exec (.nopDescriptor q seq) s = .next (s.finish q.val seq stBadField 64 0))) ∧
  (∀ (q : Fin 81) (seq : Nat) (d : BitVec 512) (s : State), s.starts q.val seq 0x01 d → headerOk d = true →
    (bits d 64 7 ≤ 80 ∨ bits d 64 7 = 127) → bits d 64 7 ≠ q.val → bits d 71 57 = 0 → bits d 192 320 = 0 →
    (bits d 64 7 = 127 ∨ bits d 128 64 ≤ (s.getQ (bits d 64 7)).doneCnt → exec (.fenceDescriptor q seq) s = .next (s.finish q.val seq stOk 0 0)) ∧
    (bits d 64 7 ≠ 127 → (s.getQ (bits d 64 7)).doneCnt < bits d 128 64 → exec (.fenceDescriptor q seq) s = .next s)) ∧
  (∀ (q : Fin 81) (seq : Nat) (d : BitVec 512) (s : State), s.starts q.val seq 0x03 d → headerOk d = true → bits d 64 3 = 0 →
    bits d 192 320 = 0 →
    (s.hp.linkUp = true → ∃ t, exec (.signal q seq) s = .next t ∧ readBytes t.dp.mem.host (bits d 64 64) 8 = bits d 128 64 ∧
      (∀ a, a < bits d 64 64 ∨ bits d 64 64 + 8 ≤ a → t.dp.mem.hostByte a = s.dp.mem.hostByte a) ∧ t.hp = (s.finish q.val seq stOk 0 0).hp ∧
      t = { s with hp := t.hp, dp := { s.dp with mem := { s.dp.mem with host := t.dp.mem.host } } }) ∧
    (s.hp.linkUp = false → exec (.signal q seq) s = .next s)) ∧
  (∀ (q : Fin 81) (seq : Nat) (d : BitVec 512) (s : State), s.starts q.val seq 0x33 d → headerOk d = true → bits d 66 30 = 0 →
    bits d 128 384 = 0 →
    ∃ t, exec (.wakeLat q seq) s = .next t ∧ (t.getPartn (bits d 64 2)).lat.toNat = bits d 96 32 ∧
      (t.getPartn (bits d 64 2)).dies = (s.getPartn (bits d 64 2)).dies ∧ (t.getPartn (bits d 64 2)).launch = (s.getPartn (bits d 64 2)).launch ∧
      t.hp.queues = (s.finish q.val seq stOk 0 (BitVec.ofNat 64 (deepest (bits d 96 32)))).hp.queues ∧ t.dp = s.dp)

/-- The fields COPY_IN, COPY_OUT and FILL share are valid. -/
def copyFieldsOk (d : BitVec 512) : Bool :=
  headerOk d && bits d 128 6 == 0 && bits d 176 16 == 0 && bits d 192 6 == 0 && bits d 192 32 != 0 && bits d 224 288 == 0

/-- Line `i` of the package range at `a` lies at key `k i`, without an error, and the lines do not overlap. -/
def rangeKeys (m : Mem) (a n : Nat) (k : Nat → Nat) : Prop :=
  (∀ i, i < n → ∃ l, m.resolve (a + 64 * i) = some l ∧ m.key l = k i ∧ m.marks.get .none (k i / 64) = .none) ∧
    ∀ i j, i < n → j < n → i ≠ j → k i + 64 ≤ k j ∨ k j + 64 ≤ k i

/-- COPY_IN, COPY_OUT, FILL: every line of the range, and no other byte.  -/
def Obligations.CopiesAndFillsMoveLines : Prop :=
  (∀ (q : Fin 81) (seq : Nat) (d : BitVec 512) (s : State) (n : Nat) (k : Nat → Nat), s.starts q.val seq 0x10 d → copyFieldsOk d = true →
    bits d 64 6 = 0 → s.hp.linkUp = true → n = bits d 192 32 / 64 →
    (rangeOk s.dp.mem (s.diesOfQ q.val) (bits d 128 48) n = false →
      exec (.copyIn q seq) s = .next (s.finish q.val seq stBadAddr 0 0)) ∧
    (rangeOk s.dp.mem (s.diesOfQ q.val) (bits d 128 48) n = true → 2 ^ 64 < bits d 64 64 + 64 * n →
      exec (.copyIn q seq) s = .next (s.finish q.val seq stBadAddr 1 0)) ∧
    (rangeOk s.dp.mem (s.diesOfQ q.val) (bits d 128 48) n = true → bits d 64 64 + 64 * n ≤ 2 ^ 64 →
      s.hostHeld (bits d 128 48) n = true → exec (.copyIn q seq) s = .next s) ∧
    (rangeOk s.dp.mem (s.diesOfQ q.val) (bits d 128 48) n = true → bits d 64 64 + 64 * n ≤ 2 ^ 64 →
      s.hostHeld (bits d 128 48) n = false → rangeKeys s.dp.mem (bits d 128 48) n k →
      (∀ i, i < n → s.dp.mem.poison.contains (bits d 64 64 / 64 + i) = false) →
      ∃ t, exec (.copyIn q seq) s = .next t ∧
        (∀ i b, i < n → b < 64 → t.dp.mem.byte (k i + b) = s.dp.mem.hostByte (bits d 64 64 + 64 * i + b)) ∧
        (∀ b, (∀ i, i < n → lineBytes (k i) b = false) → t.dp.mem.byte b = s.dp.mem.byte b) ∧ t.dp.mem.host = s.dp.mem.host ∧
        t.hp = (s.finish q.val seq stOk 0 (BitVec.ofNat 64 (64 * n))).hp)) ∧
  (∀ (q : Fin 81) (seq : Nat) (d : BitVec 512) (s : State) (n : Nat) (k : Nat → Nat), s.starts q.val seq 0x11 d → copyFieldsOk d = true →
    bits d 64 6 = 0 → s.hp.linkUp = true → n = bits d 192 32 / 64 →
    (rangeOk s.dp.mem (s.diesOfQ q.val) (bits d 128 48) n = false →
      exec (.copyOut q seq) s = .next (s.finish q.val seq stBadAddr 0 0)) ∧
    (rangeOk s.dp.mem (s.diesOfQ q.val) (bits d 128 48) n = true → 2 ^ 64 < bits d 64 64 + 64 * n →
      exec (.copyOut q seq) s = .next (s.finish q.val seq stBadAddr 1 0)) ∧
    (rangeOk s.dp.mem (s.diesOfQ q.val) (bits d 128 48) n = true → bits d 64 64 + 64 * n ≤ 2 ^ 64 →
      s.hostHeld (bits d 128 48) n = true → exec (.copyOut q seq) s = .next s) ∧
    (rangeOk s.dp.mem (s.diesOfQ q.val) (bits d 128 48) n = true → bits d 64 64 + 64 * n ≤ 2 ^ 64 →
      s.hostHeld (bits d 128 48) n = false → rangeKeys s.dp.mem (bits d 128 48) n k →
      ∃ t, exec (.copyOut q seq) s = .next t ∧
        (∀ i b, i < n → b < 64 → t.dp.mem.hostByte (bits d 64 64 + 64 * i + b) = s.dp.mem.byte (k i + b)) ∧
        (∀ a, a < bits d 64 64 ∨ bits d 64 64 + 64 * n ≤ a → t.dp.mem.hostByte a = s.dp.mem.hostByte a) ∧ t.dp.mem.cells = s.dp.mem.cells ∧
        t.hp = (s.finish q.val seq stOk 0 (BitVec.ofNat 64 (64 * n))).hp)) ∧
  (∀ (q : Fin 81) (seq : Nat) (d : BitVec 512) (s : State) (n : Nat) (k : Nat → Nat), s.starts q.val seq 0x12 d → copyFieldsOk d = true →
    n = bits d 192 32 / 64 →
    (rangeOk s.dp.mem (s.diesOfQ q.val) (bits d 128 48) n = false →
      exec (.fill q seq) s = .next (s.finish q.val seq stBadAddr 0 0)) ∧
    (rangeOk s.dp.mem (s.diesOfQ q.val) (bits d 128 48) n = true → s.hostHeld (bits d 128 48) n = true →
      exec (.fill q seq) s = .next s) ∧
    (rangeOk s.dp.mem (s.diesOfQ q.val) (bits d 128 48) n = true → s.hostHeld (bits d 128 48) n = false → rangeKeys s.dp.mem (bits d 128 48) n k →
      ∃ t, exec (.fill q seq) s = .next t ∧
        (∀ i b, i < n → b < 64 → t.dp.mem.byte (k i + b) = BitVec.ofNat 8 (bits d (64 + 8 * (b % 8)) 8)) ∧
        (∀ b, (∀ i, i < n → lineBytes (k i) b = false) → t.dp.mem.byte b = s.dp.mem.byte b) ∧ t.dp.mem.host = s.dp.mem.host ∧
        t.hp = (s.finish q.val seq stOk 0 (BitVec.ofNat 64 (64 * n))).hp))

/-- BARRIER: participants wait, and complete together.  -/
def Obligations.BarriersRendezvous : Prop :=
  (∀ (q : Fin 81) (seq : Nat) (d : BitVec 512) (s : State), s.starts q.val seq 0x02 d → headerOk d = true → bits d 68 60 = 0 →
    bit d (128 + q.val) = true → 2 ≤ ((List.range 81).filter (fun i => bit d (128 + i))).length → bits d 209 303 = 0 →
    (s.hp.rdvs.find? (fun r => r.bid == bits d 64 4) = none → ∃ t, exec (.barrier q seq) s = .next t ∧
      t.hp.rdvs = s.hp.rdvs ++ [⟨bits d 64 4, d.extractLsb' 128 81, [(q.val, seq)]⟩] ∧
      (∀ y ∈ (t.getQ q.val).fetched, y.seq = seq → y.started = true) ∧ (t.getQ q.val).comps = (s.getQ q.val).comps ∧
      (∀ q', q' ≠ q.val → t.getQ q' = s.getQ q') ∧ t = { s with hp := { s.hp with queues := t.hp.queues, rdvs := t.hp.rdvs } }) ∧
    (∀ r, s.hp.rdvs.find? (fun r => r.bid == bits d 64 4) = some r →
      (r.mask ≠ d.extractLsb' 128 81 → (∀ x ∈ r.joined, x.1 ≠ q.val) → exec (.barrier q seq) s = .next (s.finish q.val seq stBadField 128 0)) ∧
      (r.mask = d.extractLsb' 128 81 → (∀ x ∈ r.joined, x.1 ≠ q.val) →
        (∀ i, i < 81 → r.mask.getLsbD i = true → i = q.val ∨ ∃ x ∈ r.joined, x.1 = i) →
        exec (.barrier q seq) s = .next (({ s.markStarted q.val seq with hp := { (s.markStarted q.val seq).hp with
          rdvs := s.hp.rdvs.filter (fun x => x.bid != bits d 64 4) } }).finishAll (r.joined ++ [(q.val, seq)]) stOk 0)))) ∧
  (∀ (q : Fin 81) (seq : Nat) (s : State) (y : Desc) (r : Rdv), (s.getQ q.val).fetched.find? (fun y => y.seq == seq) = some y →
    (s.getQ q.val).repeats y = true → s.litFor q.val = true → s.typeStatus q.val y.d = none → s.ownerOf q.val = none →
    headerOk y.d = true → bits y.d 68 60 = 0 → bit y.d (128 + q.val) = true →
    2 ≤ ((List.range 81).filter (fun i => bit y.d (128 + i))).length → bits y.d 209 303 = 0 →
    s.hp.rdvs.find? (fun r => r.bid == bits y.d 64 4) = some r → (∃ x ∈ r.joined, x.1 = q.val) →
    exec (.barrier q seq) s = .next (s.finish q.val seq stBadField 64 0))

/-- COMPLETION_WRITE, MSIX_HOLDOFF_EXPIRY, EV_IRQ_SPACING.  -/
def Obligations.RecordsAndInterruptsReachTheHost : Prop :=
  (∀ (q : Fin 81) (s : State) (x : Queue) (c : Cqe) (r : List Cqe), x = s.getQ q.val → x.comps = c :: r →
    (∀ y ∈ x.fetched, s.typeStatus q.val y.d = none) →
    (x.cqRoom = true → s.hp.linkUp = true → x.cqBase.toNat + 32 * (x.cqTail % 2 ^ x.log2.toNat) + 32 ≤ 2 ^ 64 →
      ∃ t, exec (.completionWrite q) s = .next t ∧
        readBytes t.dp.mem.host (x.cqBase.toNat + 32 * (x.cqTail % 2 ^ x.log2.toNat)) 32 = cqeBits q.val x s.clk.tb c % 2 ^ 256 ∧
        (∀ a, a < x.cqBase.toNat + 32 * (x.cqTail % 2 ^ x.log2.toNat) ∨ x.cqBase.toNat + 32 * (x.cqTail % 2 ^ x.log2.toNat) + 32 ≤ a →
          t.dp.mem.hostByte a = s.dp.mem.hostByte a) ∧
        t.getQ q.val = { x with comps := r, cqTail := x.cqTail + 1 } ∧ (∀ q', q' ≠ q.val → t.getQ q' = s.getQ q') ∧
        t.dp.mem.cells = s.dp.mem.cells) ∧
    ((x.cqRoom = false ∨ s.hp.linkUp = false) → exec (.completionWrite q) s = .next s)) ∧
  (∀ (v : Fin 84) (s : State),
    (s.dp.irq.waiting.get 0 v.val = 0 → exec (.msixHoldoffExpiry v) s = .next s) ∧
    (s.dp.irq.waiting.get 0 v.val ≠ 0 → s.qready = true → ∃ t, exec (.msixHoldoffExpiry v) s = .next t ∧ t.dp.irq.waiting.get 0 v.val = 0 ∧
      (s.dp.irq.shut v.val = false → t.dp.irq.sent = v.val :: s.dp.irq.sent ∧ t.dp.irq.pba = s.dp.irq.pba) ∧
      (s.dp.irq.shut v.val = true → t.dp.irq.sent = s.dp.irq.sent ∧ v.val ∈ t.dp.irq.pba) ∧
      t.dp.mem = s.dp.mem ∧ t.hp = s.hp)) ∧
  (∀ s : State, (s.dp.log.irqWait = false → exec .evIrqSpacing s = .next s) ∧
    (s.dp.log.irqWait = true → ∀ t0, s.dp.log.irqLast = some t0 → s.qready = true → s.clk.running = true → t0.toNat + 100000 < 2 ^ 64 →
      s.dp.irq.shut 82 = false →
      ∃ t, exec .evIrqSpacing s = .next t ∧ t.dp.irq.sent = 82 :: s.dp.irq.sent ∧ t.dp.log.irqWait = false ∧ t.dp.mem = s.dp.mem))

/-- LOAD_SCRIPT: the slot takes the image when every check passes, else keeps what it had.  -/
def Obligations.ScriptsAreLoadedOrRefused : Prop :=
  ∀ (q : Fin 81) (seq : Nat) (d : BitVec 512) (s : State), s.starts q.val seq 0x13 d → headerOk d = true → bits d 64 6 = 0 →
    bits d 128 6 = 0 → bits d 163 349 = 0 →
    (s.hp.linkUp = false → exec (.loadScript q seq) s = .next s) ∧
    (s.hp.linkUp = true → (s.slotRuns (bits d 160 3) = true → exec (.loadScript q seq) s = .next (s.finish q.val seq stBusy 0 0)) ∧
    (s.slotRuns (bits d 160 3) = false → 2 ^ 64 < bits d 64 64 + bits d 128 32 →
      exec (.loadScript q seq) s = .next (s.finish q.val seq stBadAddr 1 0)) ∧
    (s.slotRuns (bits d 160 3) = false → bits d 64 64 + bits d 128 32 ≤ 2 ^ 64 →
      s.dp.mem.hostLines (bits d 64 64) (bits d 128 32 / 64) = none → exec (.loadScript q seq) s = .next (s.finish q.val seq stPoison 0 0)) ∧
    (∀ v, s.slotRuns (bits d 160 3) = false → bits d 64 64 + bits d 128 32 ≤ 2 ^ 64 → s.dp.mem.hostLines (bits d 64 64) (bits d 128 32 / 64) = some v →
      ((Image.mk (bits d 128 32) v).check s.capt s.dp.mem s.scr (bits d 160 3) = .ok → ∃ t, exec (.loadScript q seq) s = .next t ∧
        t.scr.slots.get none (bits d 160 3) = some ⟨bits d 128 32, v⟩ ∧
        (∀ i, i ≠ bits d 160 3 → t.scr.slots.get none i = s.scr.slots.get none i) ∧ t.scr.parts = s.scr.parts ∧
        t.hp = (s.finish q.val seq stOk 0 0).hp ∧ t.dp = s.dp) ∧
      (∀ r w, (Image.mk (bits d 128 32) v).check s.capt s.dp.mem s.scr (bits d 160 3) = .refuse r w →
        ∃ t, exec (.loadScript q seq) s = .next t ∧ t.scr.slots = s.scr.slots ∧ t.scr.lastRef = BitVec.ofNat 32 (r + w % 2 ^ 16 * 2 ^ 16) ∧
          t.hp = (s.finish q.val seq stScript (r + w % 2 ^ 16 * 2 ^ 16) 0).hp ∧ t.dp = s.dp) ∧
      (∀ o, (Image.mk (bits d 128 32) v).check s.capt s.dp.mem s.scr (bits d 160 3) = .capt o →
        exec (.loadScript q seq) s = .next (s.finish q.val seq stCapt o 0))))

/-- LAUNCH: the checks in their order, then seed, step, layout and state of the partition.  -/
def Obligations.LaunchesAreAcceptedInOrderOfChecks : Prop :=
  ∀ (q : Fin 81) (seq : Nat) (d : BitVec 512) (s : State) (p : Nat), s.starts q.val seq 0x14 d → headerOk d = true → bits d 67 61 = 0 →
    bits d 448 64 = 0 → s.partOfQ q.val = some p →
    (s.scr.slots.get none (bits d 64 3) = none → exec (.launch q seq) s = .next (s.finish q.val seq stBadField 64 0)) ∧
    (∀ g, s.scr.slots.get none (bits d 64 3) = some g →
      ((s.getPartn p).launch.isSome = true ∨ s.hp.hostOps ≠ [] → exec (.launch q seq) s = .next (s.finish q.val seq stBusy 0 0)) ∧
      ((s.getPartn p).launch = none → s.hp.hostOps = [] →
        (bits d 384 64 ≠ 0 → bits d 384 64 ≤ s.clk.stroke.toNat →
          exec (.launch q seq) s = .next (s.finish q.val seq stPassed (s.clk.stroke.toNat % 2 ^ 32) 0)) ∧
        ((bits d 384 64 = 0 ∨ s.clk.stroke.toNat < bits d 384 64) →
          (∀ r w, s.launchRefusal p g (bits d 384 64) = some (r, w) →
            exec (.launch q seq) s = .next (s.refuse q.val seq stLaunch r w)) ∧
          (s.launchRefusal p g (bits d 384 64) = none → s.usesDisabled g = true →
            exec (.launch q seq) s = .next (s.finish q.val seq stDisabled 0 0)) ∧
          (s.launchRefusal p g (bits d 384 64) = none → s.usesDisabled g = false →
            ∃ t l, exec (.launch q seq) s = .next t ∧ (t.getPartn p).launch = some l ∧ l.slot.val = bits d 64 3 ∧ l.q = q.val ∧ l.seq = seq ∧
              l.steps.toNat = bits d 320 64 ∧ l.start.toNat = bits d 384 64 ∧ l.began = false ∧ l.entry = 0 ∧ l.zeroing = true ∧
              (t.dp.getPart p).seed = d.extractLsb' 128 128 ∧ (t.dp.getPart p).step = d.extractLsb' 256 64 ∧
              (t.dp.getPart p).covered = true ∧ (t.dp.getPart p).gate = .opened ∧ (t.dp.getPart p).blot = false ∧
              (t.dp.getPart p).ls = (s.dp.getPart p).lsInit ∧
              t.dp.mem.localGib = BitVec.ofNat 8 g.localGib ∧ t.dp.mem.ilv = BitVec.ofNat 16 (1024 - 16 * g.localGib - s.dp.mem.ink.toNat) ∧
              (∀ u, g.dies.testBit (uidDie u) = true → (t.dp.getUnit u).sticky = {}) ∧
              (∀ k, k ≠ p → t.getPartn k = s.getPartn k) ∧
              ((s.dp.getPart p).lineEn = false → t.dp.mem.cells = s.dp.mem.cells)))))

/-- ZERO_FILL_DONE, STOP.  -/
def Obligations.ClearingAndStoppingALaunch : Prop :=
  (∀ (p : Fin 4) (s : State) (l : Launch) (g : Image), (s.getPartn p.val).launch = some l → s.imageOf l = some g →
    (l.zeroing = false → exec (.zeroFillDone p) s = .next s) ∧
    (l.zeroing = true → ∃ t, exec (.zeroFillDone p) s = .next t ∧ (t.getPartn p.val).launch = some { l with zeroing := false } ∧
      (∀ k a, s.dp.mem.addrOf k = some a → s.dp.mem.zeroes g a = true → t.dp.mem.byte k = 0) ∧
      (∀ k, (∀ a, s.dp.mem.addrOf k = some a → s.dp.mem.zeroes g a = false) → t.dp.mem.byte k = s.dp.mem.byte k) ∧
      (∀ k, k ≠ p.val → t.getPartn k = s.getPartn k) ∧ t.hp = s.hp)) ∧
  (∀ (q : Fin 81) (seq : Nat) (d : BitVec 512) (s : State) (p : Nat), s.starts q.val seq 0x15 d → headerOk d = true → bits d 65 447 = 0 →
    s.partOfQ q.val = some p →
    ((s.getPartn p).launch = none → exec (.stop q seq) s = .next (s.finish q.val seq stOk 1 (s.dp.getPart p).step)) ∧
    (∀ l, (s.getPartn p).launch = some l → ∃ t, exec (.stop q seq) s = .next t ∧
      (t.getPartn p).launch = some { l with stops := l.stops ++ [⟨q.val, seq, bit d 64⟩] } ∧
      (∀ k, k ≠ p → t.getPartn k = s.getPartn k) ∧ (t.getQ q.val).comps = (s.getQ q.val).comps ∧ t.dp = s.dp))

/-- STEP_CLOSE: loss scale, step and gate move on once.  -/
def Obligations.StepsClose : Prop :=
  ∀ (p : Fin 4) (s : State),
    (s.atStepEnd p.val = false → exec (.stepClose p) s = .next s) ∧
    (s.atStepEnd p.val = true → ∀ q, q = (s.dp.getPart p.val).latchGate → ∃ t, exec (.stepClose p) s = .next t ∧
      (t.dp.getPart p.val).step = q.step + 1 ∧ (t.dp.getPart p.val).gate = .opened ∧ (t.dp.getPart p.val).blot = false ∧
      (q.gate = .set → (t.dp.getPart p.val).ls = (if q.ls.toInt ≤ q.lsMin.toInt then q.lsMin else q.ls - 1) ∧
        (t.dp.getPart p.val).clean = 0 ∧ (t.dp.getPart p.val).skip = satAdd q.skip 1 ∧ (t.dp.getPart p.val).lastSkip = q.step) ∧
      (q.gate = .clear → q.grow ≠ 31 → 2 ^ q.grow.toNat ≤ q.clean.toNat + 1 →
        (t.dp.getPart p.val).ls = (if q.ls.toInt < q.lsMax.toInt then q.ls + 1 else q.ls) ∧ (t.dp.getPart p.val).clean = 0) ∧
      (q.gate = .clear → (q.grow = 31 ∨ q.clean.toNat + 1 < 2 ^ q.grow.toNat) →
        (t.dp.getPart p.val).ls = q.ls ∧ (t.dp.getPart p.val).clean = satAdd q.clean 1) ∧
      (q.gate = .opened → (t.dp.getPart p.val).ls = q.ls ∧ (t.dp.getPart p.val).clean = q.clean ∧ (t.dp.getPart p.val).skip = q.skip) ∧
      (∀ k, k ≠ p.val → t.dp.getPart k = s.dp.getPart k ∧ t.getPartn k = s.getPartn k))

/-- CG_OPEN, CG_CLOSE, COLLECTIVE.  -/
def Obligations.CollectivesNeedTheirGroup : Prop :=
  (∀ (q : Fin 81) (seq : Nat) (d : BitVec 512) (s : State), s.starts q.val seq 0x20 d → headerOk d = true →
    1 ≤ bits d 64 32 → bits d 64 32 ≤ 262144 → bits d 96 416 = 0 →
    ((s.ownerOf q.val).isSome = true ∨ s.hostOpOn q.val = true → exec (.cgOpen q seq) s = .next (s.finish q.val seq stBusy 0 0)) ∧
    (s.ownerOf q.val = none → s.hostOpOn q.val = false → ∃ t, exec (.cgOpen q seq) s = .next t ∧
      (cgValid (s.torus.cgs.get 0 (q.val - 16)) = true → cgSize (s.torus.cgs.get 0 (q.val - 16)) = bits d 64 32 →
        q.val - 16 ∈ t.torus.cgOpen ∧
        t.hp = (s.finish q.val seq stOk 0 (BitVec.ofNat 64 (cgRank (s.torus.cgs.get 0 (q.val - 16))))).hp) ∧
      (cgValid (s.torus.cgs.get 0 (q.val - 16)) = true → cgSize (s.torus.cgs.get 0 (q.val - 16)) ≠ bits d 64 32 →
        q.val - 16 ∉ t.torus.cgOpen ∧ t.hp = (s.finish q.val seq stNoPlace (cgSize (s.torus.cgs.get 0 (q.val - 16))) 0).hp) ∧
      (∀ n, n ≠ q.val - 16 → (n ∈ t.torus.cgOpen ↔ n ∈ s.torus.cgOpen)) ∧ t.torus.cgs = s.torus.cgs ∧ t.dp.mem = s.dp.mem)) ∧
  (∀ (q : Fin 81) (seq : Nat) (d : BitVec 512) (s : State), s.starts q.val seq 0x21 d → headerOk d = true → bits d 64 448 = 0 →
    s.ownerOf q.val = none → s.hostOpOn q.val = false →
    ∃ t, exec (.cgClose q seq) s = .next t ∧ q.val - 16 ∉ t.torus.cgOpen ∧
      (∀ n, n ≠ q.val - 16 → (n ∈ t.torus.cgOpen ↔ n ∈ s.torus.cgOpen)) ∧ t.hp = (s.finish q.val seq stOk 0 0).hp ∧ t.dp.mem = s.dp.mem) ∧
  (∀ (q : Fin 81) (seq : Nat) (d : BitVec 512) (s : State), s.starts q.val seq 0x22 d →
    (s.launched = true → exec (.collective q seq) s = .next s) ∧
    (s.launched = false → s.torus.cgOpen.contains (q.val - 16) = false →
      exec (.collective q seq) s = .next (s.finish q.val seq stNoPlace 0 0)) ∧
    (s.launched = false → s.torus.cgOpen.contains (q.val - 16) = true → headerOk d = true →
      bits d 64 4 ≤ 2 → (bits d 64 4 = 1 → bits d 68 2 ≠ 3) → bits d 70 26 = 0 →
      (bits d 64 4 = 2 → bits d 96 32 < s.flN (q.val - 16)) → bits d 128 6 = 0 → bits d 192 6 = 0 → bits d 256 32 % 64 = 0 →
      bits d 256 32 ≠ 0 → bits d 288 224 = 0 → bits d 128 64 < 2 ^ 48 → bits d 192 64 < 2 ^ 48 →
      hostRange s.dp.mem (bits d 128 48) ((if bits d 64 4 = 1 then s.flN (q.val - 16) else 1) * bits d 256 32 / 64) = true →
      hostRange s.dp.mem (bits d 192 48) ((if bits d 64 4 = 0 then s.flN (q.val - 16) else 1) * bits d 256 32 / 64) = true →
      (s.hostWaits (hostWord q.val (s.flN (q.val - 16)) d) = true → exec (.collective q seq) s = .next s) ∧
      (s.hostWaits (hostWord q.val (s.flN (q.val - 16)) d) = false → ∃ t, exec (.collective q seq) s = .next t ∧ ⟨q.val, seq⟩ ∈ t.hp.hostOps ∧ (∀ y ∈ (t.getQ q.val).fetched, y.seq = seq → y.started = true) ∧
        (∀ i, i < 4 → ∃ o ∈ (t.dp.getCle i).ops, o.host = some (q.val, seq) ∧ o.cg = q.val - 16) ∧ t.scr = s.scr)))

/-- QUEUE_CTL, QUEUE_CTL_APPLY, ENGINE_CTL, ENGINE_CTL_APPLY, PART_SET.  -/
def Obligations.ControlsTakeEffectAtTheBoundary : Prop :=
  (∀ (q : Fin 81) (seq : Nat) (d : BitVec 512) (s : State), s.starts q.val seq 0x30 d → headerOk d = true → bits d 64 7 < 80 →
    bits d 72 440 = 0 → (bit d 71 = true ∨ s.ownerOf (bits d 64 7) = none) →
    ∃ t, exec (.queueCtl q seq) s = .next t ∧ t.hp.qctl = s.hp.qctl ++ [⟨seq, bits d 64 7, bit d 71⟩] ∧
      (∀ k, (t.getQ k).ctlOff = (s.getQ k).ctlOff ∧ (t.getQ k).comps = (s.getQ k).comps) ∧
      t = { s with hp := { s.hp with queues := t.hp.queues, qctl := t.hp.qctl } }) ∧
  (∀ s : State, (∀ c ∈ s.hp.qctl, ∀ c' ∈ s.hp.qctl, c.seq = c'.seq → c = c') → (∀ c ∈ s.hp.qctl, c.target < 80) →
    ∃ t, exec .queueCtlApply s = .next t ∧ t.hp.qctl = [] ∧
      (∀ c ∈ s.hp.qctl, (∀ c' ∈ s.hp.qctl, c'.target = c.target → c'.seq ≤ c.seq) →
        (t.getQ c.target).ctlOff = !c.enable ∧ (c.enable = false → ∀ y ∈ (t.getQ c.target).fetched, y.started = true)) ∧
      (∀ q, (∀ c ∈ s.hp.qctl, c.target ≠ q) → (t.getQ q).ctlOff = (s.getQ q).ctlOff) ∧ t.dp = s.dp ∧ t.scr = s.scr) ∧
  (∀ (q : Fin 81) (seq : Nat) (d : BitVec 512) (s : State), s.starts q.val seq 0x31 d → headerOk d = true →
    isStreamUnit (bits d 64 16) = true → bits d 81 431 = 0 →
    ∃ t, exec (.engineCtl q seq) s = .next t ∧ t.hp.ectl = s.hp.ectl ++ [⟨seq, bits d 64 16, bit d 80⟩] ∧
      t = { s with hp := { s.hp with queues := t.hp.queues, ectl := t.hp.ectl } }) ∧
  (∀ s : State, (∀ c ∈ s.hp.ectl, ∀ c' ∈ s.hp.ectl, c.seq = c'.seq → c = c') →
    ∃ t, exec .engineCtlApply s = .next t ∧ t.hp.ectl = [] ∧
      (∀ c ∈ s.hp.ectl, (∀ c' ∈ s.hp.ectl, c'.target = c.target → c'.seq ≤ c.seq) →
        (c.enable = true → (t.dp.getUnit c.target).disabled = false ∧ (t.dp.getUnit c.target).deferred = false) ∧
        (c.enable = false → s.unitInUse c.target = true → (t.dp.getUnit c.target).deferred = true) ∧
        (c.enable = false → s.unitInUse c.target = false → (t.dp.getUnit c.target).disabled = true)) ∧
      (∀ u, (∀ c ∈ s.hp.ectl, c.target ≠ u) → t.dp.getUnit u = s.dp.getUnit u) ∧ t.dp.mem = s.dp.mem ∧ t.scr = s.scr) ∧
  (∀ (q : Fin 81) (seq : Nat) (d : BitVec 512) (s : State), s.starts q.val seq 0x32 d → headerOk d = true → bits d 66 2 = 0 →
    (bits d 68 4 = 0 ∨ diesValid (bits d 68 4) = true) → bits d 88 424 = 0 →
    ((∃ k ∈ [0, 1, 2, 3], k ≠ bits d 64 2 ∧ (s.getPartn k).dies &&& d.extractLsb' 68 4 ≠ 0) →
      exec (.partSet q seq) s = .next (s.finish q.val seq stBadField 68 0)) ∧
    ((∀ k ∈ [0, 1, 2, 3], k ≠ bits d 64 2 → (s.getPartn k).dies &&& d.extractLsb' 68 4 = 0) → s.launched = false →
      ∃ t, exec (.partSet q seq) s = .next t ∧ (t.getPartn (bits d 64 2)).dies = d.extractLsb' 68 4 ∧
        (t.getPartn (bits d 64 2)).qmask = (if bits d 68 4 = 0 then 0 else d.extractLsb' 72 16) ∧
        (∀ k ∈ [0, 1, 2, 3], k ≠ bits d 64 2 → (t.getPartn k).dies = (s.getPartn k).dies ∧
          (t.getPartn k).qmask = (s.getPartn k).qmask &&& ~~~(d.extractLsb' 72 16)) ∧
        t.hp = (s.finish q.val seq stOk 0 0).hp ∧ t.dp.mem = s.dp.mem ∧ t.dp.units = s.dp.units ∧ t.dp.part = s.dp.part))

/-- QUEUE_ENABLE, QRESET, MQRESUME, CXL_CONFIG_WRITE.  -/
def Obligations.QueuesAreEnabledResetAndResumed : Prop :=
  (∀ (q : Fin 81) (cfg : BitVec 32) (s : State),
    ((s.getQ q.val).en = true ∨ s.qready = false → exec (.queueEnable q cfg) s = .next { s with hp := { s.hp with cfgRej := true } }) ∧
    ((s.getQ q.val).en = false → s.qready = true →
      ((84 ≤ bits cfg 16 8 ∨ bits cfg 0 5 < 4 ∨ 16 < bits cfg 0 5) → ∃ t, exec (.queueEnable q cfg) s = .next t ∧ (t.getQ q.val).en = false ∧
        (t.getQ q.val).badCfg = true ∧ t.hp.errQ = true ∧ (∀ k, k ≠ q.val → t.getQ k = s.getQ k)) ∧
      (bits cfg 16 8 < 84 → 4 ≤ bits cfg 0 5 → bits cfg 0 5 ≤ 16 → ∃ t, exec (.queueEnable q cfg) s = .next t ∧ (t.getQ q.val).en = true ∧
        (t.getQ q.val).fetch = 0 ∧ (t.getQ q.val).fetched = [] ∧ (t.getQ q.val).doneCnt = 0 ∧ (t.getQ q.val).cqTail = 0 ∧
        (t.getQ q.val).log2.toNat = bits cfg 0 5 ∧ (t.getQ q.val).vector.toNat = bits cfg 16 8 ∧
        (∀ k, k ≠ q.val → t.getQ k = s.getQ k) ∧ t.dp.mem = s.dp.mem))) ∧
  (∀ s : State, (s.launched = true → exec .qreset s = .next { s with hp := { s.hp with cfgRej := true } }) ∧
    (s.launched = false → ∃ t, exec .qreset s = .next t ∧ (∀ q, q < 81 → (t.getQ q).en = false ∧ (t.getQ q).fetched = [] ∧ (t.getQ q).comps = [] ∧
        (t.getQ q).sqBase = (s.getQ q).sqBase) ∧ t.hp.rdvs = [] ∧ t.hp.qctl = [] ∧ t.hp.ectl = [] ∧ t.hp.hostOps = [] ∧
      t.dp.mem = s.dp.mem ∧ t.scr = s.scr)) ∧
  (∀ s : State, ∃ t, exec .mqresume s = .next t ∧ (t.getQ 80).overrun = false ∧ (t.getQ 80).fetchErr = false ∧
    ((s.getQ 80).overrun = true ∨ (s.getQ 80).fetchErr = true → (t.getQ 80).stopped = false) ∧
    (t.getQ 80).fetch = (s.getQ 80).fetch ∧ (∀ k, k ≠ 80 → t.getQ k = s.getQ k) ∧ t = { s with hp := { s.hp with queues := t.hp.queues } }) ∧
  (∀ (c m x f : Bool) (s : State), ∃ t, exec (.cxlConfigWrite ⟨c, m⟩ ⟨x, f⟩) s = .next t ∧ t.hp = { s.hp with cacheEn := c, memEn := m } ∧
    t.dp.irq.enable = x ∧ t.dp.irq.fmask = f ∧
    (∀ v, v < 84 → v ∈ s.dp.irq.pba → x = true → f = false → (s.dp.irq.table.get 0 (4 * v + 3)).getLsbD 0 = false → t.qready = true →
      v ∈ t.dp.irq.sent) ∧
    t = { s with hp := t.hp, dp := { s.dp with irq := t.dp.irq } })

/-- The Flue of die `d`, and the channels 7 that perform its writes to cluster memory (R345). -/
def flueWriters (d : Fin 4) (u : Nat) : Prop := u = cleUid d.val ∨ ∃ i, i < 512 ∧ u = sdUid i 7

/-- R347: the Flue of die `d` has issued the operation `w` of opcode `opc`. -/
def flueIssued (s t : State) (d : Fin 4) (w : BitVec 512) (opc : Nat) : Prop :=
  (t.dp.getCle d.val).oseq.get 0 (fCg w) = (s.dp.getCle d.val).oseq.get 0 (fCg w) + 1 ∧
    (∃ o ∈ (t.dp.getCle d.val).ops, o.cg = fCg w ∧ o.oseq = ((s.dp.getCle d.val).oseq.get 0 (fCg w)).toNat ∧ bits o.word 0 8 = opc) ∧
    (t.dp.getUnit (cleUid d.val)).idx = (s.dp.getUnit (cleUid d.val)).idx + 1 ∧ s.keepsOthers t (cleUid d.val) ∧
    (∀ k, k ≠ d.val → t.dp.getCle k = s.dp.getCle k) ∧ s.keepsWindows t (flueWriters d)

/-- AG, RS, BCAST, A2A, A2AV, A2AR, VOTE: a valid operation issues in its turn, and writes only where its Flue may.  -/
def Obligations.FlueOperationsIssue : Prop :=
  ∀ (d : Fin 4) (w : BitVec 512) (s : State), s.clean →
    (s.agValid d.val w = true → s.dispatches (cleUid d.val) 0x10 w.toNat = true →
      (s.flWaits d.val w = true → exec (.ag d w) s = .next s) ∧
      (s.flWaits d.val w = false → ∃ t, exec (.ag d w) s = .next t ∧ flueIssued s t d w 0x10)) ∧
    (s.rsValid d.val w = true → s.dispatches (cleUid d.val) 0x11 w.toNat = true →
      (s.flWaits d.val w = true → exec (.rs d w) s = .next s) ∧
      (s.flWaits d.val w = false → ∃ t, exec (.rs d w) s = .next t ∧ flueIssued s t d w 0x11)) ∧
    (s.bcastValid d.val w = true → s.dispatches (cleUid d.val) 0x12 w.toNat = true →
      (s.flWaits d.val w = true → exec (.bcast d w) s = .next s) ∧
      (s.flWaits d.val w = false → ∃ t, exec (.bcast d w) s = .next t ∧ flueIssued s t d w 0x12)) ∧
    (s.a2aValid d.val w = true → s.dispatches (cleUid d.val) 0x13 w.toNat = true →
      (s.flWaits d.val w = true → exec (.a2a d w) s = .next s) ∧
      (s.flWaits d.val w = false → ∃ t, exec (.a2a d w) s = .next t ∧ flueIssued s t d w 0x13)) ∧
    (s.a2avValid d.val w = true → s.dispatches (cleUid d.val) 0x14 w.toNat = true →
      (s.flWaits d.val w = true → exec (.a2av d w) s = .next s) ∧
      (s.flWaits d.val w = false → ∃ t, exec (.a2av d w) s = .next t ∧ flueIssued s t d w 0x14)) ∧
    (s.a2arValid d.val w = true → s.dispatches (cleUid d.val) 0x15 w.toNat = true →
      (s.flWaits d.val w = true → exec (.a2ar d w) s = .next s) ∧
      (s.flWaits d.val w = false → ∃ t, exec (.a2ar d w) s = .next t ∧ flueIssued s t d w 0x15)) ∧
    (s.voteValid d.val w = true → s.dispatches (cleUid d.val) 0x16 w.toNat = true →
      (s.flWaits d.val w = true → exec (.vote d w) s = .next s) ∧
      (s.flWaits d.val w = false → ∃ t, exec (.vote d w) s = .next t ∧ flueIssued s t d w 0x16))

/-- The FLUE packet kinds and their commands. -/
def fluePackets (d : Fin 4) (k : Packet) : List (Nat × Instr) :=
  [(0, .partPacket d k), (1, .grantPacket d k), (2, .blockPacket d k), (3, .rowPacket d k), (4, .countsPacket d k), (5, .basesPacket d k),
   (6, .flagPacket d k)]

/-- The operation of CG `cg` with number `n` in flight on a Flue of `x`. -/
def flueOp (x : Dp) (d cg n : Nat) : Option FlOp := (x.getCle d).ops.find? (fun o => o.cg == cg && o.oseq == n)

/-- GRANT, PART, BLOCK, ROW, COUNTS, BASES and FLAG packets: one of a completed operation is counted, one of a later one waits, one in place is taken.  -/
def Obligations.FluePacketsReachTheirOperation : Prop :=
  (∀ (d : Fin 4) (k : Packet) (s : State), k.typ = 4 → k ∈ s.torus.inbox → ∀ x ∈ fluePackets d k, kKind k = x.1 →
    (s.meet d.val k = .later → exec x.2 s = .next s) ∧
    (s.meet d.val k = .completed → ∃ t, exec x.2 s = .next t ∧ t.torus.inbox = s.torus.inbox.erase k ∧
      t.dp.perfOf (cleUid d.val) 0x34 = (satAdd ((s.dp.getUnit (cleUid d.val)).perf.get 0 0x34) 1).toNat ∧ t.dp.mem = s.dp.mem ∧
      t.dp.cle = s.dp.cle) ∧
    (∀ o, s.meet d.val k = .op o → o.host = none → s.clean → ∃ t, exec x.2 s = .next t ∧ s.keepsWindows t (flueWriters d))) ∧
  (∀ (d : Fin 4) (k : Packet) (s : State) (o : FlOp), k.typ = 4 → k ∈ s.torus.inbox → s.meet d.val k = .op o → kKind k = 1 →
    bits o.word 0 8 = 0x11 → kShard k < s.flN o.cg → kSlab k < o.slabs →
    (o.tree (kSlab k * s.flN o.cg + kShard k)).done = false → (o.tree (kSlab k * s.flN o.cg + kShard k)).grant = none →
    (o.tree (kSlab k * s.flN o.cg + kShard k)).readyAt = none → s.dp.fr.jobStop = none →
    (∃ y, sendStep (flPlan (s.flN o.cg) (kShard k) (s.flMe o.cg)) = some y ∧ y.pass = kPass k) →
    ∃ t o', exec (.grantPacket d k) s = .next t ∧ flueOp t.dp d.val o.cg o.oseq = some o' ∧
      (o'.tree (kSlab k * s.flN o.cg + kShard k)).grant = some (kLane k) ∧ t.dp.mem = s.dp.mem) ∧
  (∀ (d : Fin 4) (k : Packet) (s : State) (o : FlOp), k.typ = 4 → k ∈ s.torus.inbox → s.meet d.val k = .op o → kKind k = 2 →
    ((bits o.word 0 8 = 0x10 ∧ kShard k < s.flN o.cg) ∨ (bits o.word 0 8 = 0x12 ∧ kShard k = fRoot o.word)) → kShard k ≠ s.flMe o.cg →
    k.addr % 64 = 0 → o.blockAt (kShard k) ≤ k.addr → k.addr + 64 * k.lines.length ≤ o.blockAt (kShard k) + o.count →
    ∃ t o', exec (.blockPacket d k) s = .next t ∧ flueOp t.dp d.val o.cg o.oseq = some o' ∧
      o'.got.get 0 (kShard k) = o.got.get 0 (kShard k) + k.lines.length ∧ t.dp.fr.tainted = true) ∧
  (∀ (d : Fin 4) (k : Packet) (s : State) (o : FlOp), k.typ = 4 → k ∈ s.torus.inbox → s.meet d.val k = .op o → kKind k = 4 →
    bits o.word 0 8 = 0x14 → kShard k < s.flN o.cg → o.counts.get none (kShard k) = none →
    ∃ t o', exec (.countsPacket d k) s = .next t ∧ flueOp t.dp d.val o.cg o.oseq = some o' ∧
      o'.counts.get none (kShard k) = some (bits k.tag 0 32)) ∧
  (∀ (d : Fin 4) (k : Packet) (s : State) (o : FlOp), k.typ = 4 → k ∈ s.torus.inbox → s.meet d.val k = .op o → kKind k = 5 →
    bits o.word 0 8 = 0x14 → kShard k < s.flN o.cg → o.bases.get none (kShard k) = none →
    ∃ t o', exec (.basesPacket d k) s = .next t ∧ flueOp t.dp d.val o.cg o.oseq = some o' ∧
      o'.bases.get none (kShard k) = some (bits k.tag 0 32, bits k.tag 32 32)) ∧
  (∀ (d : Fin 4) (k : Packet) (s : State) (o : FlOp), k.typ = 4 → k ∈ s.torus.inbox → s.meet d.val k = .op o → kKind k = 6 →
    bits o.word 0 8 = 0x16 → kPass k < passes (s.flN o.cg) → kPass k ∈ upPasses (s.flN o.cg) (s.flMe o.cg) → kPass k ∉ o.ups → s.dp.fr.jobStop = none →
    ∃ t o', exec (.flagPacket d k) s = .next t ∧ flueOp t.dp d.val o.cg o.oseq = some o' ∧ kPass k ∈ o'.ups ∧
      o'.bit = (o.bit || kFlag k) ∧ t.dp.mem = s.dp.mem) ∧
  (∀ (d : Fin 4) (k : Packet) (s : State) (o : FlOp) (e : Nat), k.typ = 4 → k ∈ s.torus.inbox → s.meet d.val k = .op o → kKind k = 3 →
    kShard k < s.flN o.cg → k.addr % 64 = 0 → fDst o.word ≤ k.addr →
    ((bits o.word 0 8 = 0x13 ∧ k.addr + 64 * k.lines.length ≤ fDst o.word + s.flN o.cg * fCap o.word * fCount o.word) ∨
      (bits o.word 0 8 = 0x14 ∧ k.addr + 64 * k.lines.length ≤ fDst o.word + fRcap o.word * fCount o.word) ∨
      (bits o.word 0 8 = 0x15 ∧ k.addr + 64 * k.lines.length ≤ fDst o.word + fCount o.word ∧ o.entryOf (kShard k) (kSlab k) = some e)) →
    ∃ t o', exec (.rowPacket d k) s = .next t ∧ flueOp t.dp d.val o.cg o.oseq = some o' ∧
      o'.got.get 0 (kShard k) = o.got.get 0 (kShard k) + k.lines.length ∧ (kLast k = true → kShard k ∈ o'.last)) ∧
  (∀ (d : Fin 4) (k : Packet) (s : State) (o : FlOp) (i : Nat), k.typ = 4 → k ∈ s.torus.inbox → s.meet d.val k = .op o → kKind k = 0 →
    bits o.word 0 8 = 0x11 → kShard k < s.flN o.cg → kSlab k < o.slabs →
    ((recvSteps (flPlan (s.flN o.cg) (kShard k) (s.flMe o.cg))).zipIdx.find? (fun y => y.1.pass == kPass k)).map (·.2) = some i →
    (o.tree (kSlab k * s.flN o.cg + kShard k)).lanes ≠ [] →
    (o.tree (kSlab k * s.flN o.cg + kShard k)).lanes.getD (i + 1) 0 = kLane k → k.addr % 64 = 0 →
    k.addr + 64 * k.lines.length ≤ o.slabBytes (kSlab k) → (o.tree (kSlab k * s.flN o.cg + kShard k)).full.contains i = false →
    ((o.tree (kSlab k * s.flN o.cg + kShard k)).got.get 0 i + k.lines.length) * 64 < o.slabBytes (kSlab k) →
    ∃ t o', exec (.partPacket d k) s = .next t ∧ flueOp t.dp d.val o.cg o.oseq = some o' ∧
      (o'.tree (kSlab k * s.flN o.cg + kShard k)).got.get 0 i = (o.tree (kSlab k * s.flN o.cg + kShard k)).got.get 0 i + k.lines.length)

/-- FLUE_OP_COMPLETE: only the oldest operation of its group, with everything in, completes.  -/
def Obligations.FlueOperationsComplete : Prop :=
  ∀ (d : Fin 4) (cg : Fin 64) (oseq : BitVec 64) (s : State),
    ((s.dp.getCle d.val).ops.find? (fun o => o.cg == cg.val) = none → exec (.flueOpComplete d cg oseq) s = .next s) ∧
    (∀ o, (s.dp.getCle d.val).ops.find? (fun o => o.cg == cg.val) = some o →
      (o.oseq ≠ oseq.toNat ∨ s.dp.fr.voided = true ∨ s.flAllIn o = false ∨ (∃ a ∈ s.torus.awaits, a.rtag ∈ o.rtags) →
        exec (.flueOpComplete d cg oseq) s = .next s) ∧
      (o.oseq = oseq.toNat → s.dp.fr.voided = false → s.flAllIn o = true → (∀ a ∈ s.torus.awaits, a.rtag ∉ o.rtags) →
        ∃ t, exec (.flueOpComplete d cg oseq) s = .next t ∧ (∀ x ∈ (t.dp.getCle d.val).ops, ¬ (x.cg = cg.val ∧ x.oseq = oseq.toNat)) ∧
          (∀ x, (x.cg ≠ cg.val ∨ x.oseq ≠ oseq.toNat) → (x ∈ (t.dp.getCle d.val).ops ↔ x ∈ (s.dp.getCle d.val).ops)) ∧
          (∀ k, k ≠ d.val → t.dp.getCle k = s.dp.getCle k) ∧ (o.host = none → s.keepsWindows t (flueWriters d))))

/-- SEGMENT_FETCH_DONE, NOP, WAIT, CREDIT_ARRIVAL, POST, FENCE.  -/
def Obligations.StreamUnitsWaitPostAndFence : Prop :=
  (∀ (u : BitVec 16) (s : State), isStreamUnit u.toNat = true → ∃ t, exec (.segmentFetchDone u) s = .next t ∧
    ((s.dp.getUnit u.toNat).fetchLate = true → t.dp.getUnit u.toNat = { s.dp.getUnit u.toNat with fetchLate := false }) ∧
    ((s.dp.getUnit u.toNat).fetchLate = false → t.dp.getUnit u.toNat = { s.dp.getUnit u.toNat with fetched := true }) ∧
    (∀ v, v ≠ u.toNat → t.dp.getUnit v = s.dp.getUnit v) ∧ t = { s with dp := { s.dp with units := t.dp.units } }) ∧
  (∀ (u : BitVec 16) (w : BitVec 512) (s : State), isStreamUnit u.toNat = true →
    s.dp.runs s.env u.toNat (unitOpcode (unitKind u.toNat) w.toNat) w.toNat = false → exec (decodeUnit u w) s = .next s) ∧
  (∀ (u : BitVec 16) (w : BitVec 512) (s : State),
    (s.dispatches u.toNat 0 w.toNat = true →
      (bits w 0 (8 * instrBytes u.toNat) = 0 → exec (.nop u w) s = .next { s with dp := s.dp.advance u.toNat }) ∧
      (bits w 0 (8 * instrBytes u.toNat) ≠ 0 → ∃ t, exec (.nop u w) s = .next t ∧ s.ranDp t u.toNat ∧
        (t.dp.getUnit u.toNat).sticky.ill = satAdd (s.dp.getUnit u.toNat).sticky.ill 1 ∧
        (t.dp.getUnit u.toNat).cnt = (s.dp.getUnit u.toNat).cnt ∧ s.keeps t noByte)) ∧
    (s.dispatches u.toNat 1 w.toNat = true →
      (waitValid u.toNat w = true → ∃ t, exec (.wait u w) s = .next t ∧ s.ranDp t u.toNat ∧ s.keeps t noByte ∧
        (bits w 16 16 ≤ ((s.dp.getUnit u.toNat).cnt.get 0 (bits w 8 4)).toNat → (t.dp.getUnit u.toNat).blocked = none ∧
          ((t.dp.getUnit u.toNat).cnt.get 0 (bits w 8 4)).toNat = ((s.dp.getUnit u.toNat).cnt.get 0 (bits w 8 4)).toNat - bits w 16 16) ∧
        (((s.dp.getUnit u.toNat).cnt.get 0 (bits w 8 4)).toNat < bits w 16 16 → (t.dp.getUnit u.toNat).blocked = some (bits w 8 4, bits w 16 16) ∧
          (t.dp.getUnit u.toNat).cnt = (s.dp.getUnit u.toNat).cnt))) ∧
    (s.dispatches u.toNat 2 w.toNat = true →
      (∀ v, postValid u.toNat w = true → s.awaitsOf u.toNat = [] → v = cuid (uidCluster u.toNat) (bits w 12 3) (bits w 32 3) →
        (s.dp.getUnit v).blocked = none → ∃ t, exec (.post u w) s = .next t ∧ s.ranDp t u.toNat ∧ s.keeps t noByte ∧
          ((t.dp.getUnit v).cnt.get 0 (bits w 8 4)).toNat = min 65535 (((s.dp.getUnit v).cnt.get 0 (bits w 8 4)).toNat + bits w 16 16) ∧
          (∀ x, x ≠ v → (t.dp.getUnit x).cnt = (s.dp.getUnit x).cnt)) ∧
      (postValid u.toNat w = true → s.awaitsOf u.toNat ≠ [] → ∃ t, exec (.post u w) s = .next t ∧ t.torus.later = s.torus.later ++
        [⟨u.toNat, s.awaitsOf u.toNat, .credit (cuid (uidCluster u.toNat) (bits w 12 3) (bits w 32 3)) (bits w 8 4) (bits w 16 16)⟩] ∧
        t = { s with dp := s.dp.advance u.toNat, torus := { s.torus with later := t.torus.later } })) ∧
    (s.dispatches u.toNat 3 w.toNat = true →
      (bits w 10 (8 * instrBytes u.toNat - 10) = 0 → s.dp.working u.toNat = true → exec (.fence u w) s = .next s) ∧
      (bits w 10 (8 * instrBytes u.toNat - 10) = 0 → s.dp.working u.toNat = false → (bits w 8 2 < 2 ∨ s.awaitsOf u.toNat = []) →
        exec (.fence u w) s = .next { s with dp := s.dp.advance u.toNat }) ∧
      (bits w 10 (8 * instrBytes u.toNat - 10) = 0 → s.dp.working u.toNat = false → 2 ≤ bits w 8 2 → s.awaitsOf u.toNat ≠ [] → ∃ t, exec (.fence u w) s = .next t ∧
        (t.dp.getUnit u.toNat).held = true ∧ t.torus.later = s.torus.later ++ [⟨u.toNat, s.awaitsOf u.toNat, .release⟩] ∧
        t.dp.mem = s.dp.mem))) ∧
  (∀ (u : BitVec 16) (ctr : Fin 16) (n src : BitVec 16) (s : State), isClusterUnit u.toNat = true → isStreamUnit src.toNat = true →
    ∃ t, exec (.creditArrival u ctr n src) s = .next t ∧ s.onlyDp t ∧ s.keeps t noByte ∧ (∀ v, v ≠ u.toNat → t.dp.getUnit v = s.dp.getUnit v) ∧
      ((s.dp.getUnit u.toNat).blocked = none → ((t.dp.getUnit u.toNat).cnt.get 0 ctr.val).toNat =
        min 65535 (((s.dp.getUnit u.toNat).cnt.get 0 ctr.val).toNat + n.toNat)) ∧
      (∀ m, (s.dp.getUnit u.toNat).blocked = some (ctr.val, m) →
        m ≤ min 65535 (((s.dp.getUnit u.toNat).cnt.get 0 ctr.val).toNat + n.toNat) → (t.dp.getUnit u.toNat).blocked = none ∧
          ((t.dp.getUnit u.toNat).cnt.get 0 ctr.val).toNat = min 65535 (((s.dp.getUnit u.toNat).cnt.get 0 ctr.val).toNat + n.toNat) - m)) ∧
  (∀ (u : BitVec 16) (ctr : Fin 16) (n src : BitVec 16) (s : State), (isClusterUnit u.toNat && isStreamUnit src.toNat) = false →
    exec (.creditArrival u ctr n src) s = .next s)

/-- Key of accumulator row `r` of cluster `c`, of `f` elements, and its bytes. -/
def accRow (c : Nat) (f : Fmt) (r : Nat) : Nat := accKey c (r * (8 * f.width))

/-- Every line of accumulator rows `r` to `r + n − 1` of cluster `c` may be written by its array. -/
def rowsOpen (s : State) (c : Nat) (f : Fmt) (r n : Nat) : Prop :=
  ∀ o, r * (8 * f.width) ≤ o → o < (r + n) * (8 * f.width) → s.env.mayWrite (mxaUid c) (accAddr c (o / 64 * 64)) = true

/-- LOADW, MMA, ABCAST, CNTST.  -/
def Obligations.MatrixArrayComputes : Prop :=
  (∀ (c : Fin 512) (w : BitVec 128) (s : State), s.dispatches (mxaUid c.val) 0x10 w.toNat = true → loadwValid w = true → s.clean →
    ∃ t, exec (.loadw c w) s = .next t ∧ s.ranDp t (mxaUid c.val) ∧ t.dp.mem.cells = s.dp.mem.cells ∧
      (∀ b, b ≠ bit w 8 → (t.dp.getMxa c.val).buf b = (s.dp.getMxa c.val).buf b) ∧
      ((t.dp.getMxa c.val).buf (bit w 8)).loaded = true ∧ ((t.dp.getMxa c.val).buf (bit w 8)).fmt = bits w 9 3 ∧
      ((t.dp.getMxa c.val).buf (bit w 8)).kr = bits w 16 6 ∧ ((t.dp.getMxa c.val).buf (bit w 8)).nc = bits w 22 6 ∧
      (∀ i n, i ≤ bits w 22 6 → s.claimsAll (mxaUid c.val) →
        n = 64 * recLines (bits w 16 6) ((mxPack (bits w 9 3) (bit w 12)).getD (0, 0)).1 (mxFmt (bits w 9 3)).width →
        bits w 32 22 + i * bits w 64 8 * 64 + n ≤ 0x300000 →
        ((t.dp.getMxa c.val).buf (bit w 8)).recs[i]? =
          some (readBytes s.dp.mem.cells (sramKey c.val (bits w 32 22 + i * bits w 64 8 * 64)) n)) ∧
      (∀ k, k ≠ c.val → t.dp.getMxa k = s.dp.getMxa k)) ∧
  (∀ (c : Fin 512) (w : BitVec 128) (s : State) (b : MxBuf) (x : Mma) (pack : Nat), s.dispatches (mxaUid c.val) 0x11 w.toNat = true →
    b = (s.dp.getMxa c.val).buf (bit w 8) → x = mmaOf w → mmaValid w b (s.env.phaseClass (mxaUid c.val)) = true → s.clean →
    (mxPack x.fmt x.accw).map (·.1) = some pack →
    ∃ t, exec (.mma c w) s = .next t ∧ s.ranDp t (mxaUid c.val) ∧
      s.keeps t (keyRange (accRow c.val (accFmt x.accw x.a16) x.arow) (x.m * (8 * (accFmt x.accw x.a16).width))) ∧
      (t.dp.getMxa c.val).buf0 = (s.dp.getMxa c.val).buf0 ∧ (t.dp.getMxa c.val).buf1 = (s.dp.getMxa c.val).buf1 ∧
      (∀ f ch i j y, (x.read s.env (mxaUid c.val) c.val pack (s.dp.getMxa c.val).prev s.dp).1 = some (f, ch) →
        s.claimsAll (mxaUid c.val) → rowsOpen s c.val (accFmt x.accw x.a16) x.arow x.m → i < x.m → j ≤ b.nc → j < 64 →
        (b.recs.zip b.scales)[j]? = some y →
        elemOf (accFmt x.accw x.a16).width
            (readBytes t.dp.mem.cells (accRow c.val (accFmt x.accw x.a16) (x.arow + i)) (8 * (accFmt x.accw x.a16).width)) j =
          (if x.mode = 0 then x.cell b pack f (accFmt x.accw x.a16) i y.1 y.2
           else (accFmt x.accw x.a16).rne (((accFmt x.accw x.a16).decode (elemOf (accFmt x.accw x.a16).width
             (readBytes s.dp.mem.cells (accRow c.val (accFmt x.accw x.a16) (x.arow + i)) (8 * (accFmt x.accw x.a16).width)) j)).add
             ((accFmt x.accw x.a16).decode (x.cell b pack f (accFmt x.accw x.a16) i y.1 y.2)))) % 2 ^ (accFmt x.accw x.a16).width)) ∧
  (∀ (c : Fin 512) (w : BitVec 128) (s : State) (f : Fmt), s.dispatches (mxaUid c.val) 0x12 w.toNat = true → abcastValid w = true → s.clean →
    f = accFmt (bit w 8) (bit w 19) →
    ∃ t, exec (.abcast c w) s = .next t ∧ s.ranDp t (mxaUid c.val) ∧
      s.keeps t (keyRange (accRow c.val f (bits w 32 10)) ((bits w 42 10 + 1) * (8 * f.width))) ∧ t.dp.mxa = s.dp.mxa ∧
      (∀ i, i ≤ bits w 42 10 → s.claimsAll (mxaUid c.val) → rowsOpen s c.val f (bits w 32 10) (bits w 42 10 + 1) →
        readBytes t.dp.mem.cells (accRow c.val f (bits w 32 10 + i)) (8 * f.width) =
          readBytes s.dp.mem.cells (accRow c.val f (bits w 9 10)) (8 * f.width))) ∧
  (∀ (c : Fin 512) (w : BitVec 128) (s : State), s.dispatches (mxaUid c.val) 0x13 w.toNat = true → bits w 8 24 = 0 → bits w 32 6 = 0 → bits w 54 74 = 0 →
    ∃ t, exec (.cntst c w) s = .next t ∧ s.ranDp t (mxaUid c.val) ∧ s.keeps t (lineBytes (sramKey c.val (bits w 32 22))) ∧ t.dp.mxa = s.dp.mxa ∧
      (t.dp.getUnit (mxaUid c.val)).sticky = (s.dp.getUnit (mxaUid c.val)).sticky ∧
      (bits w 32 22 < 0x300000 → s.claimsAll (mxaUid c.val) → s.env.mayWrite (mxaUid c.val) (sramAddr c.val (bits w 32 22)) = true →
        readBytes t.dp.mem.cells (sramKey c.val (bits w 32 22)) 64 = (s.dp.getUnit (mxaUid c.val)).sticky.nan.toNat +
          2 ^ 32 * (s.dp.getUnit (mxaUid c.val)).sticky.inf.toNat + 2 ^ 64 * (s.dp.getUnit (mxaUid c.val)).sticky.ill.toNat))

/-- Destination addresses of rows of `n` lines (R224). -/
def rowLinesAt (x : Move) (n a : Nat) : Prop := ∃ r i, r < x.rows ∧ i < n ∧ a = x.dst + r * x.dpl * 64 + 64 * i

/-- The line at `a` lies at key `k` in HBM of the unit's partition, outside the inkwell area; it may be written when `wr`. -/
def hbmLine (s : State) (u a k : Nat) (wr : Bool) : Prop :=
  (∃ l, s.dp.mem.at48 a = some l ∧ l.inDies (s.env.diesOf u) = true ∧ l.cluster? = none ∧ (∀ n o, l ≠ .ext n o) ∧ s.dp.mem.key l = k ∧
      (wr = true → s.env.mayStore s.dp.mem u a l = true)) ∧
    ∀ i, i < 64 → s.dp.mem.inInk (k + i) = false

/-- COPY, FILL_LINES, ADDW, SKEW.  -/
def Obligations.ChannelsMoveLines : Prop :=
  (∀ (c : Fin 512) (ch : Fin 8) (w : BitVec 256) (s : State) (u : Nat), u = sdUid c.val ch.val → s.dispatches u 0x10 w.toNat = true → s.copyWaits u w = false → s.inFlight u < 4 →
    moveValid w 8 false false (bits w 32 16) (s.env.diesOf u) = true → s.clean →
    ∃ t, exec (.copy c ch w) s = .next t ∧ (t.dp.getUnit u).idx = (s.dp.getUnit u).idx + 1 ∧ s.keepsOthers t u ∧
      s.keepsAddrs t (rowLinesAt (moveOf w) (bits w 32 16)) ∧
      (∀ ks kd : Nat → Nat → Nat,
        (∀ r i, r < (moveOf w).rows → i < bits w 32 16 →
          hbmLine s u ((moveOf w).src + r * (moveOf w).spl * 64 + 64 * i) (ks r i) false ∧
          hbmLine s u ((moveOf w).dst + r * (moveOf w).dpl * 64 + 64 * i) (kd r i) true) →
        (∀ r i r' i', r < (moveOf w).rows → i < bits w 32 16 → r' < (moveOf w).rows → i' < bits w 32 16 →
          (ks r i + 64 ≤ kd r' i' ∨ kd r' i' + 64 ≤ ks r i) ∧
          ((r, i) ≠ (r', i') → kd r i + 64 ≤ kd r' i' ∨ kd r' i' + 64 ≤ kd r i)) →
        ∀ r i, r < (moveOf w).rows → i < bits w 32 16 →
          readBytes t.dp.mem.cells (kd r i) 64 = readBytes s.dp.mem.cells (ks r i) 64)) ∧
  (∀ (c : Fin 512) (ch : Fin 8) (w : BitVec 256) (s : State) (u : Nat), u = sdUid c.val ch.val → s.dispatches u 0x12 w.toNat = true → s.inFlight u < 4 →
    moveValid w 8 true false (bits w 32 16) (s.env.diesOf u) = true →
    ∃ t, exec (.fillLines c ch w) s = .next t ∧ (t.dp.getUnit u).idx = (s.dp.getUnit u).idx + 1 ∧ s.keepsOthers t u ∧
      s.keepsAddrs t (rowLinesAt (moveOf w) (bits w 32 16)) ∧
      (∀ kd : Nat → Nat → Nat,
        (∀ r i, r < (moveOf w).rows → i < bits w 32 16 → hbmLine s u ((moveOf w).dst + r * (moveOf w).dpl * 64 + 64 * i) (kd r i) true) →
        (∀ r i r' i', r < (moveOf w).rows → i < bits w 32 16 → r' < (moveOf w).rows → i' < bits w 32 16 →
          (r, i) ≠ (r', i') → kd r i + 64 ≤ kd r' i' ∨ kd r' i' + 64 ≤ kd r i) →
        ∀ r i b, r < (moveOf w).rows → i < bits w 32 16 → b < 64 →
          t.dp.mem.byte (kd r i + b) = BitVec.ofNat 8 (bits w (64 + 8 * (b % 8)) 8))) ∧
  (∀ (c : Fin 512) (ch : Fin 8) (w : BitVec 256) (s : State) (u per : Nat) (f : Fmt), u = sdUid c.val ch.val → s.dispatches u 0x13 w.toNat = true → s.inFlight u < 4 →
    addFmt (bits w 8 4) = some (f, per) → moveValid w 12 false false (addwSpan w) (s.env.diesOf u) = true → s.clean →
    ∃ t, exec (.addw c ch w) s = .next t ∧ (t.dp.getUnit u).idx = (s.dp.getUnit u).idx + 1 ∧ s.keepsOthers t u ∧
      s.keepsAddrs t (rowLinesAt (moveOf w) (addwSpan w))) ∧
  (∀ (c : Fin 512) (ch : Fin 8) (w : BitVec 256) (s : State) (u : Nat), u = sdUid c.val ch.val → s.dispatches u 0x11 w.toNat = true → s.inFlight u < 4 →
    skewValid w (s.env.diesOf u) = true → s.clean →
    ∃ t, exec (.skew c ch w) s = .next t ∧ (t.dp.getUnit u).idx = (s.dp.getUnit u).idx + 1 ∧ s.keepsOthers t u ∧
      s.keepsAddrs t (fun a => ∃ n, n < ((skewOf w).nb * (skewOf w).sb + (skewOf w).lanes - 1) * ((skewOf w).wb / 64) ∧
        a = (skewOf w).dst + 64 * n)) ∧
  (∀ (c : Fin 512) (ch : Fin 8) (w : BitVec 256) (s : State) (u : Nat) (x : Bool), u = sdUid c.val ch.val →
    (s.dispatches u 0x10 w.toNat = true → moveValid w 8 false false (bits w 32 16) (s.env.diesOf u) = true → x = s.copyWaits u w →
      (x = true ∨ 4 ≤ s.inFlight u) → exec (.copy c ch w) s = .next { s with dp := s.dp.setUnit u (fun y => { y with awaitExt := x }) }) ∧
    (s.dispatches u 0x12 w.toNat = true → moveValid w 8 true false (bits w 32 16) (s.env.diesOf u) = true → 4 ≤ s.inFlight u → x = false →
      exec (.fillLines c ch w) s = .next { s with dp := s.dp.setUnit u (fun y => { y with awaitExt := x }) }) ∧
    (s.dispatches u 0x11 w.toNat = true → skewValid w (s.env.diesOf u) = true → 4 ≤ s.inFlight u → x = false →
      exec (.skew c ch w) s = .next { s with dp := s.dp.setUnit u (fun y => { y with awaitExt := x }) }))

/-- PUT, PUT_RECEIVE, INBOUND_ACCESS, STALLED_UNIT_TIMEOUT.  -/
def Obligations.PutsAndInboundAccesses : Prop :=
  (∀ (c : Fin 512) (ch : Fin 8) (w : BitVec 256) (s : State) (u : Nat), u = sdUid c.val ch.val → s.dispatches u 0x14 w.toNat = true → s.inFlight u < 4 →
    moveValid w 8 false true (bits w 32 16) (s.env.diesOf u) = true → bits w 216 8 = 0 → s.putCgOk u w = true → s.clean →
    ∃ t, exec (.put c ch w) s = .next t ∧ (t.dp.getUnit u).idx = (s.dp.getUnit u).idx + 1 ∧ s.keepsOthers t u ∧
      (s.torus.rankPkg (putCg w) (putRank w) ≠ (s.torus.pod, s.torus.pkg) → s.keeps t noByte) ∧
      s.keepsAddrs t (fun a => ∃ r i, r < (moveOf w).rows ∧ i < bits w 32 16 ∧ a = (moveOf w).dst + r * (moveOf w).dpl * 64 + 64 * i)) ∧
  (∀ (k : Packet) (ch : Fin 8) (s : State), k.typ = 1 → k ∈ s.torus.inbox → s.edge.lost.getLsbD (s.dp.mem.putDie k.addr) = false →
    s.torus.hop k.spod k.spkg ≠ .local_ →
    ∃ t, exec (.putReceive k ch) s = .next t ∧ t.torus.inbox = s.torus.inbox.erase k ∧
      s.keepsAddrs t (fun a => ∃ i, i < k.lines.length ∧ a = k.addr + 64 * i) ∧ t.scr = s.scr) ∧
  (∀ (k : Packet) (ch : Fin 8) (s : State), k.typ ≠ 1 ∨ k ∉ s.torus.inbox ∨ s.edge.lost.getLsbD (s.dp.mem.putDie k.addr) = true →
    exec (.putReceive k ch) s = .next s) ∧
  (∀ (c : Fin 512) (ch : Fin 8) (src : BitVec 16) (a : BitVec 48) (v : BitVec 512) (s : State),
    (s.env.comesIn c.val ch.val src.toNat false = false → exec (.inboundAccess c ch src (.read a)) s = .next s) ∧
    (s.env.comesIn c.val ch.val src.toNat true = false → exec (.inboundAccess c ch src (.write a v)) s = .next s) ∧
    (∃ t, exec (.inboundAccess c ch src (.read a)) s = .next t ∧ s.keeps t noByte ∧ (s.clean → s.dp.fr.jobStop = none → t.scr = s.scr)) ∧
    (∃ t, exec (.inboundAccess c ch src (.write a v)) s = .next t ∧ s.onlyDp t ∧ s.keepsAddrs t (fun x => x = a.toNat / 64 * 64) ∧
      (∀ l off, s.dp.mem.at48 (a.toNat / 64 * 64) = some l → l.cluster? = some (c.val, false, off) →
        s.env.comesIn c.val ch.val src.toNat true = true →
        s.env.claimsAt (sdUid c.val ch.val) (s.env.entryOf (sdUid c.val ch.val)) false off = true → s.env.mayWrite (sdUid c.val ch.val) (a.toNat / 64 * 64) = true →
        readBytes t.dp.mem.cells (s.dp.mem.key l) 64 = v.toNat))) ∧
  (∀ (u : BitVec 16) (s : State),
    (s.waits u.toNat = false → exec (.stalledUnitTimeout u) s = .next s) ∧
    (isStreamUnit u.toNat = true → s.waits u.toNat = true → ∃ t, exec (.stalledUnitTimeout u) s = .next t ∧ t.dp.fr.fenced = true ∧
      t.dp.log.frozen = true ∧ t.dp.fr.last = s.dp.fr.last + 1 ∧ s.keeps t noByte ∧
      (s.dp.fr.open_ = [] → s.env.entryOf u.toNat ∉ s.dp.fr.stalls → s.dp.fr.jobStop = none → t.dp.fr.voided = true ∧
        t.dp.fr.open_ = [⟨8, (s.dp.fr.last + 1).toNat, s.env.entryOf u.toNat⟩] ∧ t.scr = s.scr)))

/-- The elements of a source row, as values. -/
def rowVals (s : State) (x : Rows) (c : Nat) (f : Fmt) (nc r : Nat) : List Fp :=
  (elemsFrom f.width (readBytes s.dp.mem.cells (x.key c r) x.n) nc 0).map f.decode

/-- R239: the blocks of a source row of QMX. -/
def rowBlocks (s : State) (c : Nat) (w : BitVec 256) (df : Fmt) (cv : Cvc) (r : Nat) (l : List Fp) : List (Nat × List OutEl) :=
  (List.range ((bits w 48 12 + 1) / 32)).map (fun j =>
    mxBlock df cv (bits w 21 2 = 1) (fun k => tfeWord s.env c r k s.dp) (32 * j) ((l.drop (32 * j)).take 32))

/-- TFE_IDX, TRANS, CONV, QMX.  -/
def Obligations.FormatEngineConverts : Prop :=
  (∀ (c : Fin 512) (w : BitVec 256) (s : State), s.dispatches (tfeUid c.val) 0x13 w.toNat = true → tfeIdxValid w = true →
    ∃ t, exec (.tfeIdx c w) s = .next t ∧ s.ranAlone t (tfeUid c.val) ∧ t.dp.mem = s.dp.mem ∧
      t.dp.idx.get {} c.val = { e0 := w.extractLsb' 64 64, es := w.extractLsb' 128 64, tid := w.extractLsb' 192 32 } ∧
      ∀ k, k ≠ c.val → t.dp.idx.get {} k = s.dp.idx.get {} k) ∧
  (∀ (c : Fin 512) (w : BitVec 256) (s : State) (u ew nr nc : Nat) (x y : Rows), u = tfeUid c.val → s.dispatches u 0x10 w.toNat = true →
    transValid w = true → s.clean → ew = 2 ^ bits w 8 2 → nr = bits w 16 12 + 1 → nc = bits w 32 12 + 1 →
    x = ⟨bit w 86, bits w 64 22, bits w 96 16 * 64, nc * ew, nr⟩ →
    y = ⟨bit w 150, bits w 128 22, bits w 160 16 * 64, 64 * ceilDiv (nr * ew) 64, nc⟩ →
    ∃ t, exec (.trans c w) s = .next t ∧ s.ranAlone t u ∧ s.keeps t (y.bytes c.val) ∧
      (s.claimsAll u → x.exist → y.exist → y.opened s u c.val → ∀ k, k < nc →
        readBytes t.dp.mem.cells (y.key c.val k) y.n =
          packElems (8 * ew) ((List.range nr).map (fun r => elemOf (8 * ew) (readBytes s.dp.mem.cells (x.key c.val r) x.n) k)))) ∧
  (∀ (c : Fin 512) (w : BitVec 256) (s : State) (u nr nc : Nat) (sf df : Fmt) (cv : Cvc) (x y : Rows), u = tfeUid c.val →
    s.dispatches u 0x11 w.toNat = true → convValid w = true → s.clean → convSrc (bits w 8 4) = some sf → convDst (bits w 12 4) = some df →
    cvcFor (bits w 16 4) df = some cv → nr = bits w 32 12 + 1 → nc = bits w 48 12 + 1 →
    x = ⟨bit w 86, bits w 64 22, bits w 96 16 * 64, ceilDiv (nc * sf.width) 8, nr⟩ →
    y = ⟨bit w 150, bits w 128 22, bits w 160 16 * 64, 64 * ceilDiv (nc * df.width) 512, nr⟩ →
    ∃ t, exec (.conv c w) s = .next t ∧ s.ranAlone t u ∧ s.keeps t (y.bytes c.val) ∧
      (s.claimsAll u → x.exist → y.exist → y.opened s u c.val → y.apart x → ∀ r, r < nr →
        readBytes t.dp.mem.cells (y.key c.val r) y.n =
          packElems df.width (((rowVals s x c.val sf nc r).zipIdx).map (fun z =>
            (df.conv cv (if cv.rnd = .sr then tfeWord s.env c.val r z.2 s.dp else 0) (z.1.scale (sbits w 24 8))).bits)))) ∧
  (∀ (c : Fin 512) (w : BitVec 256) (s : State) (u nr nc : Nat) (sf df : Fmt) (cv : Cvc) (x y z : Rows), u = tfeUid c.val →
    s.dispatches u 0x12 w.toNat = true → qmxValid w = true → s.clean → qmxSrc (bits w 8 4) = some sf → qmxDst (bits w 12 4) = some df →
    Cvc.ofBits (bits w 16 4) = some cv → nr = bits w 32 12 + 1 → nc = bits w 48 12 + 1 →
    x = ⟨bit w 86, bits w 64 22, bits w 96 16 * 64, ceilDiv (nc * sf.width) 8, nr⟩ →
    y = ⟨bit w 150, bits w 128 22, bits w 160 16 * 64, 64 * ceilDiv (nc * df.width) 512, nr⟩ →
    z = ⟨false, bits w 192 22, bits w 224 16, 8 * ceilDiv (nc / 32) 8, nr⟩ →
    ∃ t, exec (.qmx c w) s = .next t ∧ s.ranAlone t u ∧ s.keeps t (fun k => y.bytes c.val k || z.bytes c.val k) ∧
      (s.claimsAll u → x.exist → y.exist → z.exist → y.opened s u c.val → z.opened s u c.val → y.apart x → z.apart x → z.apart y →
        ∀ r, r < nr →
          readBytes t.dp.mem.cells (z.key c.val r) z.n =
            packElems 8 ((rowBlocks s c.val w df cv r (rowVals s x c.val sf nc r)).map (·.1)) ∧
          readBytes t.dp.mem.cells (y.key c.val r) y.n =
            packElems df.width ((rowBlocks s c.val w df cv r (rowVals s x c.val sf nc r)).flatMap (fun b => b.2.map (·.conv.bits)))))

/-- R420: the line offsets DFEED reads, in order. -/
def feedOffs (w : BitVec 256) : List Nat :=
  (List.range (bits w 16 12 + 1)).flatMap (fun r => (List.range (bits w 32 16)).map (fun k => bits w 64 22 + 64 * (r * bits w 96 16 + k)))

/-- DOPEN, DFEED, DCLOSE.  -/
def Obligations.DigestsAreOpenedFedAndClosed : Prop :=
  (∀ (c : Fin 512) (w : BitVec 256) (s : State), s.dispatches (dguUid c.val) 0x10 w.toNat = true → dopenValid w = true →
    ∃ t, exec (.dopen c w) s = .next t ∧ s.ranAlone t (dguUid c.val) ∧ t.dp.mem = s.dp.mem ∧
      t.dp.dgSlot c.val (bits w 8 2) =
        { opened := true, tag := w.extractLsb' 32 32, h := ofQuad ⟨w.extractLsb' 32 32, 0x44475530#32, 0, 0⟩ } ∧
      ∀ k, k ≠ 4 * c.val + bits w 8 2 → t.dp.dgu.get {} k = s.dp.dgu.get {} k) ∧
  (∀ (c : Fin 512) (w : BitVec 256) (s : State) (f : Fmt), s.dispatches (dguUid c.val) 0x11 w.toNat = true → dfeedValid c.val w s.dp = true → s.clean →
    dfeedFmt (bits w 10 4) = some f →
    ∃ t, exec (.dfeed c w) s = .next t ∧ s.ranAlone t (dguUid c.val) ∧ t.dp.mem.cells = s.dp.mem.cells ∧
      (∀ k, k ≠ 4 * c.val + bits w 8 2 → t.dp.dgu.get {} k = s.dp.dgu.get {} k) ∧
      (s.claimsAll (dguUid c.val) → (∀ o ∈ feedOffs w, o < if bit w 14 then 0x20000 else 0x300000) →
        t.dp.dgSlot c.val (bits w 8 2) = (feedOffs w).foldl (fun x o =>
          x.feed f (bit w 15) (BitVec.ofNat 512 (readBytes s.dp.mem.cells (clKey c.val (bit w 14) o) 64))) (s.dp.dgSlot c.val (bits w 8 2)))) ∧
  (∀ (c : Fin 512) (w : BitVec 256) (s : State) (k : Nat), s.dispatches (dguUid c.val) 0x12 w.toNat = true →
    dcloseValid s.env c.val w s.dp = true → k = clKey c.val (bit w 11) (bits w 32 22) →
    ∃ t, exec (.dclose c w) s = .next t ∧ (t.dp.getUnit (dguUid c.val)).idx = (s.dp.getUnit (dguUid c.val)).idx + 1 ∧
      s.keepsOthers t (dguUid c.val) ∧ s.keeps t (lineBytes k) ∧
      t.dp.dgSlot c.val (bits w 8 2) = { s.dp.dgSlot c.val (bits w 8 2) with opened := false } ∧
      (∀ i, i ≠ 4 * c.val + bits w 8 2 → t.dp.dgu.get {} i = s.dp.dgu.get {} i) ∧
      (s.claimsAll (dguUid c.val) → (bits w 32 22 < if bit w 11 then 0x20000 else 0x300000) →
        s.env.mayWrite (dguUid c.val) (clAddr c.val (bit w 11) (bits w 32 22)) = true → (∀ i, i < 64 → s.dp.mem.inInk (k + i) = false) →
        readBytes t.dp.mem.cells k 64 = (s.dp.dgSlot c.val (bits w 8 2)).line))

/-- The Brush of cluster `c` has run an instruction after which its registers are `b` (its loops aside), memory as before. -/
def ranBrush (s t : State) (c : Nat) (b : Brush) : Prop :=
  s.ranAlone t (tveUid c) ∧ t.dp.mem = s.dp.mem ∧ t.dp.part = s.dp.part ∧
    { t.dp.getBrush c with loops := [] } = { b with loops := [] } ∧ ∀ k, k ≠ c → t.dp.getBrush k = s.dp.getBrush k

/-- The Brush of cluster `c` has written tile `td`: `f` in the active lanes, FILL in the others; its other registers and all memory are
as before. -/
def ranTile (s t : State) (c td : Nat) (f : Nat → Word) : Prop :=
  s.ranAlone t (tveUid c) ∧ t.dp.mem = s.dp.mem ∧ t.dp.part = s.dp.part ∧
    (∀ l, l < 256 → (t.dp.getBrush c).lane td l = if l < (s.dp.getBrush c).pvl.toNat then f l else (s.dp.getBrush c).fill) ∧
    (∀ r l, r ≠ td → (t.dp.getBrush c).lane r l = (s.dp.getBrush c).lane r l) ∧ (t.dp.getBrush c).x = (s.dp.getBrush c).x ∧
    (t.dp.getBrush c).pvl = (s.dp.getBrush c).pvl ∧ (t.dp.getBrush c).fill = (s.dp.getBrush c).fill ∧
    (t.dp.getBrush c).idx = (s.dp.getBrush c).idx ∧ ∀ k, k ≠ c → t.dp.getBrush k = s.dp.getBrush k

/-- R256: the rows of LD or ST, of element width `n`. -/
def tileRows (w : BitVec 64) (b : Brush) (n : Nat) : Rows := ⟨bit w 20, rowBase w b, 16 * bits w 48 16, 2 * n, b.rows⟩

/-- SETVL, SETX, ADDX, TVE_IDX, LOOP, LD, ST.  -/
def Obligations.VectorEngineControlsAndMoves : Prop :=
  (∀ (c : Fin 512) (w : BitVec 64) (s : State) (b : Brush), b = s.dp.getBrush c.val →
    (s.dispatches (tveUid c.val) 4 w.toNat = true → setvlValid w = true → ∃ t, exec (.setvl c w) s = .next t ∧
      ranBrush s t c.val { b with pvl := BitVec.ofNat 16 (bits w 8 9), fill := if bit w 17 then w.extractLsb' 32 32 else b.fill }) ∧
    (s.dispatches (tveUid c.val) 5 w.toNat = true → anyBits w 13 19 = false → ∃ t, exec (.setx c w) s = .next t ∧
      ranBrush s t c.val { b with x := (t.dp.getBrush c.val).x } ∧
      ((t.dp.getBrush c.val).scalar (bits w 8 4)).toNat =
        (if bit w 12 then (b.scalar (bits w 8 4)).toNat % 2 ^ 32 + bits w 32 32 * 2 ^ 32 else bits w 32 32) ∧
      ∀ i, i ≠ bits w 8 4 → (t.dp.getBrush c.val).scalar i = b.scalar i) ∧
    (s.dispatches (tveUid c.val) 6 w.toNat = true → anyBits w 16 16 = false → ∃ t, exec (.addx c w) s = .next t ∧
      ranBrush s t c.val { b with x := (t.dp.getBrush c.val).x } ∧
      (t.dp.getBrush c.val).scalar (bits w 8 4) = b.scalar (bits w 12 4) + (w.extractLsb' 32 32).signExtend 64 ∧
      ∀ i, i ≠ bits w 8 4 → (t.dp.getBrush c.val).scalar i = b.scalar i) ∧
    (s.dispatches (tveUid c.val) 8 w.toNat = true → tveIdxValid w b = true → ∃ t, exec (.tveIdx c w) s = .next t ∧
      ranBrush s t c.val { b with idx := { e0 := b.scalar (bits w 8 4), es := b.scalar (bits w 12 4), tid := w.extractLsb' 32 32 } }) ∧
    (∀ p i, s.dispatches (tveUid c.val) 7 w.toNat = true → s.env.ofUnit (tveUid c.val) = some p → i = (s.dp.getUnit (tveUid c.val)).idx →
      loopValid w i (p.segBytes (tveUid c.val)) b.loops = true → ∃ t, exec (.loop c w) s = .next t ∧ s.onlyDp t ∧ t.dp.mem = s.dp.mem ∧
        t.dp.getBrush c.val = { b with loops := (i + 1, i + bits w 8 8, bits w 16 16) :: b.loops } ∧
        (t.dp.getUnit (tveUid c.val)).idx = i + 1 ∧ (∀ v, v ≠ tveUid c.val → t.dp.getUnit v = s.dp.getUnit v) ∧
        ∀ k, k ≠ c.val → t.dp.getBrush k = s.dp.getBrush k)) ∧
  (∀ (c : Fin 512) (w : BitVec 64) (s : State) (b : Brush) (f : Fmt), b = s.dp.getBrush c.val →
    ldFmt (bits w 16 4) = some f → s.clean →
    (s.dispatches (tveUid c.val) 0x10 w.toNat = true → ldValid w b = true → ∃ t, exec (.ld c w) s = .next t ∧ s.ranAlone t (tveUid c.val) ∧ t.dp.mem.cells = s.dp.mem.cells ∧
      (s.claimsAll (tveUid c.val) → (tileRows w b f.width).exist → ranTile s t c.val (bTD w) (fun l => laneOf f (elemOf f.width
        (readBytes s.dp.mem.cells ((tileRows w b f.width).key c.val (l / 16)) (2 * f.width)) (l % 16))))) ∧
    (∀ cv, s.dispatches (tveUid c.val) 0x11 w.toNat = true → stValid w b = true → cv = (Cvc.ofBits (bits w 28 4)).getD Cvc.nearest →
      ∃ t, exec (.st c w) s = .next t ∧ s.ranAlone t (tveUid c.val) ∧ s.keeps t ((tileRows w b f.width).bytes c.val) ∧
        { t.dp.getBrush c.val with loops := [] } = { b with loops := [] } ∧
        (s.claimsAll (tveUid c.val) → (tileRows w b f.width).exist → (tileRows w b f.width).opened s (tveUid c.val) c.val →
          ∀ r n, r < b.rows → (bits w 48 16 ≠ 0 ∨ r + 1 = b.rows) → n = min 16 (b.pvl.toNat - 16 * r) →
            readBytes t.dp.mem.cells ((tileRows w b f.width).key c.val r) (n * f.width / 8) =
              packElems f.width ((List.range n).map (fun k => (storeEl f cv
                (if cv.rnd = .sr then tveWord s.env c.val (16 * r + k) s.dp else 0) (b.lane (bTD w) (16 * r + k))).bits)))))

/-- FOP, FUN, CMP, SEL, IOP, MOVI, CVT, RAND, RED, PERM, PFIX.  -/
def Obligations.VectorEngineComputesLanes : Prop :=
  ∀ (c : Fin 512) (w : BitVec 64) (s : State) (b : Brush), b = s.dp.getBrush c.val →
    (∀ g ins F, s.dispatches (tveUid c.val) 0x20 w.toNat = true → fopOf (bFN w) = some g → (bFN w = 3 ∨ bTC w = 0) → anyBits w 32 32 = false →
      ins = (if bFN w = 3 then [bTA w, bTB w, bTC w] else [bTA w, bTB w]) →
      F = (fun l => g (b.lane (bTA w) l) (b.lane (bTB w) l) (b.lane (bTC w) l)) →
      ∃ t, exec (.fop c w) s = .next t ∧ ranTile s t c.val (bTD w) F ∧
        (t.dp.getUnit (tveUid c.val)).sticky.invop =
          satAdd (s.dp.getUnit (tveUid c.val)).sticky.invop (invopLanes b.active (ins.map (fun i l => b.lane i l)) F)) ∧
    (∀ g F, s.dispatches (tveUid c.val) 0x21 w.toNat = true → funOf (bFN w) = some g → bTB w = 0 → bTC w = 0 → anyBits w 32 32 = false → F = (fun l => g (b.lane (bTA w) l)) →
      ∃ t, exec (.fun_ c w) s = .next t ∧ ranTile s t c.val (bTD w) F ∧
        (t.dp.getUnit (tveUid c.val)).sticky.invop =
          satAdd (s.dp.getUnit (tveUid c.val)).sticky.invop (invopLanes b.active [b.lane (bTA w)] F)) ∧
    (∀ g, s.dispatches (tveUid c.val) 0x22 w.toNat = true → cmpOf (bFN w) = some g → bTC w = 0 → anyBits w 32 32 = false → ∃ t, exec (.cmp c w) s = .next t ∧
      ranTile s t c.val (bTD w) (fun l => if g (b.lane (bTA w) l) (b.lane (bTB w) l) then 0xFFFFFFFF#32 else 0)) ∧
    (s.dispatches (tveUid c.val) 0x23 w.toNat = true → bFN w = 0 → anyBits w 32 32 = false → ∃ t, exec (.sel c w) s = .next t ∧
      ranTile s t c.val (bTD w) (fun l => if b.lane (bTC w) l = 0 then b.lane (bTB w) l else b.lane (bTA w) l)) ∧
    (∀ g, s.dispatches (tveUid c.val) 0x24 w.toNat = true → iopOf (bFN w) = some g → bTC w = 0 → anyBits w 32 32 = false → ∃ t, exec (.iop c w) s = .next t ∧
      ranTile s t c.val (bTD w) (fun l => g (b.lane (bTA w) l) (b.lane (bTB w) l))) ∧
    (s.dispatches (tveUid c.val) 0x2A w.toNat = true → bFN w ≤ 3 → bTA w = 0 → bTB w = 0 → bTC w = 0 → (bFN w = 0 ∨ bits w 32 32 = 0) → ∃ t, exec (.movi c w) s = .next t ∧
      ranTile s t c.val (bTD w) (fun l => if bFN w = 0 then w.extractLsb' 32 32 else if bFN w = 1 then BitVec.ofNat 32 l
        else if bFN w = 2 then BitVec.ofNat 32 (l / 16) else BitVec.ofNat 32 (l % 16))) ∧
    (∀ cv, s.dispatches (tveUid c.val) 0x25 w.toNat = true → Cvc.ofBits (bits w 32 4) = some cv → cvtValid w = true → ∃ t, exec (.cvt c w) s = .next t ∧
      ranTile s t c.val (bTD w) (fun l =>
        cvtLane (bFN w) cv (if cv.rnd = .sr then tveWord s.env c.val l s.dp else 0) (b.lane (bTA w) l))) ∧
    (s.dispatches (tveUid c.val) 0x29 w.toNat = true → bFN w ≤ 1 → bTA w = 0 → bTB w = 0 → bTC w = 0 → anyBits w 32 32 = false → ∃ t, exec (.rand c w) s = .next t ∧
      ranTile s t c.val (bTD w) (fun l => if bFN w = 0 then BitVec.ofNat 32 (tveWord s.env c.val l s.dp)
        else BitVec.ofNat 32 (Fmt.fp32.conv ⟨.rz, false⟩ 0 (.fin false (tveWord s.env c.val l s.dp) (-32))).bits)) ∧
    (s.dispatches (tveUid c.val) 0x26 w.toNat = true → bFN w ≤ 2 → bTB w = 0 → bTC w = 0 → bits w 32 2 ≤ 2 → anyBits w 34 30 = false → ∃ t, exec (.red c w) s = .next t ∧
      ranTile s t c.val (bTD w) (fun l => redResult b (bFN w) (bits w 32 2) (bTA w) (redLead (bits w 32 2) l))) ∧
    (∀ src : Nat → Nat, src = (fun l => (b.lane (bTB w) l).toNat) → s.dispatches (tveUid c.val) 0x27 w.toNat = true → bTC w = 0 → bFN w = 0 →
      anyBits w 32 32 = false → ∃ t, exec (.perm c w) s = .next t ∧
        ranTile s t c.val (bTD w) (fun l => if src l < b.pvl.toNat then b.lane (bTA w) (src l) else b.fill) ∧
        (t.dp.getUnit (tveUid c.val)).sticky.oor = satAdd (s.dp.getUnit (tveUid c.val)).sticky.oor
          (b.active.filter (fun l => decide (b.pvl.toNat ≤ src l))).length) ∧
    (∀ src : Nat → Nat, s.dispatches (tveUid c.val) 0x28 w.toNat = true → src = pfixLane (bFN w) (bits w 32 4) → bFN w ≤ 4 → bTB w = 0 → bTC w = 0 → anyBits w 36 28 = false →
      (bFN w ≠ 0 ∨ bits w 32 4 = 0) → ∃ t, exec (.pfix c w) s = .next t ∧
        ranTile s t c.val (bTD w) (fun l => if src l < b.pvl.toNat then b.lane (bTA w) (src l) else b.fill) ∧
        (t.dp.getUnit (tveUid c.val)).sticky.oor = satAdd (s.dp.getUnit (tveUid c.val)).sticky.oor
          (b.active.filter (fun l => decide (b.pvl.toNat ≤ src l))).length)

/-- The bytes of offsets `off` to `off + n − 1` of the local view of stack `j` (R291). -/
def viewBytes (s : State) (j off n : Nat) : Nat → Bool := keyRange (hbmKey j (s.dp.mem.ilv.toNat * 2 ^ 26 + off)) n

/-- Those bytes hold this value. -/
def viewRead (s t : State) (j off n : Nat) : Nat := readBytes t.dp.mem.cells (hbmKey j (s.dp.mem.ilv.toNat * 2 ^ 26 + off)) n

/-- R77, R291: the Blotter of stack `j` may write every byte of a range of its view, none of which is inkwell. -/
def viewOpen (s : State) (j a n : Nat) : Prop :=
  ∀ o, a ≤ o → o < a + n → s.dp.mem.inView (o / 64 * 64) = true ∧
    s.env.mayStore s.dp.mem (upuUid j) (localAddr j (o / 64 * 64)) (.local_ j (o / 64 * 64)) = true ∧
    s.dp.mem.inInk (hbmKey j (s.dp.mem.ilv.toNat * 2 ^ 26 + o)) = false

/-- Bytes of one element of the working copy (R301). -/
def updWBytes (x : UpOp) : Nat := (x.conv.map (fun c => c.1.width / 8)).getD 0

/-- The bytes an UPD may write: master, moment, working copy, and the gradient it takes. -/
def updBytes (s : State) (j : Nat) (x : UpOp) : Nat → Bool := fun k =>
  viewBytes s j x.maddr (4 * x.elems) k || (x.ven && viewBytes s j x.vaddr (4 * x.elems) k) ||
    (x.wcen && viewBytes s j x.waddr (updWBytes x * x.elems) k) || (x.gsrc == 0 && viewBytes s j x.gaddr (4 * x.elems) k)

/-- The ranges an UPD reads or writes. -/
def updAreas (x : UpOp) : List (Nat × Nat) :=
  [(x.gaddr, (if x.gsrc = 0 ∨ x.gsrc = 3 then 4 else 2) * x.elems), (x.maddr, 4 * x.elems)] ++ (if x.ven then [(x.vaddr, 4 * x.elems)] else []) ++
    (if x.wcen then [(x.waddr, updWBytes x * x.elems)] else []) ++ (if x.rven then [(x.raddr, 4 * x.rows)] else []) ++
    (if x.cven then [(x.caddr, 4 * x.cols)] else [])

/-- R302, R308: the registers of chunk `q` of an operation that runs now from chunk `r.next` on, with the gradients it has read ahead. -/
def opRegs (s : State) (j : Nat) (r : UpRun) (q : Nat) : Option (List (List Word)) :=
  match (if q - r.next < r.grads.length then r.grads[q - r.next]? else (upGrad s.env j (upOp r.w) true q s.dp).1) with
  | none => none
  | some g => (upRegs s.env j r true q g s.dp).1

/-- R302: what an ungated operation leaves, run from chunk `r.next` to its end, where its ranges lie apart and outside the inkwell and its
unit may write its results. -/
def updDone (s t : State) (j : Nat) (r : UpRun) (x : UpOp) : Prop :=
  (updAreas x).Pairwise (fun a b => a.1 + a.2 ≤ b.1 ∨ b.1 + b.2 ≤ a.1) →
  (∀ a ∈ updAreas x, ∀ o, a.1 ≤ o → o < a.1 + a.2 → s.dp.mem.inInk (hbmKey j (s.dp.mem.ilv.toNat * 2 ^ 26 + o)) = false) →
  viewOpen s j x.maddr (4 * x.elems) → (x.ven = true → viewOpen s j x.vaddr (4 * x.elems)) →
  (x.wcen = true → viewOpen s j x.waddr (updWBytes x * x.elems)) →
  ∀ q regs, r.next ≤ q → q < x.chunks → opRegs s j r q = some regs →
    wordsOf (viewRead s t j (x.maddr + 256 * q) 256) 64 = regs.map (fun r => r.getD 1 0) ∧
    (x.ven = true → wordsOf (viewRead s t j (x.vaddr + 256 * q) 256) 64 = regs.map (fun r => r.getD 2 0)) ∧
    ∀ f c, x.wcen = true → x.conv = some (f, c) → viewRead s t j (x.waddr + 8 * f.width * q) (8 * f.width) =
      packElems f.width ((upConv s.env j r f c (64 * q) (regs.map (fun r => r.getD 1 0)) s.dp).map (·.bits))

/-- R304: a sum that starts at its first term. -/
def sumUp : List Word → Word
  | [] => 0
  | a :: l => l.foldl add32 a

/-- PROG, CLD, ARGS, UPD, STAT, TAKE, STAGING_BLOCK_RESIDENT.  -/
def Obligations.UpdateUnitsUpdateMasters : Prop :=
  (∀ (j : Fin 12) (w : BitVec 512) (s : State) (u : Nat), u = upuUid j.val →
    (s.dispatches u 0x10 w.toNat = true → progValid w (s.dp.getUpu j.val) = true → ∃ t, exec (.prog j w) s = .next t ∧ s.ranAlone t u ∧ t.dp.mem = s.dp.mem ∧
      (t.dp.getUpu j.val).slots.get {} (bits w 8 2) =
        (if bit w 10 then { (s.dp.getUpu j.val).slots.get {} (bits w 8 2) with
            half1 := true
            ops := ((s.dp.getUpu j.val).slots.get {} (bits w 8 2)).ops.take 14 ++ progOps w }
          else { len := bits w 16 5, half1 := false, ops := progOps w }) ∧
      (∀ k, k ≠ bits w 8 2 → (t.dp.getUpu j.val).slots.get {} k = (s.dp.getUpu j.val).slots.get {} k) ∧
      { t.dp.getUpu j.val with slots := [] } = { s.dp.getUpu j.val with slots := [] } ∧ ∀ k, k ≠ j.val → t.dp.getUpu k = s.dp.getUpu k) ∧
    (s.dispatches u 0x10 w.toNat = true → progValid w (s.dp.getUpu j.val) = false → ∃ t, exec (.prog j w) s = .next t ∧ s.onlyDp t ∧ s.keeps t noByte ∧
      (t.dp.getUpu j.val).slots.get {} (bits w 8 2) = {} ∧ (t.dp.getUnit u).sticky.ill = satAdd (s.dp.getUnit u).sticky.ill 1) ∧
    (s.dispatches u 0x11 w.toNat = true → cldValid w = true → (s.dp.getUpu j.val).free (s.cldFoot j.val w) = true → s.clean → ∃ t, exec (.cld j w) s = .next t ∧ s.ranAlone t u ∧ t.dp.mem.cells = s.dp.mem.cells ∧
      (∀ off i, off = cldOff w (s.dp.getPart (s.env.partOf j.val)).step → i < 16 → (t.dp.getUpu j.val).k.get 0 i =
        if bits w 8 4 ≤ i ∧ i ≤ bits w 8 4 + bits w 12 4 then
          (if s.dp.mem.inView off then lineWord (BitVec.ofNat 512 (viewRead s s j.val off 64)) (i - bits w 8 4) else 0)
        else (s.dp.getUpu j.val).k.get 0 i) ∧
      { t.dp.getUpu j.val with k := [] } = { s.dp.getUpu j.val with k := [] } ∧ ∀ k, k ≠ j.val → t.dp.getUpu k = s.dp.getUpu k) ∧
    (s.dispatches u 0x12 w.toNat = true → argsValid w = true → ∃ t, exec (.args j w) s = .next t ∧ s.ranAlone t u ∧ t.dp.mem = s.dp.mem ∧
      t.dp.getUpu j.val = { s.dp.getUpu j.val with
        e0 := w.extractLsb' 64 62
        tid := w.extractLsb' 128 32
        xdelta := w.extractLsb' 192 48
        emBase := w.extractLsb' 256 36 } ∧ ∀ k, k ≠ j.val → t.dp.getUpu k = s.dp.getUpu k)) ∧
  (∀ (j : Fin 12) (w : BitVec 512) (s : State) (x : UpOp), x = upOp w → s.dispatches (upuUid j.val) 0x13 w.toNat = true →
    updValid w (s.dp.getUpu j.val) s.dp.mem = true →
    ((s.dp.getUpu j.val).free (x.foot 0x13) = false → exec (.upd j w) s = .next s) ∧
    ((s.dp.getUpu j.val).free (x.foot 0x13) = true → s.clean →
      ∃ t, exec (.upd j w) s = .next t ∧ (t.dp.getUnit (upuUid j.val)).idx = (s.dp.getUnit (upuUid j.val)).idx + 1 ∧
        s.keepsOthers t (upuUid j.val) ∧ s.keeps t (updBytes s j.val x) ∧
        (s.dp.fr.regen = false → gateSet s.env j.val s.dp = true → (t.dp.getUpu j.val).ops = (s.dp.getUpu j.val).ops ∧
          s.keeps t (fun k => x.gsrc == 0 && viewBytes s j.val x.gaddr (4 * x.elems) k)) ∧
        (s.dp.fr.regen = false → gateSet s.env j.val s.dp = false → (s.dp.mem.short j.val x 0).isSome = true →
          s.keeps t (fun k => x.gsrc == 0 && viewBytes s j.val x.gaddr (4 * x.elems) k) ∧
          ∃ g, (t.dp.getUpu j.val).ops = (s.dp.getUpu j.val).ops ++ [{ (s.dp.getUpu j.val).issue w with
            since := some s.clk.tb
            grads := g }]) ∧
        (s.dp.fr.regen = false → gateSet s.env j.val s.dp = false → (x.stg = true → x.blocks.all (s.dp.mem.resident j.val) = true) →
          updDone s t j.val ((s.dp.getUpu j.val).issue w) x ∧
          ((x.wb = false ∨ s.hp.linkUp = true) → (t.dp.getUpu j.val).ops = (s.dp.getUpu j.val).ops) ∧
          (x.wb = true → s.hp.linkUp = false → viewOpen s j.val x.maddr (4 * x.elems) →
            ∃ r, (t.dp.getUpu j.val).ops = (s.dp.getUpu j.val).ops ++ [r] ∧ r.w = w ∧ r.since = none)))) ∧
  (∀ (j : Fin 12) (w : BitVec 512) (s : State) (u : Nat) (x : UpOp), u = upuUid j.val → x = upOp w →
    (s.dispatches u 0x14 w.toNat = true → statValid w (s.dp.getUpu j.val) = true → (s.dp.getUpu j.val).free (x.foot 0x14) = false →
      exec (.stat j w) s = .next s) ∧
    (s.dispatches u 0x15 w.toNat = true → takeValid w = true → (s.dp.getUpu j.val).free (x.foot 0x15) = false → exec (.take j w) s = .next s) ∧
    (s.dispatches u 0x14 w.toNat = true → statValid w (s.dp.getUpu j.val) = true → (s.dp.getUpu j.val).free (x.foot 0x14) = true → s.clean → ∃ t, exec (.stat j w) s = .next t ∧ s.ranAlone t u ∧
      s.keeps t (fun k => (x.rven && viewBytes s j.val x.raddr (64 * ceilDiv x.rows 16) k) || (x.cven && viewBytes s j.val x.caddr (4 * x.cols) k)) ∧
      (s.dp.fr.regen = true → t.dp.mem.cells = s.dp.mem.cells) ∧
      (∀ v : Nat → Word, s.dp.fr.regen = false →
        (∀ n, n < x.elems → ∃ regs, (upChunk s.env j.val w false false (n / 64) s.dp).1 = some regs ∧
          v n = (regs.getD (n % 64) []).getD 6 0) →
        (x.rven = true → x.cven = true → x.raddr + 64 * ceilDiv x.rows 16 ≤ x.caddr ∨ x.caddr + 4 * x.cols ≤ x.raddr) →
        (x.rven = true → viewOpen s j.val x.raddr (64 * ceilDiv x.rows 16)) → (x.cven = true → viewOpen s j.val x.caddr (4 * x.cols)) →
        (x.rven = true → ∀ r, r < x.rows → BitVec.ofNat 32 (viewRead s t j.val (x.raddr + 4 * r) 4) =
          sumUp ((List.range x.cols).map (fun i => v (r * x.cols + i)))) ∧
        (x.cven = true → ∀ i, i < x.cols → BitVec.ofNat 32 (viewRead s t j.val (x.caddr + 4 * i) 4) =
          sumUp ((List.range x.rows).map (fun r => v (r * x.cols + i)))))) ∧
    (s.dispatches u 0x15 w.toNat = true → takeValid w = true → (s.dp.getUpu j.val).free (x.foot 0x15) = true → s.clean → ∃ t, exec (.take j w) s = .next t ∧ s.ranDp t u ∧ s.keeps t (viewBytes s j.val x.gaddr (4 * x.elems)) ∧
      (s.dp.fr.regen = true → t.dp.mem.cells = s.dp.mem.cells) ∧
      (∀ o, s.dp.fr.regen = false → o % 64 = 0 → x.gaddr ≤ o → o < x.gaddr + 4 * x.elems → s.dp.mem.inView o = true →
        s.dp.mem.inAcc (.local_ j.val o) = true → s.env.mayWrite u (localAddr j.val o) = true → viewRead s t j.val o 64 = 0))) ∧
  (∀ (j : Fin 12) (blk : Nat) (s : State),
    (s.dp.fr.voided = true → exec (.stagingBlockResident j blk) s = .next s) ∧
    (s.dp.fr.jobStop = none → (∀ r ∈ (s.dp.getUpu j.val).ops, r.resumes s.dp.mem j.val blk = false) →
      exec (.stagingBlockResident j blk) s = .next s) ∧
    (∀ r x, (s.dp.getUpu j.val).ops = [r] → x = upOp r.w → r.resumes s.dp.mem j.val blk = true →
      x.blocks.all (s.dp.mem.resident j.val) = true → s.dp.fr.voided = false → s.dp.fr.jobStop = none → s.clean →
        ∃ t, exec (.stagingBlockResident j blk) s = .next t ∧ (∀ v, (t.dp.getUnit v).idx = (s.dp.getUnit v).idx) ∧
          s.keeps t (updBytes s j.val x) ∧ ((x.wb = false ∨ s.hp.linkUp = true) → (t.dp.getUpu j.val).ops = []) ∧
          (s.dp.fr.regen = false → updDone s t j.val r x)))

/-- OPEN, SEAL, EMBER_RECEIVE, TALLY_RECEIVE.  -/
def Obligations.EmberSlotsAreOpenedSealedAndFilled : Prop :=
  (∀ (j : Fin 12) (w : BitVec 512) (s : State) (u : Nat), u = upuUid j.val →
    (s.dispatches u 0x16 w.toNat = true → openValid j.val w s.dp = true →
      (emberGated s.env j.val s.dp = true → ∃ t, exec (.open_ j w) s = .next t ∧ s.ranAlone t u ∧ t.dp.mem = s.dp.mem ∧
        t.dp.getUpu j.val = { s.dp.getUpu j.val with openIssued := (s.dp.getUpu j.val).openIssued || !s.dp.fr.regen } ∧
        ∀ k, k ≠ j.val → t.dp.getUpu k = s.dp.getUpu k) ∧
      (emberGated s.env j.val s.dp = false → ∃ t, exec (.open_ j w) s = .next t ∧ (t.dp.getUpu j.val).openIssued = true ∧
        (t.dp.getUpu j.val).opened = true ∧ (t.dp.getUnit u).idx = (s.dp.getUnit u).idx + 1 ∧ s.keepsOthers t u ∧ s.keeps t noByte ∧
        (s.torus.emberDir < 6 → s.dp.mem.slotBytes ≠ 0 → (t.dp.getUnit u).held = true ∧
          t.torus.later = s.torus.later ++ [⟨u, t.awaitsOf u, .release⟩]))) ∧
    (s.dispatches u 0x17 w.toNat = true → sealValid j.val w s.dp = true →
      (emberGated s.env j.val s.dp = true → ∃ t, exec (.seal j w) s = .next t ∧ s.ranAlone t u ∧ t.dp.mem = s.dp.mem ∧
        t.dp.getUpu j.val = { s.dp.getUpu j.val with sealIssued := (s.dp.getUpu j.val).sealIssued || !s.dp.fr.regen } ∧
        ∀ k, k ≠ j.val → t.dp.getUpu k = s.dp.getUpu k) ∧
      (emberGated s.env j.val s.dp = false → ∃ t, exec (.seal j w) s = .next t ∧ (t.dp.getUpu j.val).sealIssued = true ∧
        (t.dp.getUpu j.val).opened = false ∧ (t.dp.getPart (s.env.partOf j.val)).sealed = true ∧
        (t.dp.getPart (s.env.partOf j.val)).sealStep = (s.dp.getPart (s.env.partOf j.val)).step ∧
        (t.dp.getUnit u).idx = (s.dp.getUnit u).idx + 1 ∧ s.keepsOthers t u ∧ s.keeps t noByte))) ∧
  (∀ (k : Packet) (s : State),
    (k ∉ s.torus.inbox → exec (.emberReceive k) s = .next s ∧ exec (.tallyReceive k) s = .next s) ∧
    (k.typ = 5 → k ∈ s.torus.inbox → s.torus.hop k.spod k.spkg ≠ .local_ →
      (k.tag.getLsbD 36 = false → ∀ j slot, j = bits k.tag 32 4 → slot = s.slotOf j → ∃ t, exec (.emberReceive k) s = .next t ∧
        t.torus.inbox = s.torus.inbox.erase k ∧ t.scr = s.scr ∧
        s.keeps t (fun a => decide (j < 12) && viewBytes s j (s.dp.mem.slotAt slot k.addr) (64 * k.lines.length) a) ∧
        (s.torus.fromSource k = false → t.dp.mem.cells = s.dp.mem.cells) ∧
        ∀ i v o, s.torus.fromSource k = true → j < 12 → k.lines[i]? = some v → o = k.addr + 64 * i → o % 64 = 0 → o < s.dp.mem.slotBytes →
          viewRead s t j (s.dp.mem.slotAt slot o) 64 = v.toNat) ∧
      (k.tag.getLsbD 36 = true → ∀ par, par = b2n (k.tag.getLsbD 37) → ∃ t, exec (.tallyReceive k) s = .next t ∧
        t.torus.inbox = s.torus.inbox.erase k ∧ t.scr = s.scr ∧ t.dp.mem = s.dp.mem ∧
        (s.torus.fromSource k = false → t.dp.fr = s.dp.fr) ∧
        (∀ p, p ≠ par → t.dp.fr.heldTally.get [] p = s.dp.fr.heldTally.get [] p ∧ t.dp.fr.inTally.get [] p = s.dp.fr.inTally.get [] p) ∧
        ∀ i v, s.torus.fromSource k = true → k.lines[i]? = some v → k.addr / 64 + i < 677 →
          Tab.get 0 (t.dp.fr.inTally.get [] par) (k.addr / 64 + i) = v ∨ Tab.get 0 (t.dp.fr.heldTally.get [] par) (k.addr / 64 + i) = v)))

/-- Routes across die edges; EDGE_SLOT_RECEIVE, EDGE_TRAINING_DONE, FORCED_RESET, DIE_CLOCK_LOSS.  -/
def Obligations.EdgesTrainRetryAndFail : Prop :=
  (∀ (a : Nat) (x : Option Nat), a < 4 → edgeRoute a a x = [] ∧ edgeRoute a ((a + 1) % 4) x = [2 * a] ∧
    edgeRoute a ((a + 3) % 4) x = [2 * a + 1] ∧ edgeRoute a ((a + 2) % 4) none = [2 * a, 2 * ((a + 1) % 4)] ∧
    ∀ y, edgeRoute a ((a + 2) % 4) (some y) =
      if y / 4096 % 2 = 0 then [2 * a, 2 * ((a + 1) % 4)] else [2 * a + 1, 2 * ((a + 3) % 4) + 1]) ∧
  (∀ (a b y : Nat) (l : Loc) (d : Dp), a < 4 → l.home = b → b < 4 → ∀ i, i < 8 →
    (d.crossTo a y l).edgeTx.get 0 i = (if i ∈ edgeRoute a b (some y) then satAdd (d.edgeTx.get 0 i) 1 else d.edgeTx.get 0 i) ∧
    (d.crossTo a y l).edgeRx.get 0 (edgePeer i) =
      (if i ∈ edgeRoute a b (some y) then satAdd (d.edgeRx.get 0 (edgePeer i)) 1 else d.edgeRx.get 0 (edgePeer i)) ∧
    (d.crossFrom a y l).edgeTx.get 0 (edgePeer i) =
      (if i ∈ edgeRoute a b (some y) then satAdd (d.edgeTx.get 0 (edgePeer i)) 1 else d.edgeTx.get 0 (edgePeer i))) ∧
  (∀ (e : Fin 8) (m : Fin 16) (k : Fin 64) (ok clk : Bool) (s : State) (x : EdgeEnd) (n : Nat), x = s.edge.endAt e.val → n = 64 * m.val + k.val →
    (x.state ≠ .live → exec (.edgeSlotReceive ⟨e, m, k⟩ ⟨ok, clk⟩) s = .next s) ∧
    (x.state = .live → clk = true → ok = true → ∃ t, exec (.edgeSlotReceive ⟨e, m, k⟩ ⟨ok, clk⟩) s = .next t ∧
      t = { s with edge := { s.edge with ends := t.edge.ends } } ∧ t.edge.endAt e.val = { x with fails := x.fails.put 0 n 0 } ∧
      ∀ i, i ≠ e.val → t.edge.endAt i = s.edge.endAt i) ∧
    (x.state = .live → clk = true → ok = false → x.fails.get 0 n < 16 → ∃ t, exec (.edgeSlotReceive ⟨e, m, k⟩ ⟨ok, clk⟩) s = .next t ∧
      t = { s with edge := { s.edge with ends := t.edge.ends } } ∧
      t.edge.endAt e.val = { x with
        crcErr := satAdd x.crcErr 1
        fails := x.fails.upd 0 n (· + 1) } ∧
      t.edge.endAt (edgePeer e.val) = { s.edge.endAt (edgePeer e.val) with retry := satAdd (s.edge.endAt (edgePeer e.val)).retry 1 } ∧
      ∀ i, i ≠ e.val → i ≠ edgePeer e.val → t.edge.endAt i = s.edge.endAt i) ∧
    (x.state = .live → (clk = false ∨ (ok = false ∧ 16 ≤ x.fails.get 0 n)) → ∃ t, exec (.edgeSlotReceive ⟨e, m, k⟩ ⟨ok, clk⟩) s = .next t ∧
      t.edge.faulted = true ∧ t.edge.present = s.edge.present ∧ t.edge.lost = s.edge.lost ∧
      (t.edge.endAt e.val).crcErr = (if clk then satAdd x.crcErr 1 else x.crcErr) ∧ s.keeps t noByte ∧
      (s.edge.faulted = false → t.dp.fr.fenced = true ∧ t.dp.fr.last = s.dp.fr.last + 1 ∧ ∀ i, i < 8 → (t.edge.endAt i).state = .fenced))) ∧
  (∀ (p : Fin 4) (w0 w1 : BitVec 32) (s : State) (a b : Nat) (good : Bool), a = 2 * p.val → b = edgePeer a →
    good = trainGood (w0 &&& 0xFFFF03FF#32) (w1 &&& 0xFFFF03FF#32) →
    ((s.edge.endAt a).state ≠ .training → exec (.edgeTrainingDone p w0 w1) s = .next s) ∧
    ((s.edge.endAt a).state = .training → ∃ t, exec (.edgeTrainingDone p w0 w1) s = .next t ∧
      t = { s with edge := { s.edge with
        ends := t.edge.ends
        failed := s.edge.failed || !good
        freset := t.edge.freset } } ∧
      t.edge.endAt a = { s.edge.endAt a with
        state := if good then .live else .down
        train := w0 &&& 0xFFFF03FF#32
        peer := w1 &&& 0xFFFF03FF#32 } ∧
      t.edge.endAt b = { s.edge.endAt b with
        state := if good then .live else .down
        train := w1 &&& 0xFFFF03FF#32
        peer := w0 &&& 0xFFFF03FF#32 } ∧
      (∀ i, i ≠ a → i ≠ b → t.edge.endAt i = s.edge.endAt i) ∧
      ((∀ i, i < 8 → (t.edge.endAt i).state = .live) → t.edge.freset = 0) ∧
      (∀ i, i < 8 → (t.edge.endAt i).state ≠ .live → t.edge.freset = s.edge.freset))) ∧
  (∀ (s : State),
    (s.edge.failed = false → exec .forcedReset s = .next s) ∧
    (s.edge.failed = true → ∃ t, exec .forcedReset s = .next t ∧ t.edge.freset.toNat = min 255 (s.edge.freset.toNat + 1) ∧
      t.edge.failed = false ∧ t.dp.fr.fenced = s.dp.fr.fenced ∧ t.edge.lost = s.edge.lost ∧ (2 ≤ s.edge.freset.toNat → t.edge.defect = true ∧ t.bu.stage = .defect ∧ ∀ i, i < 8 → (t.edge.endAt i).state = .down) ∧
      t.bu.rstCause = 4 ∧ t.dp.mem.cells = [] ∧ t.dp.fr.last = s.dp.fr.last + 1 ∧ t.pending = s.pending ∧
      ∀ p, (t.getPartn p).launch = none)) ∧
  (∀ (d : Fin 4) (s : State), ∃ t, exec (.dieClockLoss d) s = .next t ∧ t.edge.faulted = true ∧
    t.edge.present = s.edge.present &&& ~~~(1#4 <<< d.val) ∧ t.edge.lost = s.edge.lost ||| (1#4 <<< d.val) ∧
    (d.val = 0 → t.hp.linkUp = false ∧ t.hp.cacheEn = false ∧ t.hp.memEn = false ∧ (s.hp.linkUp = true → t.hp.errDown = true)) ∧
    (s.edge.faulted = true → t = { s with
      edge := t.edge
      hp := t.hp
      dp := { s.dp with irq := t.dp.irq } }) ∧
    (s.edge.faulted = false → t.dp.fr.fenced = true ∧ t.dp.log.frozen = true ∧ t.dp.fr.last = s.dp.fr.last + 1 ∧
      s.keeps t noByte ∧ ∀ i, i < 8 → (t.edge.endAt i).state = .fenced))

/-- VIRAL, HOST_LINK_DOWN_TIMEOUT, HOST_LINK_DOWN, HOST_LINK_UP, IDE_INTEGRITY_FAIL, PERST_N.  -/
def Obligations.HostLinkFollowsItsPins : Prop :=
  (∀ (s : State), ∃ t, exec .viral s = .next t ∧ t.hp.viral = true ∧ t.hp.errViral = true ∧
    ((s.dp.fr.hold || s.dp.fr.pendHold) = true → t.dp.fr.last = s.dp.fr.last) ∧
    ((s.dp.fr.hold || s.dp.fr.pendHold) = false → t.dp.fr.last = s.dp.fr.last + 1) ∧
    ((s.dp.fr.hold || s.dp.fr.pendHold) = false → s.dp.fr.open_ = [] → s.dp.fr.jobStop = none → t.dp.fr.voided = true ∧
      t.dp.fr.open_.map (·.cls) = [2] ∧ s.keeps t noByte ∧ t.scr = s.scr)) ∧
  (∀ (s : State),
    (s.hp.linkUp = true → exec .hostLinkDownTimeout s = .next s) ∧
    (s.hp.linkUp = false → ∃ t, exec .hostLinkDownTimeout s = .next t ∧ t.dp.fr.fenced = true ∧ t.dp.fr.last = s.dp.fr.last + 1 ∧
      t.dp.mem.cells = s.dp.mem.cells ∧
      (s.dp.fr.open_ = [] → s.dp.fr.jobStop = none → t.dp.fr.open_.map (·.cls) = [9] ∧ t.scr = s.scr))) ∧
  (∀ (s : State), ∃ t, exec .hostLinkDown s = .next t ∧ t = { s with
      hp := { s.hp with
        speed := 0
        width := 0
        degraded := false
        errDown := true }
      dp := { s.dp with irq := t.dp.irq } }) ∧
  (∀ (sp wd : BitVec 8) (s : State),
    (s.bu.ready = false ∨ s.bu.perst = true → exec (.hostLinkUp sp wd) s = .next s) ∧
    (s.bu.ready = true → s.bu.perst = false → ∃ t, exec (.hostLinkUp sp wd) s = .next t ∧ t = { s with
      hp := { s.hp with
        speed := sp
        width := wd
        degraded := decide (sp.toNat < 64) || decide (wd.toNat < 8) }
      dp := t.dp } ∧ t.dp.mem.cells = s.dp.mem.cells ∧ t.dp.fr.voided = s.dp.fr.voided ∧ (t.hp.linkUp = false → t.dp = s.dp) ∧
      (t.hp.linkUp = true → s.dp.fr.voided = false → ∀ j r, j < 12 → r ∈ (t.dp.getUpu j).ops → r.back = []))) ∧
  (∀ (s : State), ∃ t, exec .ideIntegrityFail s = .next t ∧ t = { s with
      hp := { s.hp with errIde := true }
      dp := { s.dp with irq := t.dp.irq } }) ∧
  (∀ (s : State), exec (.perstN false) s = .next { s with bu := { s.bu with perst := false } }) ∧
  (∀ (s : State), ∃ t, exec (.perstN true) s = .next t ∧ t.bu = { s.bu with perst := true } ∧ t.hp.linkUp = false ∧ t.hp.cacheEn = false ∧
    t.hp.memEn = false ∧ (s.hp.linkUp = true → t.hp.errDown = true) ∧ t.sec = { s.sec with
      ideKeys := []
      ideOn := false } ∧
    t.dp = { s.dp with
      mem := { s.dp.mem with
        hdmBase := 0
        hdmSize := 0 }
      irq := t.dp.irq } ∧
    t.scr = s.scr ∧ t.clk = s.clk ∧ t.torus = s.torus ∧ t.edge = s.edge)

/-- POWER_ESTIMATE, COEFFICIENT_TRIM, FORECAST, DROOP_RESPONSE, DROOP_END, THERMAL_SAMPLE.  -/
def Obligations.DamperMeasuresTrimsAndForecasts : Prop :=
  (∀ (o : PowerObs) (s s' : State) (base fl : Nat), s' = s.advance ((s.clk.tb.toNat / 2000 + 1) * 2000) →
    base = ((List.range 4).map (s'.diePj o)).foldl (· + ·) 0 + 2000 * (fixedMw s'.pkgIdle).2 → fl = (s'.filler o (base / 2000)).1 →
    ∃ t, exec (.powerEstimate o) s = .next t ∧ t.clk = s'.clk ∧ t.dp.mem = s.dp.mem ∧ t.scr = s.scr ∧
      t.pw.est = BitVec.ofNat 16 (satTo 16 ((base + 2000 * fl) / 2000 / 1000)) ∧ t.pw.meas = BitVec.ofNat 16 (satTo 16 o.meas) ∧
      t.pw.trimPj = s.pw.trimPj + (base + 2000 * fl) ∧ t.pw.strokePj = s.pw.strokePj + (base + 2000 * fl) ∧
      t.pw.clamp = decide ((if t.pw.used50 then t.pw.capEff else 3300) * 1000 < (base + 2000 * fl) / 2000) ∧
      t.pw.clampCnt = (if t.pw.clamp then satAdd s.pw.clampCnt 1 else s.pw.clampCnt) ∧
      t.pw.energy.unattrib = s.pw.energy.unattrib + 2000 * (fixedMw s'.pkgIdle).2 +
        (((List.range 4).filter (fun d => (s'.partOfDie d).isNone)).map (s'.diePj o)).foldl (· + ·) 0) ∧
  (∀ (uj : Nat) (s : State),
    (s.pw.trimPj = 0 → exec (.coefficientTrim uj) s = .next s) ∧
    (s.pw.trimPj ≠ 0 → ∃ t, exec (.coefficientTrim uj) s = .next t ∧ t.pw = { s.pw with
        scale := t.pw.scale
        trimPj := 0
        trimLim := t.pw.trimLim } ∧ t.dp.mem = s.dp.mem ∧ t.scr = s.scr ∧
      (100 * (uj * 1000000) < 85 * s.pw.trimPj → t.pw.scale = s.pw.scale * 85 / 100 ∧ t.pw.trimLim = true) ∧
      (115 * s.pw.trimPj < 100 * (uj * 1000000) → t.pw.scale = s.pw.scale * 115 / 100 ∧ t.pw.trimLim = true) ∧
      (85 * s.pw.trimPj ≤ 100 * (uj * 1000000) → 100 * (uj * 1000000) ≤ 115 * s.pw.trimPj →
        t.pw.scale = s.pw.scale * (uj * 1000000) / s.pw.trimPj ∧ t.pw.trimLim = s.pw.trimLim))) ∧
  (∀ (s : State),
    (s.bu.ready = false → exec .forecast s = .next s) ∧
    (s.bu.ready = true → ∃ t m, exec .forecast s = .next t ∧ t = { s with out := { s.out with mgmt := m :: s.out.mgmt } } ∧ m.length = 540 ∧
      (m.drop 12).take 8 = natBytes 8 (s.clk.stroke.toNat + 1) ∧
      ∀ i, i < 256 → (m.drop (28 + 2 * i)).take 2 = natBytes 2 (satTo 16 (s.forecastW i)))) ∧
  (∀ (r : Fin 64) (below b lv : Nat) (s : State), b = max below (s.supplyLow r.val) →
    lv = (if s.pw.droop.get 0 r.val = 3 ∧ 50 ≤ b then 3 else if b < 25 then 0 else if b < 50 then 1 else if b < 100 then 2 else 3) →
    ((lv = 0 ∨ 2 ≤ s.regionIdle r.val) → exec (.droopResponse r below) s = .next s) ∧
    (lv ≠ 0 → s.regionIdle r.val < 2 → ∃ t, exec (.droopResponse r below) s = .next t ∧ t.dp.mem = s.dp.mem ∧ t.scr = s.scr ∧
      t.pw.droop.get 0 r.val = lv ∧
      (s.pw.droop.get 0 r.val = 0 → t.pw.droopCnt = satAdd s.pw.droopCnt 1 ∧
        ∀ u, u ∈ s.env.working → unitKind u < 5 → uidCluster u / 8 = r.val →
          (t.dp.getUnit u).cause = (s.dp.getUnit u).cause ||| 4#6) ∧
      (s.pw.droop.get 0 r.val ≠ 0 → t = { s with pw := { s.pw with droop := t.pw.droop } }))) ∧
  (∀ (r : Fin 64) (n : Nat) (s : State),
    ((s.pw.droop.get 0 r.val = 0 ∨ 25 ≤ s.supplyLow r.val) → exec (.droopEnd r n) s = .next s) ∧
    (s.pw.droop.get 0 r.val ≠ 0 → s.supplyLow r.val < 25 → ∃ t, exec (.droopEnd r n) s = .next t ∧ t.pw = { s.pw with droop := t.pw.droop } ∧
      t.pw.droop.get 0 r.val = 0 ∧ (∀ k, k ≠ r.val → t.pw.droop.get 0 k = s.pw.droop.get 0 k) ∧ t.dp.mem = s.dp.mem ∧
      t.dp.units = s.dp.units)) ∧
  (∀ (tj : List Nat) (c : Nat) (s : State), s.dp.fr.open_ = [] → s.dp.fr.jobStop = none →
    ∃ t, exec (.thermalSample tj c) s = .next t ∧ s.keeps t noByte ∧ t.clk = s.clk ∧
      t.pw.tinAcc = s.pw.tinAcc - s.pw.tinAcc / 5000000 + c ∧
      (∀ r, r < 64 → t.pw.tj.get 0 r = BitVec.ofNat 8 (satTo 8 (tj.getD r 0)) ∧
        (105 ≤ tj.getD r 0 → r ∈ t.pw.emerg) ∧ (tj.getD r 0 ≤ 100 → r ∉ t.pw.emerg) ∧
        (100 < tj.getD r 0 → tj.getD r 0 < 105 → (r ∈ t.pw.emerg ↔ r ∈ s.pw.emerg))) ∧
      ((∀ r, r < 64 → tj.getD r 0 < 115) → t.pw.tripped = s.pw.tripped ∧ t.dp.fr = s.dp.fr) ∧
      (∀ r, r < 64 → 115 ≤ tj.getD r 0 → s.pw.tripped = false → t.pw.tripped = true ∧ t.pw.mv = [] ∧ t.pw.uv = [] ∧ t.bu.thermTrip = true ∧
        t.dp.fr.voided = true ∧ t.dp.fr.open_.map (·.cls) = [6]))

/-- IDLE_GLOW_ENTRY, IDLE_BANKED_ENTRY, COLD_ENTRY, WAKE_COMPLETE, MANAGEMENT_WAKE.  -/
def Obligations.IdleStatesDeepenAndWake : Prop :=
  (∀ (p : Fin 4) (s : State),
    (s.mayIdle p.val 1 = false → exec (.idleGlowEntry p) s = .next s) ∧
    (s.mayIdle p.val 2 = false → exec (.idleBankedEntry p) s = .next s) ∧
    (s.mayIdle p.val 1 = true → ∃ t, exec (.idleGlowEntry p) s = .next t ∧ t.idleOf p.val = 1 ∧ (∀ q, q ≠ p.val → t.idleOf q = s.idleOf q) ∧
      t.dp.mem = s.dp.mem ∧ t.dp.units = s.dp.units ∧ t.scr = s.scr ∧ t.hp = s.hp) ∧
    (s.mayIdle p.val 2 = true → ∃ t, exec (.idleBankedEntry p) s = .next t ∧ t.idleOf p.val = 2 ∧ (∀ q, q ≠ p.val → t.idleOf q = s.idleOf q) ∧
      t.dp.mem = s.dp.mem ∧ t.dp.units = s.dp.units ∧ t.scr = s.scr ∧ t.hp = s.hp)) ∧
  (∀ (s : State) (ok : Prop), ok = (s.pw.coldOk = true ∧ s.pw.cold = false ∧ ∀ p, p < 4 → (s.getPartn p).dies ≠ 0 →
      s.partIdle p = true ∧ s.idleOf p = 2 ∧ 40000 ≤ (s.getPartn p).lat.toNat ∧ s.pw.waking.get none p = none) →
    (¬ ok → exec .coldEntry s = .next s) ∧
    (ok → ∃ t, exec .coldEntry s = .next t ∧ t.pw.cold = true ∧ (∀ p, p < 4 → (s.getPartn p).dies ≠ 0 → t.idleOf p = 3) ∧ t.edge.present = 0 ∧
      (∀ x ∈ t.torus.ports, x.2.state = .down ∨ x.2.state = .unused) ∧ t.clk.joined = false ∧
      (∀ k, t.dp.mem.byte k = if k < 2 ^ 40 then s.dp.mem.byte k else 0) ∧ (∀ i, i < 8 → (t.edge.endAt i).state = .down) ∧
      t.dp.log.rings = [] ∧ t.scr = s.scr ∧ t.hp = s.hp)) ∧
  (∀ (p : Fin 4) (s : State),
    (s.pw.waking.get none p.val = none → exec (.wakeComplete p) s = .next s) ∧
    (∀ dst, s.pw.waking.get none p.val = some dst →
      (s.pw.cold = true → (∃ i, i < 8 ∧ (s.edge.endAt i).state ≠ .live) → exec (.wakeComplete p) s = .next s) ∧
      ((s.pw.cold = true → ∀ i, i < 8 → (s.edge.endAt i).state = .live) → ∃ t, exec (.wakeComplete p) s = .next t ∧
        ((s.pw.cold = false ∨ s.dp.fr.regen = false) → t.idleOf p.val = dst ∧ t.pw.cold = false ∧ t.pw.waking.get none p.val = none ∧
          t.dp.mem = s.dp.mem ∧ t.scr = s.scr ∧ t.hp = s.hp)))) ∧
  (∀ (p : Fin 4) (s : State),
    (s.idleOf p.val = 0 → exec (.managementWake p) s = .next s) ∧
    (s.idleOf p.val ≠ 0 → ∃ t, exec (.managementWake p) s = .next t ∧ t.pw.waking.get none p.val = some 0 ∧ t.dp = s.dp ∧ t.scr = s.scr ∧
      ((s.pw.cold = false ∨ s.pw.waking.all (fun x => x.2.isNone) = false) → t = { s with pw := { s.pw with waking := t.pw.waking } }) ∧
      (s.pw.cold = true → s.pw.waking.all (fun x => x.2.isNone) = true → t.pw.coldOk = false ∧ t.edge.present = 0xF ∧ ∀ i, i < 8 → (t.edge.endAt i).state = .training)))

/-- RATE_BUCKET_END, EV_HACK, TR_SEL, TRACE_FREEZE, TRACE_RESUME, SPILL_PAD.  -/
def Obligations.RecorderBucketsHoldsAndTraces : Prop :=
  (∀ (s : State), ∃ t, exec .rateBucketEnd s = .next t ∧ t.clk = (s.advance ((s.clk.tb.toNat / 1000000 + 1) * 1000000)).clk ∧
    t.dp.log.rate = s.dp.log.rateNext ∧ t.dp.log.suppressed = [] ∧ t.dp.log.bucket = t.clk.tb ∧ t.dp.log.supp = s.dp.log.supp ∧
    (s.dp.log.ready = true → t.dp.log.head = s.dp.log.head + BitVec.ofNat 32 s.dp.log.ratesums.length) ∧
    t.dp.mem = s.dp.mem ∧ t.dp.units = s.dp.units ∧ t.scr = s.scr) ∧
  (∀ (v : BitVec 32) (s : State), ∃ t, exec (.evHack v) s = .next t ∧
    t = { s with dp := { s.dp with log := { s.dp.log with held := t.dp.log.held } } } ∧
    (∀ k, k ∈ t.dp.log.held → k ∈ s.dp.log.held) ∧
    (∀ k, k ∈ s.dp.log.held → recSeq (s.dp.log.hold.get 0 k) ≠ v → k ∈ t.dp.log.held) ∧
    (∀ k, s.dp.log.held.find? (fun k => recSeq (s.dp.log.hold.get 0 k) == v) = some k → k ∉ t.dp.log.held)) ∧
  (∀ (v : BitVec 32) (s : State) (u : Nat), u = v.toNat % 2 ^ 16 → ∃ t, exec (.trSel v) s = .next t ∧
    t = { s with dp := { s.dp with log := { s.dp.log with
      trSel := v.setWidth 16
      snap := t.dp.log.snap
      snapTs := s.clk.tb
      snapBad := t.dp.log.snapBad } } } ∧
    (hasRing u = true → t.dp.log.snap = (s.dp.log.rings.get [] u).reverse ∧ t.dp.log.snapBad = s.dp.log.snapBad) ∧
    (hasRing u = false → t.dp.log.snap = [] ∧ t.dp.log.snapBad = true)) ∧
  (∀ (s : State), ∃ t, exec .traceFreeze s = .next t ∧ t.dp.log.freeze = true ∧ t.dp.log.frozen = true ∧ t.dp.log.rings = s.dp.log.rings ∧
    t.dp.mem = s.dp.mem ∧ t.dp.units = s.dp.units ∧ t.scr = s.scr ∧ (s.dp.log.frozen = true → t.dp.log.head = s.dp.log.head) ∧
    (s.dp.log.frozen = false → s.dp.log.ready = true → t.dp.log.head = s.dp.log.head + 1)) ∧
  (∀ (s : State), exec .traceResume s = .next { s with dp := { s.dp with log := { s.dp.log with
      auto := false
      frozen := s.dp.log.frozen && s.dp.log.freeze } } }) ∧
  (∀ (j : Fin 12) (s : State) (p : Nat), p = (s.dp.log.inkLine.get 0 j.val).toNat % (s.dp.mem.ink.toNat * 2 ^ 20) →
    (s.dp.log.frozen = true ∨ s.dp.log.spillQ.get [] j.val = [] → exec (.spillPad j) s = .next s) ∧
    (∀ a l, s.dp.log.frozen = false → s.dp.log.spillQ.get [] j.val = a :: l → ∃ t, exec (.spillPad j) s = .next t ∧ s.onlyDp t ∧
      t.dp.log.spillQ.get [] j.val = [] ∧ s.keeps t noByte ∧ t.dp.units = s.dp.units ∧
      (s.dp.mem.ink = 0 → t.dp.mem = s.dp.mem ∧ t.dp.log.spillDrop = satAdd s.dp.log.spillDrop 2) ∧
      (s.dp.mem.ink ≠ 0 → readBytes t.dp.mem.cells (hbmKey j.val (s.dp.mem.inkBase + 64 * p)) 64 = a.toNat ∧
        (t.dp.log.inkLine.get 0 j.val).toNat = if p + 1 = s.dp.mem.ink.toNat * 2 ^ 20 then 0 else (p + 1) % 2 ^ 24)))

/-- Die `i` works for a launch that has begun. -/
def ranOn (s : State) (i : Nat) : Prop := ∃ p l, s.partOfDie i = some p ∧ (s.getPartn p).launch = some l ∧ l.began = true

/-- REPLAY, RECOVER, RECOV_RD_RECEIVE, RECOV_DATA_RECEIVE, SUSPECT_DECLARATION.  -/
def Obligations.VoidedStrokesReplayOrRecover : Prop :=
  (∀ (s : State),
    (s.dp.fr.mayReplay = false ∨ s.pw.tripped = true → exec .replay s = .next s) ∧
    (s.dp.fr.mayReplay = true → s.pw.tripped = false → ∃ t, exec .replay s = .next t ∧ t.dp.fr.voided = false ∧ t.dp.fr.replay = true ∧
      t.dp.fr.replayCnt = satAdd s.dp.fr.replayCnt 1 ∧ s.keeps t noByte ∧ t.scr = s.scr ∧ t.hp = s.hp ∧ t.clk.own = 0 ∧
      (∀ i, ranOn s i → ∀ c, c / 128 = i → t.dp.mxa.get {} c = s.dp.snap.mxa.get {} c ∧ t.dp.brush.get {} c = s.dp.snap.brush.get {} c ∧
        t.dp.idx.get {} c = s.dp.snap.idx.get {} c) ∧
      (∀ p l, (s.getPartn p).launch = some l → l.began = true → (t.dp.getPart p).step = (s.dp.snap.part.get {} p).step ∧
        (t.dp.getPart p).winvCnt = (s.dp.getPart p).winvCnt ∧ (t.dp.getPart p).covered = (s.dp.getPart p).covered) ∧
      (∀ u, (t.dp.getUnit u).perf = (s.dp.getUnit u).perf ∧ (t.dp.getUnit u).disabled = (s.dp.getUnit u).disabled) ∧
      (∀ u, ranOn s (uidDie u) → (t.dp.getUnit u).idx = (s.dp.snap.units.get {} u).idx ∧
        (t.dp.getUnit u).cnt = (s.dp.snap.units.get {} u).cnt ∧ (t.dp.getUnit u).sticky = (s.dp.snap.units.get {} u).sticky) ∧
      (∀ u, ¬ ranOn s (uidDie u) → (t.dp.getUnit u).idx = (s.dp.getUnit u).idx ∧ (t.dp.getUnit u).cnt = (s.dp.getUnit u).cnt ∧
        (t.dp.getUnit u).sticky = (s.dp.getUnit u).sticky))) ∧
  (∀ (tag : BitVec 16) (pl : List Byte) (s : State), s.answers = true → 24 ≤ pl.length → ∃ t, exec (.recover tag pl) s = .next t ∧
    t.out.mgmt.head? = some (mkMsg 0x0E 1 msOk tag []) ∧
    (s.launched = false ∨ s.dp.fr.voided = false → t.dp.fr = { s.dp.fr with
        recpt := BitVec.ofNat 64 (plAt pl 0 8)
        resume := BitVec.ofNat 64 (plAt pl 8 8)
        recStep := BitVec.ofNat 64 (plAt pl 16 8)
        rollbackCnt := if s.launched then satAdd s.dp.fr.rollbackCnt 1 else s.dp.fr.rollbackCnt
        pendHold := s.dp.fr.pendHold || s.launched
        replay := false } ∧ t.dp.mem.cells = s.dp.mem.cells ∧ t.dp.units = s.dp.units ∧
      t.scr = s.scr ∧ t.clk = s.clk ∧ t.out = { s.out with mgmt := mkMsg 0x0E 1 msOk tag [] :: s.out.mgmt })) ∧
  (∀ (k : Packet) (s : State),
    (k.typ ≠ 6 ∨ k ∉ s.torus.inbox → exec (.recovRdReceive k) s = .next s) ∧
    (k.typ = 6 → k ∈ s.torus.inbox → s.torus.fromSource k = false → exec (.recovRdReceive k) s = .next (s.takeInbox k)) ∧
    (k.typ = 6 → k ∈ s.torus.inbox → s.torus.fromSource k = true → s.torus.hop k.spod k.spkg ≠ .local_ → s.clean → recovStack k < 12 →
      k.addr % 64 = 0 → 1 ≤ recovLines k → recovLines k ≤ 64 →
      (if recovTally k then k.addr / 64 + recovLines k ≤ 677 else k.addr + 64 * recovLines k ≤ s.dp.mem.slotBytes) →
      ∃ t, exec (.recovRdReceive k) s = .next t ∧ t.torus.inbox = s.torus.inbox.erase k ∧ s.keeps t noByte ∧ t.dp.fr = s.dp.fr ∧
        t.dp.log.rtag = s.dp.log.rtag + 1 ∧ t.scr = s.scr)) ∧
  (∀ (k : Packet) (s : State) (key : Nat), key = (if recovTally k then 12 else recovStack k) →
    (k.typ ≠ 7 ∨ k ∉ s.torus.inbox ∨ s.hp.linkUp = false → exec (.recovDataReceive k) s = .next s) ∧
    (k.typ = 7 → k ∈ s.torus.inbox → s.hp.linkUp = true →
      (s.dp.fr.restoring = false ∨ s.dp.fr.awaited.get 0 key = 0 → exec (.recovDataReceive k) s = .next (s.takeInbox k)) ∧
      (s.dp.fr.restoring = true → s.dp.fr.awaited.get 0 key ≠ 0 → (∃ q, q ≠ key ∧ s.dp.fr.awaited.get 0 q ≠ 0) →
        ∃ t, exec (.recovDataReceive k) s = .next t ∧ t.torus.inbox = s.torus.inbox.erase k ∧ t.scr = s.scr ∧
          t.dp.fr.awaited.get 0 key = s.dp.fr.awaited.get 0 key - k.lines.length ∧
          (recovTally k = true → t.dp.mem = s.dp.mem ∧ ∀ i v, k.lines[i]? = some v →
            Tab.get 0 (t.dp.fr.ownTally.get [] (b2n (recovParity k))) (k.addr / 64 + i) = v) ∧
          s.keepsAddrs t (fun a => ∃ i, i < k.lines.length ∧ a = s.dp.fr.homeOf (recovStack k) (k.addr + 64 * i)) ∧
          ∀ i v a x, recovTally k = false → k.addr % 64 = 0 → k.lines[i]? = some v → k.addr + 64 * i + 64 ≠ s.dp.mem.slotBytes →
            k.addr + 64 * i < s.dp.fr.rsplit.toNat * 2 ^ 26 → a = s.dp.fr.homeOf (recovStack k) (k.addr + 64 * i) →
            s.dp.mem.at48 a = some (.local_ (recovStack k) x) →
            readBytes t.dp.mem.cells (s.dp.mem.key (.local_ (recovStack k) x)) 64 = v.toNat))) ∧
  (∀ (s : State),
    (s.bu.dark = true ∨ s.bu.booted = false → exec .suspectDeclaration s = .next s) ∧
    (s.bu.dark = false → s.bu.booted = true → ∃ t, exec .suspectDeclaration s = .next t ∧ t.dp.fr.fenced = true ∧
      t.dp.fr.last = s.dp.fr.last + 1 ∧ t.dp.mem.cells = s.dp.mem.cells ∧
      (s.dp.fr.open_ = [] → s.dp.fr.jobStop = none → t.dp.fr.open_.map (·.cls) = [10] ∧ t.scr = s.scr)))

/-- The one change is a response of the PMC to command `cmd`. -/
def replied (s : State) (cmd st : Nat) (tag : BitVec 16) (pay : List Byte) : State :=
  { s with out := { s.out with mgmt := mkMsg cmd 1 st tag pay :: s.out.mgmt } }

/-- The one change is an answer over SPDM, MCTP control or PLDM. -/
def answered (s : State) (r : Resp) : State := { s with out := { s.out with resp := r :: s.out.resp } }

/-- R482: what a request is answered that does not reach its command. -/
def turnedAway (s : State) (cmd need : Nat) (tag : BitVec 16) (pl : List Byte) (r : Host.Outcome State Fault Refusal) : Prop :=
  (s.bu.dark = true → r = .next s) ∧
  (s.bu.dark = false → s.bu.booted = false → r = .next (replied s cmd 4 tag [])) ∧
  (s.bu.dark = false → s.bu.booted = true → s.bu.ready = false → r = .next (replied s cmd 1 tag [])) ∧
  (s.answers = true → pl.length < need → r = .next (replied s cmd 2 tag []))

/-- Out-of-band status, seal, MCTP, I3C, lifecycle, key, inspection, provisioning and firmware requests are answered.  -/
def Obligations.ManagementRequestsAreAnswered : Prop :=
  (∀ (tag : BitVec 16) (pl : List Byte) (s : State),
    (s.bu.dark = true → exec (.status tag pl) s = .next s) ∧
    (s.bu.dark = false → ∃ m, exec (.status tag pl) s = .next (replied s 0x01 0 tag m) ∧ m.length = 32 ∧ m.take 4 = natBytes 4 (s.bu.reg 0) ∧
      (m.drop 12).take 4 = natBytes 4 (s.sec.reg 0) ∧ (m.drop 20).take 4 = natBytes 4 s.clk.stat ∧ m.drop 28 = natBytes 4 s.dp.fr.last.toNat)) ∧
  (∀ (tag : BitVec 16) (pl : List Byte) (s : State),
    turnedAway s 0x0D 6 tag pl (exec (.sealRead tag pl) s) ∧ turnedAway s 0x0A 4 tag pl (exec (.holdRead tag pl) s) ∧
    turnedAway s 0x0B 4 tag pl (exec (.holdAck tag pl) s) ∧
    (s.answers = true → 6 ≤ pl.length → sealReadOk pl = false → exec (.sealRead tag pl) s = .next (replied s 0x0D 2 tag [])) ∧
    (∀ first t, s.answers = true → 6 ≤ pl.length → sealReadOk pl = true → plAt pl 2 1 = 1 → first = plAt pl 4 2 →
      t = s.dp.fr.heldTally.get [] (plAt pl 1 1) → exec (.sealRead tag pl) s = .next (replied s 0x0D 0 tag (natBytes 8 (bits (Tab.get 0 t 0) 0 64) ++
        (List.range (min 63 (677 - first))).flatMap (fun i => natBytes 64 (Tab.get 0 t (first + i)).toNat)))) ∧
    (∀ z v, s.answers = true → 6 ≤ pl.length → sealReadOk pl = true → plAt pl 2 1 = 0 → s.clean → z = s.dp.mem.slotBytes → z ≠ 0 →
      v = readBytes s.dp.mem.cells (s.dp.mem.key (.local_ (plAt pl 0 1) (s.dp.mem.slotAt (plAt pl 1 1) (z - 64)))) 64 →
      exec (.sealRead tag pl) s = .next (replied s 0x0D 0 tag
        (natBytes 8 (bits (Tab.get 0 (s.dp.fr.heldTally.get [] (plAt pl 1 1)) 0) 0 64) ++ natBytes 64 v))) ∧
    (s.answers = true → 4 ≤ pl.length → ∃ l : List (BitVec 512), exec (.holdRead tag pl) s =
        .next (replied s 0x0A 0 tag (l.flatMap (fun r => natBytes 64 r.toNat))) ∧
      l.length ≤ 16 ∧ (∀ r, r ∈ l → ∃ k, k ∈ s.dp.log.held ∧ r = s.dp.log.hold.get 0 k) ∧
      ((s.dp.log.held.filter (fun k => decide ((recSeq (s.dp.log.hold.get 0 k) - BitVec.ofNat 32 (plAt pl 0 4)).toNat < 2 ^ 31))).length ≤ 16 →
        ∀ k, k ∈ s.dp.log.held → (recSeq (s.dp.log.hold.get 0 k) - BitVec.ofNat 32 (plAt pl 0 4)).toNat < 2 ^ 31 → s.dp.log.hold.get 0 k ∈ l)) ∧
    (s.answers = true → 4 ≤ pl.length → ∃ h, exec (.holdAck tag pl) s = .next (replied { s with dp := { s.dp with log := { s.dp.log with held := h } } } 0x0B 0 tag []) ∧
      (∀ k, k ∈ s.dp.log.held → recSeq (s.dp.log.hold.get 0 k) ≠ BitVec.ofNat 32 (plAt pl 0 4) → k ∈ h) ∧ ∀ k, k ∈ h → k ∈ s.dp.log.held)) ∧
  (∀ (s : State) (op : MctpOp) (a : BitVec 7),
    (s.bu.dark = true → exec (.mctpControl op) s = .next s ∧ exec (.i3cDynamicAddress a) s = .next s) ∧
    (s.bu.dark = false →
      exec (.i3cDynamicAddress a) s = .next { s with bu := { s.bu with i3c := some a } } ∧
      (∀ e, e ≠ 0 → e ≠ 0xFF → exec (.mctpControl (.setEid e)) s = .next (answered { s with bu := { s.bu with eid := e } } (.mctpEid e))) ∧
      exec (.mctpControl (.setEid 0)) s = .next (answered s .unsupported) ∧
      exec (.mctpControl (.setEid 0xFF)) s = .next (answered s .unsupported) ∧
      exec (.mctpControl .getEid) s = .next (answered s (.mctpEid s.bu.eid)) ∧
      exec (.mctpControl .messageTypes) s = .next (answered s (.mctpTypes [0, 1, 5, 6, 0x7F])) ∧
      (∀ n, exec (.mctpControl (.negotiateUnit n)) s =
        .next (answered { s with bu := { s.bu with mtu := min 256 (max 64 n) } } (.mctpUnit (min 256 (max 64 n))))) ∧
      exec (.mctpControl .other) s = .next (answered s .unsupported) ∧
      (∀ c tag, knownCmd c.toNat = false → exec (.mctpControl (.reservedCmd c tag)) s = .next (replied s c.toNat 4 tag [])))) ∧
  (∀ (tag : BitVec 16) (pl : List Byte) (s : State) (c : Sec), c = { s.sec with nonce := none } →
    (s.bu.dark = true → exec (.lifecycleNonce tag) s = .next s ∧ exec (.lifecycleTransition tag pl) s = .next s ∧
      exec (.keyRevoke tag pl) s = .next s ∧ exec (.inspectExit tag) s = .next s ∧ exec (.provision tag pl) s = .next s) ∧
    (s.bu.dark = false →
      (∃ n, n = Config.nonce s.sec.drawn ∧ exec (.lifecycleNonce tag) s = .next (replied { s with sec := { s.sec with
          nonce := some (n, s.clk.tb)
          drawn := s.sec.drawn + 1 } } 0x0F 0 tag (natBytes 48 n.toNat))) ∧
      (s.launched = true ∨ s.sec.pend ≠ 7 → exec (.lifecycleTransition tag pl) s = .next (replied s 0x0F 1 tag []) ∧
        exec (.inspectExit tag) s = .next (replied s 0x0F 1 tag []) ∧ exec (.provision tag pl) s = .next (replied s 0x0F 1 tag [])) ∧
      (s.launched = false → s.sec.pend = 7 →
        (pl.length < 160 → exec (.lifecycleTransition tag pl) s = .next (replied s 0x0F 2 tag [])) ∧
        (∀ t, 160 ≤ pl.length → t = plAt pl 4 1 → exec (.lifecycleTransition tag pl) s =
          if ((s.sec.lc = 1 ∧ t = 2) ∨ ((s.sec.lc = 1 ∨ s.sec.lc = 2) ∧ t = 3)) ∧ s.tokenOk pl t = true then
            .next (replied { s with sec := { c with pend := BitVec.ofNat 3 t } } 0x0F 0 tag [])
          else .next (replied { s with sec := c } 0x0F 3 tag [])) ∧
        exec (.inspectExit tag) s = (if s.sec.lc = 2 then .next (replied { s with sec := { c with pend := 1 } } 0x0F 0 tag [])
          else .next (replied { s with sec := c } 0x0F 3 tag [])) ∧
        exec (.provision tag pl) s = (if s.sec.lc = 0 then .next (replied { s with sec := { c with pend := 1 } } 0x0F 0 tag [])
          else .next (replied { s with sec := c } 0x0F 3 tag []))) ∧
      (pl.length < 160 → exec (.keyRevoke tag pl) s = .next (replied s 0x0F 2 tag [])) ∧
      (160 ≤ pl.length → exec (.keyRevoke tag pl) s =
        if s.tokenOk pl 0xFF = true ∧ s.sec.mayRevoke (plAt pl 5 1) = true then
          .next (replied { s with sec := { c with keyRev := c.keyRev ||| (1#4 <<< plAt pl 5 1) } } 0x0F 0 tag [])
        else .next (replied { s with sec := c } 0x0F 3 tag [])))) ∧
  (∀ (s : State) (op : FwOp),
    (s.bu.dark = true → exec (.pldmFirmwareUpdate op) s = .next s ∧ exec .firmwareTransferComplete s = .next s ∧ exec .firmwareActivate s = .next s) ∧
    (s.bu.dark = false →
      (∀ n, s.sec.xfer = none → ∃ t, exec (.pldmFirmwareUpdate (.begin_ n)) s = .next t ∧ t.sec.xfer = some ⟨n, 0⟩ ∧ t.sec.armed = false ∧
        t.sec.bank (!s.sec.active) = .empty ∧ t.sec.bank s.sec.active = s.sec.bank s.sec.active ∧ t = answered { s with sec := t.sec } .pldmOk) ∧
      (∀ g, s.sec.xfer = some g →
        (∀ n, exec (.pldmFirmwareUpdate (.begin_ n)) s = .next (answered s .pldmBusy)) ∧
        (∀ off l, exec (.pldmFirmwareUpdate (.data off l)) s = if g.len < off + l.length then .next (answered s .pldmRefused)
          else .next (answered { s with sec := { s.sec with xfer := some ⟨g.len, spliceBytes g.data off l.length (leNat l)⟩ } } .pldmOk)) ∧
        exec (.pldmFirmwareUpdate .cancel) s = .next (answered { s with sec := { s.sec with xfer := none } } .pldmOk) ∧
        ∃ t, exec .firmwareTransferComplete s = .next t ∧ t.sec.bank (!s.sec.active) = .image g ∧
          t.sec.bank s.sec.active = s.sec.bank s.sec.active ∧ t.sec.xfer = none ∧ t.sec.active = s.sec.active ∧
          t = answered { s with sec := t.sec } (if s.sec.fwPasses g then .pldmOk else .pldmRefused)) ∧
      (s.sec.xfer = none → exec .firmwareTransferComplete s = .next (answered s .pldmRefused) ∧
        exec (.pldmFirmwareUpdate .cancel) s = .next (answered s .pldmRefused)) ∧
      (s.launched = true → exec .firmwareActivate s = .next (answered s .pldmBusy)) ∧
      (s.launched = false → exec .firmwareActivate s =
        if s.sec.xfer = none ∧ s.sec.bootable (s.sec.bank (!s.sec.active)) ≠ none then
          .next (answered { s with sec := { s.sec with armed := true } } .pldmOk)
        else .next (answered s .pldmRefused))))

/-- Attestation requests are answered by the state of the responder and its sessions.  -/
def Obligations.AttestationFollowsTheSession : Prop :=
  (∀ (s : State), (s.bu.dark = true ∨ s.bu.booted = false) →
    exec .getVersion s = .next s ∧ (∀ v, exec (.getCapabilities v) s = .next s) ∧ exec .negotiateAlgorithms s = .next s ∧
    exec .getDigests s = .next s ∧ (∀ a b n, exec (.getCertificate a b n) s = .next s) ∧ (∀ a, exec (.challenge a) s = .next s) ∧
    (∀ i g, exec (.getMeasurements i g) s = .next s) ∧ (∀ b, exec (.keyExchange b) s = .next s) ∧
    (∀ i, exec (.finish i) s = .next s ∧ exec (.keyUpdate i) s = .next s ∧ exec (.heartbeat i) s = .next s ∧ exec (.endSession i) s = .next s ∧
      exec (.chunkGet i) s = .next s ∧ ∀ op, exec (.ideKmRequest i op) s = .next s)) ∧
  (∀ (s : State), s.bu.dark = false → s.bu.booted = true →
    exec .getVersion s = .next (answered s (.version [12, 13])) ∧
    (∀ v, exec (.getCapabilities v) s = if v = 12 ∨ v = 13 then .next (answered { s with sec := { s.sec with version := some v } } .capabilities)
      else .next (answered s .unexpected)) ∧
    (s.sec.version = none → exec .negotiateAlgorithms s = .next (answered s .unexpected) ∧
      (∀ a, exec (.challenge a) s = .next (answered s .unexpected)) ∧ ∀ b, exec (.keyExchange b) s = .next (answered s .unexpected)) ∧
    (∀ v, s.sec.version = some v →
      exec .negotiateAlgorithms s = .next (answered s .algorithms) ∧
      exec .getDigests s = .next (answered s (.digests (if s.sec.lc = 0 then none else some chainDigest))) ∧
      (∀ slot off n l, l = (Config.certChain.drop off).take n → exec (.getCertificate slot off n) s =
        if slot = 0 ∧ s.sec.lc ≠ 0 ∧ off < Config.certChain.length then
          .next (answered { s with sec := { s.sec with large := l.drop 4096 } } (.certificate (l.take 4096) (Config.certChain.length - off - l.length)))
        else .next (answered s .unexpected)) ∧
      (∀ n l, l = s.sec.large.drop (n * 4096) → exec (.chunkGet n) s = if l = [] then .next (answered s .unexpected)
        else .next (answered s (.chunk (l.take 4096) (decide (l.length ≤ 4096))))) ∧
      (s.sec.lc ≠ 1 → s.sec.lc ≠ 2 → (∀ a, exec (.challenge a) s = .next (answered s .unspecified)) ∧
        (∀ i, exec (.getMeasurements i true) s = .next (answered s .unspecified)) ∧ ∀ b, exec (.keyExchange b) s = .next (answered s .unspecified)) ∧
      (s.sec.lc = 1 ∨ s.sec.lc = 2 →
        exec (.challenge 0) s = .next (answered { s with sec := { s.sec with drawn := s.sec.drawn + 1 } }
          (.challengeAuth chainDigest (Config.sign s.sec.drawn))) ∧
        (∀ a, a ≠ 0 → exec (.challenge a) s = .next (answered s .unexpected)) ∧
        (∀ b i, 1 ≤ i → i ≤ 4 → (∀ x, x ∈ s.sec.sessions → x.id ≠ i) → (∀ k, 1 ≤ k → k < i → ∃ x, x ∈ s.sec.sessions ∧ x.id = k) →
          exec (.keyExchange b) s = .next (answered { s with sec := { s.sec with
            sessions := s.sec.sessions ++ [⟨i, false, b, 0⟩]
            drawn := s.sec.drawn + 1 } } (.keyExchange i (Config.sign s.sec.drawn)))) ∧
        (∀ b, (∀ i, 1 ≤ i → i ≤ 4 → ∃ x, x ∈ s.sec.sessions ∧ x.id = i) → exec (.keyExchange b) s = .next (answered s .unexpected))) ∧
      (∀ i b, s.measure i = some b → i ≠ 0xFF → exec (.getMeasurements i false) s = .next (answered s (.measurements [(i, b)] none)) ∧
        (s.sec.lc = 1 ∨ s.sec.lc = 2 → exec (.getMeasurements i true) s = .next (answered { s with sec := { s.sec with drawn := s.sec.drawn + 1 } }
          (.measurements [(i, b)] (some (Config.sign s.sec.drawn)))))) ∧
      (∀ i, s.sec.sess i = none → exec (.finish i) s = .next (answered s .unexpected) ∧ exec (.keyUpdate i) s = .next (answered s .unexpected) ∧
        exec (.heartbeat i) s = .next (answered s .unexpected) ∧ exec (.endSession i) s = .next (answered s .unexpected) ∧
        ∀ op, exec (.ideKmRequest i op) s = .next (answered s .unexpected)) ∧
      (∀ i x, s.sec.sess i = some x → x.secured = false →
        exec (.finish i) s = .next (answered { s with sec := { s.sec with
          sessions := s.sec.sessions.map (fun y => if y.id = i then { y with secured := true } else y) } } (.finished i)) ∧
        exec (.keyUpdate i) s = .next (answered s .unexpected) ∧ ∀ op, exec (.ideKmRequest i op) s = .next (answered s .unexpected)) ∧
      (∀ i x, s.sec.sess i = some x → x.secured = true →
        exec (.finish i) s = .next (answered s .unexpected) ∧
        exec (.keyUpdate i) s = .next (answered { s with sec := { s.sec with
          sessions := s.sec.sessions.map (fun y => if y.id = i then { y with gen := y.gen + 1 } else y) } } (.keyUpdated i)) ∧
        exec (.heartbeat i) s = .next (answered s (.heartbeat i)) ∧
        exec (.endSession i) s = .next (answered { s with sec := { s.sec with sessions := s.sec.sessions.filter (fun y => y.id != i) } } (.ended i)) ∧
        (x.doe = false → ∀ op, exec (.ideKmRequest i op) s = .next (answered s .unexpected)) ∧
        (x.doe = true →
          (∀ k key, exec (.ideKmRequest i (.program k key)) s =
            .next (answered { s with sec := { s.sec with ideKeys := s.sec.ideKeys.put 0 k key } } .ideKm)) ∧
          (s.sec.ideKeys = [] → exec (.ideKmRequest i .go) s = .next (answered s .unexpected)) ∧
          (s.sec.ideKeys ≠ [] → exec (.ideKmRequest i .go) s = .next (answered { s with
            sec := { s.sec with ideOn := true }
            hp := { s.hp with ide := true } } .ideKm)) ∧
          exec (.ideKmRequest i .stop) s = .next (answered { s with
            sec := { s.sec with ideOn := false }
            hp := { s.hp with ide := false } } .ideKm)))))

/-- R459: the test of block `u` waits for S+10 µs of the stroke. -/
def testWaits (s : State) (u : Nat) : Bool :=
  isRouter u && s.testLaunched u && s.servicedRegion (regionOf u) && decide (s.clk.tb.toNat < s.clk.sstart.toNat + 10000)

/-- R458, R459: a well-formed SELFTEST of the code of the command starts, and is decided now. -/
def testAsked (s : State) (q seq code : Nat) (d : BitVec 512) (u : Nat) : Prop :=
  s.starts q seq 0x34 d ∧ headerOk d = true ∧ u = bits d 64 16 ∧ unitExists u = true ∧ testSuits (bits d 80 8) u = true ∧
    bits d 88 424 = 0 ∧ bits d 80 8 = code ∧ (∀ x, x ∈ s.st.undecided → ¬ (x.q = q ∧ x.seq = seq)) ∧ testWaits s u = false

/-- R459, R463: the test is accepted. -/
def testAccepted (s t : State) (q seq u code : Nat) : Prop :=
  ∃ x, t.st.tests.find? (fun y => y.unit == u) = some x ∧ x.code = code ∧ x.q = q ∧ x.seq = seq ∧ x.left = testNs code ∧
    t.dp.mem.cells = s.dp.mem.cells ∧ t.scr = s.scr ∧ t.clk = s.clk

/-- R137, R458, R459: what a command of test `code` answers when its descriptor does not start, or is not accepted. -/
def testAnswers (s : State) (q seq code : Nat) (r : Host.Outcome State Fault Refusal) : Prop :=
  ((s.getQ q).fetched.find? (fun y => y.seq == seq) = none → r = .next s) ∧
  (∀ d u, s.starts q seq 0x34 d → headerOk d = true → u = bits d 64 16 →
    (unitExists u = false → r = .next (s.finish q seq stBadField 64 0)) ∧
    (unitExists u = true → testSuits (bits d 80 8) u = false → r = .next (s.finish q seq stBadField 80 0)) ∧
    (unitExists u = true → testSuits (bits d 80 8) u = true → bits d 88 424 ≠ 0 → r = .next (s.finish q seq stBadField 88 0)) ∧
    (unitExists u = true → testSuits (bits d 80 8) u = true → bits d 88 424 = 0 →
      (bits d 80 8 ≠ code → r = .next s) ∧
      (bits d 80 8 = code → (∀ x, x ∈ s.st.undecided → ¬ (x.q = q ∧ x.seq = seq)) →
        (testWaits s u = true → r =
          .next { s with st := { s.st with undecided := s.st.undecided ++ [⟨q, seq, u, code⟩] } }) ∧
        (testWaits s u = false →
          (∀ y, s.testRefusal u code = some y → r =
            .next (({ s.testWakes u with st := { s.st with refuse := satAdd s.st.refuse 1 } }).finish q seq stBusy 0 (BitVec.ofNat 64 (y * 256))))))))

/-- LOGIC, SCANDUMP, SRAM_T, SRAM_M, HBM_MARCH, HBM_ROW, PORT_LOOP, REPAIR, SELFTEST_PASS, SELFTEST_END, SELFTEST_DEFERRED_START.  -/
def Obligations.SelfTestsRunWhenSafe : Prop :=
  (∀ (q : Fin 81) (seq : Nat) (s : State),
    testAnswers s q.val seq 1 (exec (.logic q seq) s) ∧
    (∀ d u, testAsked s q.val seq 1 d u → s.testRefusal u 1 = none → ∃ t, exec (.logic q seq) s = .next t ∧ testAccepted s t q.val seq u 1) ∧
    testAnswers s q.val seq 2 (exec (.scandump q seq) s) ∧
    (∀ d u, testAsked s q.val seq 2 d u → s.testRefusal u 2 = none → ∃ t, exec (.scandump q seq) s = .next t ∧ testAccepted s t q.val seq u 2) ∧
    testAnswers s q.val seq 3 (exec (.sramT q seq) s) ∧
    (∀ d u, testAsked s q.val seq 3 d u → s.testRefusal u 3 = none → ∃ t, exec (.sramT q seq) s = .next t ∧ testAccepted s t q.val seq u 3) ∧
    testAnswers s q.val seq 4 (exec (.sramM q seq) s) ∧
    (∀ d u, testAsked s q.val seq 4 d u → s.testRefusal u 4 = none → ∃ t, exec (.sramM q seq) s = .next t ∧ testAccepted s t q.val seq u 4) ∧
    testAnswers s q.val seq 16 (exec (.hbmMarch q seq) s) ∧
    (∀ d u, testAsked s q.val seq 16 d u → s.testRefusal u 16 = none → ∃ t, exec (.hbmMarch q seq) s = .next t ∧ testAccepted s t q.val seq u 16) ∧
    testAnswers s q.val seq 17 (exec (.hbmRow q seq) s) ∧
    (∀ d u, testAsked s q.val seq 17 d u → s.testRefusal u 17 = none → ∃ t, exec (.hbmRow q seq) s = .next t ∧ testAccepted s t q.val seq u 17) ∧
    testAnswers s q.val seq 32 (exec (.portLoop q seq) s) ∧
    (∀ d u, testAsked s q.val seq 32 d u → s.testRefusal u 32 = none → ∃ t, exec (.portLoop q seq) s = .next t ∧ testAccepted s t q.val seq u 32) ∧
    testAnswers s q.val seq 48 (exec (.repair q seq) s) ∧
    (∀ d u, testAsked s q.val seq 48 d u → s.testRefusal u 48 = none → ∃ t, exec (.repair q seq) s = .next t ∧ testAccepted s t q.val seq u 48)) ∧
  (∀ (r : Fin 64) (s : State) (t : Test), s.st.tests.find? (fun y => y.unit == regionUid r.val && y.underLaunch) = some t →
    (s.servicedRegion r.val = false ∨ t.left = 0 ∨ s.dp.fr.voided = true ∨ s.passFits t.code = false → exec (.selftestPass r) s = .next s) ∧
    (s.servicedRegion r.val = true → s.testLaunched (regionUid r.val) = true → t.left ≠ 0 → s.dp.fr.voided = false → s.passFits t.code = true →
      t.powered = false → t.passAt = none → s.st.tests.find? (fun y => y.unit == regionUid r.val) = some t →
      ∃ v x, exec (.selftestPass r) s = .next v ∧ v.st.tests.find? (fun y => y.unit == regionUid r.val) = some x ∧ x.powered = true ∧
        x.passes = t.passes + 1 ∧ x.left = t.left - min t.left (s.passEnd - (s.passAt t.code + 20000)) ∧
        x.passAt = some (s.clk.stroke, t.left) ∧ v.dp.mem.isoRegions.getLsbD r.val = true ∧ v.dp.mem.cells = s.dp.mem.cells ∧ v.scr = s.scr)) ∧
  (∀ (u : BitVec 16) (found : List Finding) (s : State),
    (s.st.tests.find? (fun t => t.unit == u.toNat) = none → exec (.selftestEnd u found) s = .next s) ∧
    (∀ x, s.st.tests.find? (fun t => t.unit == u.toNat) = some x →
      ((if x.underLaunch && s.testLaunched x.unit then x.left == 0 else x.powered) = false → exec (.selftestEnd u found) s = .next s) ∧
      ((if x.underLaunch && s.testLaunched x.unit then x.left == 0 else x.powered) = true → ∃ t, exec (.selftestEnd u found) s = .next t ∧
        (∀ y, y ∈ t.st.tests → y.unit ≠ u.toNat) ∧ (t.getQ x.q).fetched.find? (fun y => y.seq == x.seq) = none ∧ t.scr = s.scr ∧
        (x.code ≠ 0x30 → found = [] → t.st.pass = satAdd s.st.pass 1 ∧ t.st.fail = s.st.fail ∧ t.dp.rlog = s.dp.rlog) ∧
        (x.code ≠ 0x30 → found ≠ [] → t.st.fail = satAdd s.st.fail 1 ∧ t.st.pass = s.st.pass ∧
          t.dp.rlog.head = s.dp.rlog.head + BitVec.ofNat 32 found.length) ∧
        (x.code ≠ 0x04 → x.code ≠ 0x10 → x.code ≠ 0x11 → t.dp.mem.cells = s.dp.mem.cells)))) ∧
  (∀ (u : BitVec 16) (s : State),
    (s.st.undecided.find? (fun x => x.unit == u.toNat) = none → s.st.tests.find? (fun t => !t.powered && !(t.underLaunch && s.testLaunched t.unit)) = none →
      exec (.selftestDeferredStart u) s = .next s) ∧
    (∀ t, s.st.undecided.find? (fun x => x.unit == u.toNat) = none →
      s.st.tests.find? (fun t => !t.powered && !(t.underLaunch && s.testLaunched t.unit)) = some t → t.unit = u.toNat →
      s.budgetOk t.code = true → s.clk.running = true → s.upAt t.code < 2 ^ 64 → ∃ v, exec (.selftestDeferredStart u) s = .next v ∧
        (∃ y, y ∈ v.st.tests ∧ y.unit = u.toNat ∧ y.powered = true) ∧ v.st.lastUp = v.clk.tb.toNat + 1 ∧ v.dp.mem.cells = s.dp.mem.cells ∧
        v.scr = s.scr) ∧
    (∀ x, s.st.undecided.find? (fun x => x.unit == u.toNat) = some x → ∃ v, exec (.selftestDeferredStart u) s = .next v ∧
      (∀ y, y ∈ v.st.undecided ↔ y ∈ s.st.undecided ∧ ¬ (y.q = x.q ∧ y.seq = x.seq)) ∧ v.scr = s.scr ∧
      (∀ r, (s.advance (s.clk.sstart.toNat + 10000)).testRefusal x.unit x.code = some r → v.st.refuse = satAdd s.st.refuse 1 ∧ v.st.tests = s.st.tests)))

/-- R474: the package is dark after one POWER_LOSS message with VIN `v`; fuses, repair list and what lies outside it are kept. -/
def inputIsLost (s t : State) (v : Nat) : Prop :=
  t.bu.dark = true ∧ t.out.mgmt = mkMsg 0x11 2 0 0 (natBytes 8 s.clk.tb.toNat ++ natBytes 2 (v / 10)) :: s.out.mgmt ∧ t.dp.mem.cells = [] ∧
    t.dp.mem.host = s.dp.mem.host ∧ t.scr = State.reset.scr ∧ t.pending = s.pending ∧ t.sec.svn = s.sec.svn ∧ t.sec.keyRev = s.sec.keyRev ∧
    t.st.usedRows = s.st.usedRows ∧ t.st.usedLines = s.st.usedLines

/-- R485: the main rails have fallen: the dies' state is lost. -/
def railsFell (s t : State) : Prop :=
  t.bu.mainOn = false ∧ t.dp.mem.cells = [] ∧ t.dp.mem.host = s.dp.mem.host ∧ t.scr = State.reset.scr ∧ t.pending = s.pending ∧
    t.dp.fr.last = s.dp.fr.last ∧ t.clk.tb = s.clk.tb ∧ t.dp.fr.fenced = s.dp.fr.fenced ∧ t.edge.lost = s.edge.lost ∧
    t.bu.stage = (if s.bu.booted then .waitEn else .romHold)

/-- R485: the main rails have risen and every edge trains. -/
def railsRose (s t : State) : Prop :=
  t.bu.stage = .train ∧ t.bu.mainOn = true ∧ (∀ i, i < 8 → (t.edge.endAt i).state = .training) ∧ t.dp = s.dp ∧ t.scr = s.scr ∧ t.hp = s.hp

/-- R485: the rails may rise. -/
def railsMayRise (s : State) : Prop := s.bu.stage = .waitEn ∧ s.bu.refOk = true ∧ s.bu.dark = false

/-- R486: what a package reset leaves. -/
def packageWasReset (s t : State) (cause : BitVec 8) (slot : BitVec 6) : Prop :=
  t.bu.rstCause = cause ∧ t.bu.slot = slot ∧ t.dp.mem.cells = [] ∧ t.scr = State.reset.scr ∧ t.torus = State.reset.torus ∧ t.pending = s.pending ∧
    t.clk.tb = s.clk.tb ∧ t.dp.fr.last = s.dp.fr.last ∧ t.sec.svn = s.sec.svn ∧ t.sec.keyRev = s.sec.keyRev ∧ t.st.tests = [] ∧
    t.st.usedRows = s.st.usedRows ∧ t.pw.cap = s.pw.cap ∧ t.sec.ideKeys = [] ∧ t.dp.fr.fenced = false ∧ t.edge.lost = 0

/-- R486: what a power-on reset leaves. -/
def powerWasCycled (s t : State) (cause : BitVec 8) (slot : BitVec 6) : Prop :=
  t.bu.rstCause = cause ∧ t.bu.slot = slot ∧ t.bu.dark = false ∧ t.dp.mem.cells = [] ∧ t.dp.mem.host = s.dp.mem.host ∧
    t.scr = State.reset.scr ∧ t.torus = State.reset.torus ∧ t.clk = State.reset.clk ∧ t.pw = State.reset.pw ∧ t.pending = s.pending ∧
    t.sec.svn = s.sec.svn ∧ t.sec.keyRev = s.sec.keyRev ∧ t.st.usedRows = s.st.usedRows ∧ t.dp.fr = State.reset.dp.fr

/-- R481, R482: a RESET message that resets nothing; `want` is the kind of the command. -/
def resetTurnedAway (s : State) (tag : BitVec 16) (pl : List Byte) (want : Nat) (r : Host.Outcome State Fault Refusal) : Prop :=
  (s.bu.dark = true → r = .next s) ∧
  (s.bu.dark = false → s.bu.booted = false → r = .next (replied s 0x10 4 tag [])) ∧
  (s.bu.dark = false → s.bu.booted = true → s.bu.ready = false → s.bu.stage ≠ .defect → r = .next (replied s 0x10 1 tag [])) ∧
  (s.bu.dark = false → s.bu.booted = true → s.bu.ready = true ∨ s.bu.stage = .defect →
    (pl = [] ∨ 2 < plAt pl 0 1 → r = .next (replied s 0x10 2 tag [])) ∧ (pl ≠ [] → plAt pl 0 1 ≤ 2 → plAt pl 0 1 ≠ want → r = .next s))

/-- Board events, power enable, the reference, thermal cut, sensors and the resets.  -/
def Obligations.BoardEventsAndResets : Prop :=
  (∀ (v i : BitVec 16) (us : Nat) (s : State) (lost : Prop),
    lost = (v.toNat < 4400 ∨ (6400 < v.toNat ∧ 1 ≤ us) ∨ (5000 ≤ v.toNat ∧ v.toNat < 5400 ∧ 10000 < us)) →
    (s.bu.dark = true → exec (.vinExcursion v i us) s = .next s ∧ exec (.overcurrentTrip i us) s = .next s ∧ exec (.inputLoss v) s = .next s) ∧
    (s.bu.dark = false →
      (lost → ∃ t, exec (.vinExcursion v i us) s = .next t ∧ inputIsLost s t v.toNat) ∧
      (¬ lost → ∃ t, exec (.vinExcursion v i us) s = .next t ∧ t.bu.vin = v ∧ t.bu.iin = i ∧ t.bu.vinHi = decide (6200 < v.toNat) ∧
        t.bu.vinLo = decide (v.toNat < 5400) ∧ (v.toNat < 5000 → s.bu.mainOn = true → railsFell s t) ∧
        (v.toNat < 5000 → s.bu.mainOn = false → t = { s with bu := t.bu }) ∧
        (5000 ≤ v.toNat → railsMayRise s → s.bu.pwrEn = true → railsRose s t) ∧
        (5000 ≤ v.toNat → ¬ (railsMayRise s ∧ s.bu.pwrEn = true) → t = { s with bu := t.bu })) ∧
      (8000 < i.toNat ∨ (6800 < i.toNat ∧ 60000 < us) → ∃ t, exec (.overcurrentTrip i us) s = .next t ∧ inputIsLost s t s.bu.vin.toNat) ∧
      (i.toNat ≤ 8000 → (i.toNat ≤ 6800 ∨ us ≤ 60000) → exec (.overcurrentTrip i us) s = .next s) ∧
      (∃ t, exec (.inputLoss v) s = .next t ∧ inputIsLost s t v.toNat))) ∧
  (∀ (s : State),
    (∃ t, exec .pwrEn s = .next t ∧ t.bu.pwrEn = true ∧ (railsMayRise s → railsRose s t) ∧
      (¬ railsMayRise s → t = { s with bu := { s.bu with pwrEn := true } })) ∧
    (∃ t, exec .pwrEnDeasserted s = .next t ∧ t.bu.pwrEn = false ∧ (s.bu.mainOn = true → railsFell s t ∧ t.bu.rstCause = s.bu.rstCause) ∧
      (s.bu.mainOn = false → t = { s with bu := { s.bu with pwrEn := false } })) ∧
    (s.bu.mainOn = false → exec .thermalCut s = .next s) ∧
    (s.bu.mainOn = true → ∃ t, exec .thermalCut s = .next t ∧ railsFell s t ∧ t.bu.rstCause = 5) ∧
    (¬ (s.bu.stage = .train ∧ ∀ i, i < 8 → (s.edge.endAt i).state = .live) → exec .bringupReady s = .next s) ∧
    (s.bu.stage = .train → (∀ i, i < 8 → (s.edge.endAt i).state = .live) → ∃ t, exec .bringupReady s = .next t ∧ t.bu.ready = true ∧
      t.sec = { s.sec with svn := t.sec.svn } ∧ s.sec.svn.toNat ≤ t.sec.svn.toNat ∧
      (s.sec.fwSvn.toNat ≤ s.sec.svn.toNat → t.sec.svn = s.sec.svn) ∧
      (s.sec.svn.toNat < s.sec.fwSvn.toNat → s.sec.fwSvn.toNat ≤ 64 → t.sec.svn.toNat = s.sec.fwSvn.toNat) ∧
      t = { s with
        bu := { s.bu with
          stage := .ready
          bootMs := t.bu.bootMs }
        sec := t.sec }) ∧
    (s.bu.dark = true → exec .referenceLoss s = .next s) ∧
    (s.bu.dark = false → s.pw.cold = true → ∃ t, exec .referenceLoss s = .next t ∧ t.bu.refOk = false ∧ t.clk.lock = .holdover ∧
      t.edge = s.edge ∧ t.hp = s.hp ∧ t.dp.fr = s.dp.fr) ∧
    (s.bu.dark = false → s.pw.cold = false → ∃ t, exec .referenceLoss s = .next t ∧ t.bu.refOk = false ∧ t.clk.lock = .holdover ∧ t.edge.present = 0 ∧
      t.edge.lost = 0xF ∧ t.hp.linkUp = false ∧ (s.edge.faulted = false → t.dp.fr.fenced = true ∧ t.dp.fr.last = s.dp.fr.last + 1))) ∧
  (∀ (p i ce : Nat) (s : State),
    (s.bu.booted = false ∨ s.bu.dark = true → exec (.sensorUpdate p i ce) s = .next s) ∧
    (s.bu.booted = true → s.bu.dark = false → ∃ t, exec (.sensorUpdate p i ce) s = .next t ∧
      t = { s with
        bu := t.bu
        out := t.out } ∧
      (∀ k, 1 ≤ k → k ≤ 7 → t.bu.sensors.get 0 k = s.sensorValue p i ce k ∧ t.bu.levels.get 0 k = sensorLevel k (s.sensorValue p i ce k) ∧
        (t.bu.levels.get 0 k ≠ s.bu.levels.get 0 k → .sensorEvent k (t.bu.levels.get 0 k) ∈ t.out.resp)) ∧
      ((∀ k, 1 ≤ k → k ≤ 7 → t.bu.levels.get 0 k = s.bu.levels.get 0 k) → t.out = s.out))) ∧
  (∀ (slot : BitVec 6) (s : State),
    (∃ t, exec (.powerOnReset .vin slot) s = .next t ∧ powerWasCycled s t 0 slot) ∧ exec (.packageReset .vin slot) s = .next s ∧
    (s.bu.dark = true → exec (.powerOnReset .pin slot) s = .next s ∧ exec (.packageReset .pin slot) s = .next s) ∧
    (s.bu.dark = false → (∃ t, exec (.powerOnReset .pin slot) s = .next t ∧ powerWasCycled s t 1 slot) ∧
      ∃ t, exec (.packageReset .pin slot) s = .next t ∧ packageWasReset s t 2 slot)) ∧
  (∀ (tag : BitVec 16) (pl : List Byte) (slot : BitVec 6) (s : State),
    resetTurnedAway s tag pl 1 (exec (.powerOnReset (.message tag pl) slot) s) ∧
    resetTurnedAway s tag pl 0 (exec (.packageReset (.message tag pl) slot) s) ∧ resetTurnedAway s tag pl 2 (exec (.reenable tag pl slot) s) ∧
    (s.bu.dark = false → s.bu.booted = true → s.bu.ready = true ∨ s.bu.stage = .defect → pl ≠ [] →
      (plAt pl 0 1 = 0 → ∃ t, exec (.packageReset (.message tag pl) slot) s = .next t ∧ packageWasReset s t 3 slot ∧
        t.out.mgmt = mkMsg 0x10 1 0 tag [] :: s.out.mgmt) ∧
      (plAt pl 0 1 = 1 → ∃ t, exec (.powerOnReset (.message tag pl) slot) s = .next t ∧ powerWasCycled s t 3 slot ∧
        t.out.mgmt = mkMsg 0x10 1 0 tag [] :: s.out.mgmt) ∧
      (plAt pl 0 1 = 2 → ∃ t, exec (.reenable tag pl slot) s = .next t ∧ packageWasReset s t 3 slot ∧ t.edge.defect = false ∧
        t.out.mgmt = mkMsg 0x10 1 0 tag [] :: s.out.mgmt)))

/-- Every command, in every state, completes with a next state, and leaves the commands that wait as they are. The commands: TIME_BASE_START, TB_LO_READ, READ_CLEAR_REGISTER, REGISTER_WRITE, TIME_SYMBOL_SEND, TIME_SYMBOL_RECEIVE, HOLDOVER_TIMEOUT,
POD_OFFSET_MEASURE, UNIT_DONE, DONE_MARKER_RECEIVE, GO_MARKER_RECEIVE, STROKE_START, STROKE_CFG, HOST_MEM_READ, HOST_MEM_WRITE,
HDM_COMMIT, ADD_WRITE, PATROL_READ, DOORBELL_SNOOP, DOORBELL_POLL, DESCRIPTOR_FETCH, NOP_DESCRIPTOR, FENCE_DESCRIPTOR, BARRIER,
SIGNAL, COPY_IN, COPY_OUT, FILL, LOAD_SCRIPT, LAUNCH, ZERO_FILL_DONE, STOP, CG_OPEN, CG_CLOSE, COLLECTIVE, QUEUE_CTL,
QUEUE_CTL_APPLY, ENGINE_CTL, ENGINE_CTL_APPLY, PART_SET, WAKE_LAT, COMPLETION_WRITE, MSIX_HOLDOFF_EXPIRY, MQRESUME, QRESET,
QUEUE_ENABLE, VIRAL, HOST_LINK_DOWN_TIMEOUT, PERST_N, SEGMENT_FETCH_DONE, NOP, WAIT, CREDIT_ARRIVAL, POST, FENCE, LOADW, MMA,
ABCAST, CNTST, COPY, SKEW, FILL_LINES, ADDW, PUT, PUT_RECEIVE, INBOUND_ACCESS, STALLED_UNIT_TIMEOUT, TRANS, CONV, QMX, TFE_IDX,
SETVL, SETX, ADDX, TVE_IDX, LOOP, LD, ST, FOP, FUN, CMP, SEL, IOP, MOVI, CVT, RED, PERM, PFIX, RAND, STEP_CLOSE, PROG, CLD, ARGS,
UPD, STAT, TAKE, OPEN, SEAL, STAGING_BLOCK_RESIDENT, EMBER_RECEIVE, TALLY_RECEIVE, FLIT_RECEIVE, NAK_RECEIVE, PACKET_RECEIVE,
ACK_RECEIVE, CREDIT_PACKET_RECEIVE, IDENT_SEND, IDENT_RECEIVE, PORT_FAIL, PORT_RETRAIN, WAKE_SYMBOL, COLD_SYMBOL, PLACE, ROUTE_WR,
REMAP_WR, COMMIT, ROUTING_BANK_SWAP, TREE, AG, RS, BCAST, A2A, A2AV, A2AR, VOTE, GRANT_PACKET, PART_PACKET, BLOCK_PACKET,
ROW_PACKET, COUNTS_PACKET, BASES_PACKET, FLAG_PACKET, FLUE_OP_COMPLETE, EDGE_SLOT_RECEIVE, EDGE_TRAINING_DONE, FORCED_RESET,
DIE_CLOCK_LOSS, POWER_ESTIMATE, COEFFICIENT_TRIM, FORECAST, DROOP_RESPONSE, THERMAL_SAMPLE, IDLE_GLOW_ENTRY, IDLE_BANKED_ENTRY,
COLD_ENTRY, WAKE_COMPLETE, POWER_CFG, RATE_BUCKET_END, EV_HACK, EV_IRQ_SPACING, TR_SEL, TRACE_FREEZE, TRACE_RESUME, SPILL_PAD,
DOPEN, DFEED, DCLOSE, REPLAY, RECOVER, RECOV_RD_RECEIVE, RECOV_DATA_RECEIVE, SEAL_READ, HOLD_READ, HOLD_ACK, STATUS, MCTP_CONTROL,
LIFECYCLE_NONCE, LIFECYCLE_TRANSITION, KEY_REVOKE, INSPECT_EXIT, PROVISION, FIRMWARE_TRANSFER_COMPLETE, FIRMWARE_ACTIVATE,
GET_VERSION, GET_CAPABILITIES, NEGOTIATE_ALGORITHMS, GET_DIGESTS, GET_CERTIFICATE, CHALLENGE, GET_MEASUREMENTS, KEY_EXCHANGE,
FINISH, KEY_UPDATE, HEARTBEAT, END_SESSION, CHUNK_GET, LOGIC, SCANDUMP, SRAM_T, SRAM_M, HBM_MARCH, HBM_ROW, PORT_LOOP, REPAIR,
SELFTEST_PASS, SELFTEST_END, VIN_EXCURSION, OVERCURRENT_TRIP, INPUT_LOSS, PWR_EN, BRINGUP_READY, REFERENCE_LOSS, THERMAL_CUT,
POWER_ON_RESET, PACKAGE_RESET, REENABLE, SENSOR_UPDATE, PORT_TRAINING_DONE, HOST_LINK_DOWN, HOST_LINK_UP, IDE_INTEGRITY_FAIL,
CXL_CONFIG_WRITE, IDE_KM_REQUEST, PLDM_FIRMWARE_UPDATE, I3C_DYNAMIC_ADDRESS, DROOP_END, PWR_EN_DEASSERTED,
SELFTEST_DEFERRED_START, SUSPECT_DECLARATION, MANAGEMENT_WAKE. -/
def Obligations.EveryCommandCompletes : Prop :=
  ∀ (c : Instr) (s : State), ∃ t, exec c s = .next t ∧ t.pending = s.pending

/-- No command leaves the legal lifecycle states, nor undoes a fuse.  -/
def Obligations.EveryStepKeepsTheLifecycleLegal : Prop :=
  ∀ s t : State, step s = .next t → s.sec.legal = true → t.sec.legal = true ∧ s.sec.oneWay t.sec

/-- Every step keeps package and host memory in canonical form.  -/
def Obligations.EveryStepKeepsMemoryCanonical : Prop :=
  ∀ s t : State, step s = .next t → Memory.wf s.dp.mem = true → Memory.wf t.dp.mem = true

/-- Every step takes exactly the front command, and no command sends another.  -/
def Obligations.EveryStepTakesOneCommand : Prop :=
  ∀ s t : State, step s = .next t → t.pending = s.pending.tail
end

