-- ==== Sys2Proof/Laws/Tab.lean ====
section
/-! SUPPORT. Laws of sparse tables: a read after a write, and the canonical form kept. -/

-- One declaration at a time: elaborating this many small theorems at once runs out of threads.
set_option Elab.async false

namespace Sys2Proof.Machine

section
variable {α : Type}

@[simp] theorem Tab.get_nil (d : α) (k : Nat) : Tab.get d [] k = d := rfl

theorem Tab.get_del (d : α) (t : Tab α) (k j : Nat) : Tab.get d (Tab.del k t) j = if j = k then d else Tab.get d t j := by
  induction t with
  | nil => simp [Tab.del]
  | cons x r ih =>
    obtain ⟨i, v⟩ := x
    by_cases h : i = k
    · subst h
      by_cases h2 : j = i
      · subst h2; simpa [Tab.del] using ih
      · have h3 : ¬ i = j := fun e => h2 e.symm
        simp [Tab.del, Tab.get, ih, h2, h3]
    · by_cases h2 : i = j
      · subst h2; simp [Tab.del, Tab.get, h]
      · simp [Tab.del, Tab.get, h, h2, ih]

/-- An entry whose key the table does not list is read back, and nothing else changes. -/
theorem Tab.get_ins (d : α) (t : Tab α) (k j : Nat) (v : α) (h : Tab.get d t k = d) (hk : ∀ x ∈ t, x.1 ≠ k) :
    Tab.get d (Tab.ins k v t) j = if j = k then v else Tab.get d t j := by
  induction t with
  | nil => by_cases h : k = j <;> simp [Tab.ins, Tab.get, h, eq_comm]
  | cons x r ih =>
    obtain ⟨i, w⟩ := x
    have hi : i ≠ k := hk (i, w) (by simp)
    have hr : ∀ x ∈ r, x.1 ≠ k := fun x hx => hk x (by simp [hx])
    have hg : Tab.get d r k = d := by simpa [Tab.get, hi] using h
    by_cases hlt : k < i
    · by_cases h2 : k = j
      · subst h2; simp [Tab.ins, Tab.get, hlt]
      · have h3 : ¬ j = k := fun e => h2 e.symm
        simp [Tab.ins, Tab.get, hlt, h2, h3]
    · by_cases h2 : i = j
      · subst h2; simp [Tab.ins, Tab.get, hlt, hi]
      · simp [Tab.ins, Tab.get, hlt, h2, ih hg hr]

theorem Tab.del_keys (t : Tab α) (k : Nat) : ∀ x ∈ Tab.del k t, x.1 ≠ k := by
  induction t with
  | nil => simp [Tab.del]
  | cons x r ih =>
    obtain ⟨i, v⟩ := x
    by_cases h : i = k
    · simpa [Tab.del, h] using ih
    · intro y hy
      simp only [Tab.del, h, if_false, List.mem_cons] at hy
      rcases hy with rfl | hy
      · exact h
      · exact ih y hy

/-- A read after a write. -/
@[simp] theorem Tab.get_put [DecidableEq α] (d : α) (t : Tab α) (k j : Nat) (v : α) :
    Tab.get d (Tab.put d t k v) j = if j = k then v else Tab.get d t j := by
  unfold Tab.put
  by_cases h : v = d
  · subst h; simp [Tab.get_del]
  · simp only [h, if_false]
    rw [Tab.get_ins d _ k j v (by simp [Tab.get_del]) (Tab.del_keys t k)]
    by_cases hj : j = k
    · simp [hj]
    · simp [hj, Tab.get_del]

@[simp] theorem Tab.get_upd [DecidableEq α] (d : α) (t : Tab α) (k j : Nat) (f : α → α) :
    Tab.get d (Tab.upd d t k f) j = if j = k then f (Tab.get d t k) else Tab.get d t j := by
  simp [Tab.upd]

/-! ### The canonical form -/

theorem Tab.above_of_le {k m : Nat} (t : Tab α) (h : k ≤ m) (ha : Tab.above m t = true) : Tab.above k t = true := by
  cases t with
  | nil => rfl
  | cons x r => simp [Tab.above] at *; omega

theorem Tab.above_del [DecidableEq α] (d : α) (t : Tab α) (m k : Nat) (hw : Tab.wf d t = true) (ha : Tab.above m t = true) :
    Tab.above m (Tab.del k t) = true := by
  induction t with
  | nil => rfl
  | cons x r ih =>
    obtain ⟨i, v⟩ := x
    simp only [Tab.wf, Bool.and_eq_true] at hw
    simp only [Tab.above, decide_eq_true_eq] at ha
    by_cases h : i = k
    · simp only [Tab.del, h, if_true]
      exact ih hw.2 (Tab.above_of_le r (by omega) hw.1.2)
    · simp [Tab.del, h, Tab.above, ha]

theorem Tab.wf_del [DecidableEq α] (d : α) (t : Tab α) (k : Nat) (hw : Tab.wf d t = true) : Tab.wf d (Tab.del k t) = true := by
  induction t with
  | nil => rfl
  | cons x r ih =>
    obtain ⟨i, v⟩ := x
    have hw' := hw
    simp only [Tab.wf, Bool.and_eq_true] at hw
    by_cases h : i = k
    · simpa [Tab.del, h] using ih hw.2
    · simp only [Tab.del, h, if_false, Tab.wf, Bool.and_eq_true]
      exact ⟨⟨hw.1.1, Tab.above_del d r i k hw.2 hw.1.2⟩, ih hw.2⟩

theorem Tab.above_ins (t : Tab α) (m k : Nat) (v : α) (hm : m < k) (ha : Tab.above m t = true) : Tab.above m (Tab.ins k v t) = true := by
  cases t with
  | nil => simp [Tab.ins, Tab.above, hm]
  | cons x r =>
    obtain ⟨i, w⟩ := x
    simp only [Tab.above, decide_eq_true_eq] at ha
    by_cases h : k < i <;> simp [Tab.ins, Tab.above, h, hm, ha]

theorem Tab.wf_ins [DecidableEq α] (d : α) (t : Tab α) (k : Nat) (v : α) (hv : v ≠ d) (hk : ∀ x ∈ t, x.1 ≠ k) (hw : Tab.wf d t = true) :
    Tab.wf d (Tab.ins k v t) = true := by
  induction t with
  | nil => simp [Tab.ins, Tab.wf, Tab.above, hv]
  | cons x r ih =>
    obtain ⟨i, w⟩ := x
    have hi : i ≠ k := hk (i, w) (by simp)
    have hw' := hw
    simp only [Tab.wf, Bool.and_eq_true] at hw
    by_cases h : k < i
    · have ha : Tab.above k ((i, w) :: r) = true := by simp [Tab.above, h]
      simp only [Tab.ins, h, if_true]
      rw [Tab.wf]
      simp only [ha, hw', hv, ne_eq, not_false_eq_true, decide_true, Bool.and_true]
    · simp only [Tab.ins, h, if_false, Tab.wf, Bool.and_eq_true]
      exact ⟨⟨hw.1.1, Tab.above_ins r i k v (by omega) hw.1.2⟩, ih (fun x hx => hk x (by simp [hx])) hw.2⟩

/-- A write keeps the canonical form. -/
theorem Tab.wf_put [DecidableEq α] (d : α) (t : Tab α) (k : Nat) (v : α) (hw : Tab.wf d t = true) : Tab.wf d (Tab.put d t k v) = true := by
  unfold Tab.put
  by_cases h : v = d
  · simpa [h] using Tab.wf_del d t k hw
  · simpa [h] using Tab.wf_ins d _ k v h (Tab.del_keys t k) (Tab.wf_del d t k hw)

theorem Tab.above_filter [DecidableEq α] (d : α) (p : Nat × α → Bool) (t : Tab α) (m : Nat) (hw : Tab.wf d t = true)
    (ha : Tab.above m t = true) : Tab.above m (t.filter p) = true := by
  induction t with
  | nil => rfl
  | cons x r ih =>
    obtain ⟨i, v⟩ := x
    simp only [Tab.wf, Bool.and_eq_true] at hw
    simp only [Tab.above, decide_eq_true_eq] at ha
    by_cases h : p (i, v) = true
    · simp [h, Tab.above, ha]
    · simp only [List.filter_cons, h]
      exact ih hw.2 (Tab.above_of_le r (by omega) hw.1.2)

/-- Dropping entries keeps the canonical form. -/
theorem Tab.wf_filter [DecidableEq α] (d : α) (p : Nat × α → Bool) (t : Tab α) (hw : Tab.wf d t = true) :
    Tab.wf d (t.filter p) = true := by
  induction t with
  | nil => rfl
  | cons x r ih =>
    obtain ⟨i, v⟩ := x
    have hw' := hw
    simp only [Tab.wf, Bool.and_eq_true] at hw
    by_cases h : p (i, v) = true
    · simp only [List.filter_cons, h, if_true, Tab.wf, Bool.and_eq_true]
      exact ⟨⟨hw.1.1, Tab.above_filter d p r i hw.2 hw.1.2⟩, ih hw.2⟩
    · simpa [List.filter_cons, h] using ih hw.2

end

end Sys2Proof.Machine
end

