-- ==== Sys2Proof/Laws/Ops.lean ====
section
/-! SUPPORT. Laws of the shared operations of the data path: bytes of memory, records and trace events, and what each leaves as it is. -/

-- One declaration at a time: elaborating this many small theorems at once runs out of threads.
set_option Elab.async false

namespace Sys2Proof.Machine

/-! ### Bytes of memory -/

/-- What a byte reads as after a store of `n` bytes. -/
@[simp] theorem get_writeBytes (c : List Host.Cell) (a n v b : Nat) :
    Tab.get 0#8 (writeBytes c a n v) b =
      if a ≤ b ∧ b < a + n then BitVec.ofNat 8 (v / 256 ^ (b - a)) else Tab.get 0#8 c b := by
  induction n generalizing a v with
  | zero =>
    have : ¬ (a ≤ b ∧ b < a + 0) := by omega
    rw [if_neg this]; rfl
  | succ n ih =>
    simp only [writeBytes, BitVec.ofNat_eq_ofNat, Tab.get_put, ih]
    by_cases hb : b = a
    · subst hb; simp
    · by_cases h : a + 1 ≤ b ∧ b < a + 1 + n
      · have h2 : a ≤ b ∧ b < a + (n + 1) := by omega
        have h3 : b - a = (b - (a + 1)) + 1 := by omega
        rw [if_neg hb, if_pos h, if_pos h2, h3, pow_succ', Nat.div_div_eq_div_mul]
      · have h2 : ¬ (a ≤ b ∧ b < a + (n + 1)) := by omega
        rw [if_neg hb, if_neg h, if_neg h2]

/-- A store keeps the canonical form. -/
theorem writeBytes_wf (c : List Host.Cell) (a n v : Nat) (h : Tab.wf 0 c = true) : Tab.wf 0 (writeBytes c a n v) = true := by
  induction n generalizing a v with
  | zero => simpa [writeBytes] using h
  | succ n ih => exact Tab.wf_put 0 _ a _ (ih (a + 1) (v / 256))

/-- Bytes that two memories share read as the same number. -/
theorem readBytes_congr (c c' : List Host.Cell) (a n : Nat) (h : ∀ b, a ≤ b → b < a + n → Tab.get 0 c b = Tab.get 0 c' b) :
    readBytes c a n = readBytes c' a n := by
  induction n generalizing a with
  | zero => rfl
  | succ n ih =>
    have h0 := h a (by omega) (by omega)
    have h1 := ih (a + 1) (fun b h1 h2 => h b (by omega) (by omega))
    simp only [readBytes, h0, h1]

/-- The value just stored is read back. -/
theorem readBytes_writeBytes (c : List Host.Cell) (a n v : Nat) : readBytes (writeBytes c a n v) a n = v % 256 ^ n := by
  induction n generalizing a v with
  | zero => simp [readBytes, Nat.mod_one]
  | succ n ih =>
    have hc : readBytes (writeBytes c a (n + 1) v) (a + 1) n = readBytes (writeBytes c (a + 1) n (v / 256)) (a + 1) n := by
      apply readBytes_congr
      intro b h1 h2
      have hb : ¬ b = a := by omega
      simp only [writeBytes, Tab.get_put, hb, if_false]
    have h0 : Tab.get (0 : BitVec 8) (writeBytes c a (n + 1) v) a = BitVec.ofNat 8 v := by
      rw [writeBytes, Tab.get_put, if_pos rfl]
    rw [readBytes, hc, ih, h0, BitVec.toNat_ofNat, pow_succ' 256 n, Nat.mod_mul]

/-- A store elsewhere does not change what is read. -/
theorem readBytes_writeBytes_of_disjoint (c : List Host.Cell) (a n v b m : Nat) (h : b + m ≤ a ∨ a + n ≤ b) :
    readBytes (writeBytes c a n v) b m = readBytes c b m := by
  apply readBytes_congr
  intro k h1 h2
  have : ¬ (a ≤ k ∧ k < a + n) := by omega
  rw [BitVec.ofNat_eq_ofNat, get_writeBytes, if_neg this]

/-! ### Records and trace events -/

/-- R406–R412: a record changes the event recorder and interrupts only. -/
theorem record_frame (e : Env) (u code : Nat) (cov : Bool) (pay : List (Nat × Nat)) (d : Dp) :
    record e u code cov pay d = { d with log := (record e u code cov pay d).log, irq := (record e u code cov pay d).irq } := by
  unfold record fireEvents
  generalize d.log.enter e.tb e.stroke u code cov pay = r
  dsimp only
  repeat' split
  all_goals rfl

@[simp] theorem record_mem (e : Env) (u code : Nat) (cov : Bool) (pay : List (Nat × Nat)) (d : Dp) :
    (record e u code cov pay d).mem = d.mem := by rw [record_frame]
@[simp] theorem record_fr (e : Env) (u code : Nat) (cov : Bool) (pay : List (Nat × Nat)) (d : Dp) :
    (record e u code cov pay d).fr = d.fr := by rw [record_frame]
@[simp] theorem record_units (e : Env) (u code : Nat) (cov : Bool) (pay : List (Nat × Nat)) (d : Dp) :
    (record e u code cov pay d).units = d.units := by rw [record_frame]
@[simp] theorem record_brush (e : Env) (u code : Nat) (cov : Bool) (pay : List (Nat × Nat)) (d : Dp) :
    (record e u code cov pay d).brush = d.brush := by rw [record_frame]
@[simp] theorem record_mxa (e : Env) (u code : Nat) (cov : Bool) (pay : List (Nat × Nat)) (d : Dp) :
    (record e u code cov pay d).mxa = d.mxa := by rw [record_frame]
@[simp] theorem record_idx (e : Env) (u code : Nat) (cov : Bool) (pay : List (Nat × Nat)) (d : Dp) :
    (record e u code cov pay d).idx = d.idx := by rw [record_frame]
@[simp] theorem record_dgu (e : Env) (u code : Nat) (cov : Bool) (pay : List (Nat × Nat)) (d : Dp) :
    (record e u code cov pay d).dgu = d.dgu := by rw [record_frame]
@[simp] theorem record_upu (e : Env) (u code : Nat) (cov : Bool) (pay : List (Nat × Nat)) (d : Dp) :
    (record e u code cov pay d).upu = d.upu := by rw [record_frame]
@[simp] theorem record_cle (e : Env) (u code : Nat) (cov : Bool) (pay : List (Nat × Nat)) (d : Dp) :
    (record e u code cov pay d).cle = d.cle := by rw [record_frame]
@[simp] theorem record_part (e : Env) (u code : Nat) (cov : Bool) (pay : List (Nat × Nat)) (d : Dp) :
    (record e u code cov pay d).part = d.part := by rw [record_frame]
@[simp] theorem record_snap (e : Env) (u code : Nat) (cov : Bool) (pay : List (Nat × Nat)) (d : Dp) :
    (record e u code cov pay d).snap = d.snap := by rw [record_frame]
@[simp] theorem record_rlog (e : Env) (u code : Nat) (cov : Bool) (pay : List (Nat × Nat)) (d : Dp) :
    (record e u code cov pay d).rlog = d.rlog := by rw [record_frame]

/-- R413: a sample changes the histograms only. -/
theorem sample_frame (e : Env) (q sh u v : Nat) (d : Dp) : sample e q sh u v d = { d with log := (sample e q sh u v d).log } := by
  unfold sample; split <;> rfl

/-- R414–R417: an event changes the trace rings, and memory through a spilled line only. -/
theorem trace_frame (e : Env) (u : Nat) (v : Ev) (d : Dp) :
    trace e u v d = { d with log := (trace e u v d).log, mem := { d.mem with cells := (trace e u v d).mem.cells } } := by
  unfold trace
  split
  · rfl
  · unfold spillEvent
    dsimp only
    repeat' split
    all_goals first | rfl | (unfold spillLine; dsimp only; split <;> rfl)

@[simp] theorem trace_fr (e : Env) (u : Nat) (v : Ev) (d : Dp) : (trace e u v d).fr = d.fr := by rw [trace_frame]
@[simp] theorem trace_irq (e : Env) (u : Nat) (v : Ev) (d : Dp) : (trace e u v d).irq = d.irq := by rw [trace_frame]
@[simp] theorem trace_units (e : Env) (u : Nat) (v : Ev) (d : Dp) : (trace e u v d).units = d.units := by rw [trace_frame]
@[simp] theorem trace_brush (e : Env) (u : Nat) (v : Ev) (d : Dp) : (trace e u v d).brush = d.brush := by rw [trace_frame]
@[simp] theorem trace_mxa (e : Env) (u : Nat) (v : Ev) (d : Dp) : (trace e u v d).mxa = d.mxa := by rw [trace_frame]
@[simp] theorem trace_idx (e : Env) (u : Nat) (v : Ev) (d : Dp) : (trace e u v d).idx = d.idx := by rw [trace_frame]
@[simp] theorem trace_dgu (e : Env) (u : Nat) (v : Ev) (d : Dp) : (trace e u v d).dgu = d.dgu := by rw [trace_frame]
@[simp] theorem trace_upu (e : Env) (u : Nat) (v : Ev) (d : Dp) : (trace e u v d).upu = d.upu := by rw [trace_frame]
@[simp] theorem trace_cle (e : Env) (u : Nat) (v : Ev) (d : Dp) : (trace e u v d).cle = d.cle := by rw [trace_frame]
@[simp] theorem trace_part (e : Env) (u : Nat) (v : Ev) (d : Dp) : (trace e u v d).part = d.part := by rw [trace_frame]
@[simp] theorem trace_snap (e : Env) (u : Nat) (v : Ev) (d : Dp) : (trace e u v d).snap = d.snap := by rw [trace_frame]
@[simp] theorem trace_rlog (e : Env) (u : Nat) (v : Ev) (d : Dp) : (trace e u v d).rlog = d.rlog := by rw [trace_frame]

/-- Where a line of the inkwell area ends. -/
theorem inkLine_outside (ink j p k : Nat) (hp : p < ink * 2 ^ 20) (hi : ink < 32) (hk : ¬ (2 ^ 36 - ink * 2 ^ 26 ≤ k % 2 ^ 36)) :
    ¬ (hbmKey j (2 ^ 36 - ink * 2 ^ 26 + 64 * p) ≤ k ∧ k < hbmKey j (2 ^ 36 - ink * 2 ^ 26 + 64 * p) + 64) := by
  unfold hbmKey
  norm_num at *
  omega

/-- A key outside the inkwell area. -/
theorem Mem.not_inInk {m : Mem} {k : Nat} (h : m.inInk k = false) : ¬ (2 ^ 36 - m.ink.toNat * 2 ^ 26 ≤ k % 2 ^ 36) := by
  intro hc
  have : m.inInk k = true := decide_eq_true hc
  rw [h] at this
  exact Bool.noConfusion this

/-- R417: a spilled line lies in the inkwell area: no byte outside it changes. -/
theorem spillLine_byte (j : Nat) (l : BitVec 512) (d : Dp) (k : Nat) (h : d.mem.inInk k = false) :
    (spillLine j l d).mem.byte k = d.mem.byte k := by
  by_cases hs : d.mem.ink.toNat * 2 ^ 20 = 0
  · simp only [spillLine, hs, if_true]
  · simp only [spillLine, hs, if_false]
    have hlt := Nat.mod_lt (d.log.inkLine.get 0 j).toNat (Nat.pos_of_ne_zero hs)
    have hk := inkLine_outside d.mem.ink.toNat j _ k hlt d.mem.ink.isLt (Mem.not_inInk h)
    unfold Mem.byte Mem.inkBase
    rw [BitVec.ofNat_eq_ofNat, get_writeBytes, if_neg hk]

/-- R417: queueing an event changes no byte of memory outside the inkwell area. -/
theorem spillEvent_byte (u : Nat) (ev : BitVec 256) (d : Dp) (k : Nat) (h : d.mem.inInk k = false) :
    (spillEvent u ev d).mem.byte k = d.mem.byte k := by
  unfold spillEvent
  extract_lets l wanted
  split
  · rfl
  · split
    · rfl
    · exact spillLine_byte _ _ _ k h

/-- R417: an event changes no byte of memory outside the inkwell area. -/
theorem trace_byte (e : Env) (u : Nat) (v : Ev) (d : Dp) (k : Nat) (h : d.mem.inInk k = false) :
    (trace e u v d).mem.byte k = d.mem.byte k := by
  unfold trace
  split
  · rfl
  · exact spillEvent_byte _ _ _ k h

/-! ### Die edges and the reads that cross them -/

/-- A crossing changes the line counters of edge ends, and nothing else. -/
theorem Dp.cross_frame (r : List Nat) (n : Nat) (d : Dp) :
    d.cross r n = { d with edgeTx := (d.cross r n).edgeTx, edgeRx := (d.cross r n).edgeRx } := rfl

@[simp] theorem Dp.cross_mem (r : List Nat) (n : Nat) (d : Dp) : (d.cross r n).mem = d.mem := rfl
@[simp] theorem Dp.cross_units (r : List Nat) (n : Nat) (d : Dp) : (d.cross r n).units = d.units := rfl
@[simp] theorem Dp.cross_fr (r : List Nat) (n : Nat) (d : Dp) : (d.cross r n).fr = d.fr := rfl
@[simp] theorem Dp.cross_part (r : List Nat) (n : Nat) (d : Dp) : (d.cross r n).part = d.part := rfl
@[simp] theorem Dp.cross_log (r : List Nat) (n : Nat) (d : Dp) : (d.cross r n).log = d.log := rfl
@[simp] theorem Dp.crossFrom_mem (s a : Nat) (l : Loc) (d : Dp) : (d.crossFrom s a l).mem = d.mem := rfl
@[simp] theorem Dp.crossTo_mem (s a : Nat) (l : Loc) (d : Dp) : (d.crossTo s a l).mem = d.mem := rfl

/-- A local route crosses nothing. -/
@[simp] theorem Dp.cross_nil (n : Nat) (d : Dp) : d.cross [] n = d := rfl

/-- A read of a good line answers its bytes and only crosses the edges on its way (R103, R372). -/
theorem readLoc_good (e : Env) (u a : Nat) (l : Loc) (d : Dp) (h : d.mem.marks.get .none (d.mem.key l / 64) = .none) :
    readLoc e u a l d = (some (BitVec.ofNat 512 (readBytes d.mem.cells (d.mem.key l) 64)), d.crossFrom (uidDie u) a l) := by
  simp [readLoc, readHome, h]

/-- A read answers nothing exactly where the line holds an uncorrectable error (R102, R103). -/
theorem readLoc_isSome (e : Env) (u a : Nat) (l : Loc) (d : Dp) :
    (readLoc e u a l d).1.isSome = true ↔ d.mem.marks.get .none (d.mem.key l / 64) ≠ .ue := by
  cases h : d.mem.marks.get .none (d.mem.key l / 64) <;> simp [readLoc, readHome, h]

/-! ### What a unit dispatches -/

/-- A command whose word is not the one its unit dispatches now changes nothing (R16, R152). -/
theorem State.runUnit_idle (s : State) (u opc w : Nat) (valid : Bool) (f : State → State) (h : s.dp.runs s.env u opc w = false) :
    s.runUnit u opc w valid f = s := by
  simp [State.runUnit, h]

/-- The same of a data instruction of a Slant channel. -/
theorem State.runMove_idle (s : State) (u opc w : Nat) (valid waits : Bool) (f : State → State)
    (h : s.dp.runs s.env u opc w = false) : s.runMove u opc w valid waits f = s := by
  simp [State.runMove, h]

/-- A data instruction that waits, or that would be the fifth in flight, only marks whether it waits (R117, R223, R227). -/
theorem State.runMove_waits (s : State) (u opc w : Nat) (waits : Bool) (f : State → State) (h : s.dp.runs s.env u opc w = true)
    (hf : s.dp.atFragment s.env u = false) (hw : waits = true ∨ 4 ≤ s.inFlight u) :
    s.runMove u opc w true waits f = { s with dp := s.dp.setUnit u (fun x => { x with awaitExt := waits }) } := by
  rcases hw with hw | hw <;> simp [State.runMove, h, hf, hw]

/-- Without a class 11 fault nothing is settled (R8). -/
theorem State.settleStop_none (s : State) (h : s.dp.fr.jobStop = none) : s.settleStop = s := by
  simp [State.settleStop, h]

end Sys2Proof.Machine
end

