-- ==== Sys2Proof/Laws/Memory.lean ====
section
/-! SUPPORT. Every operation that writes package or host memory keeps its canonical form, and memory after reset has it. -/

-- One declaration at a time: elaborating this many small theorems at once runs out of threads.
set_option Elab.async false

namespace Sys2Proof.Machine

/-- Canonical form, part by part. -/
theorem Memory.wf_iff (m : Mem) : Memory.wf m = true ↔ Tab.wf 0 m.cells = true ∧ Tab.wf 0 m.host = true := by
  unfold Memory.wf
  rw [Bool.and_eq_true]

/-- Nothing but the two lists of bytes decides it. -/
theorem Memory.wf_of_eq {m n : Mem} (hc : n.cells = m.cells) (hh : n.host = m.host) (h : Memory.wf m = true) : Memory.wf n = true := by
  rw [Memory.wf_iff] at h ⊢
  rw [hc, hh]
  exact h

theorem Memory.wf_of_cells {m n : Mem} (hc : Tab.wf 0 m.cells = true → Tab.wf 0 n.cells = true) (hh : n.host = m.host)
    (h : Memory.wf m = true) : Memory.wf n = true := by
  rw [Memory.wf_iff] at h ⊢
  rw [hh]
  exact ⟨hc h.1, h.2⟩

theorem reset_wf : Memory.wf State.reset.dp.mem = true := by decide

theorem Mem.store_wf (m : Mem) (a k : Nat) (v : BitVec 512) (h : Memory.wf m = true) : Memory.wf (m.store a k v) = true :=
  Memory.wf_of_cells (fun hc => writeBytes_wf _ _ _ _ hc) rfl h

theorem storeLoc_wf (a : Nat) (l : Loc) (v : BitVec 512) (d : Dp) (h : Memory.wf d.mem = true) : Memory.wf (storeLoc a l v d).mem = true :=
  Mem.store_wf _ _ _ _ h

theorem storeMask_wf (a : Nat) (l : Loc) (mask v : Nat) (d : Dp) (h : Memory.wf d.mem = true) :
    Memory.wf (storeMask a l mask v d).mem = true := by
  unfold storeMask
  split
  · exact storeLoc_wf _ _ _ _ h
  · exact Memory.wf_of_eq rfl rfl (Mem.store_wf d.mem a _ _ h)

theorem Mem.hostPut_wf (m : Mem) (st : HostStore) (h : Memory.wf m = true) : Memory.wf (m.hostPut st) = true := by
  unfold Mem.hostPut
  dsimp only
  split
  · exact Memory.wf_of_eq rfl rfl h
  · rw [Memory.wf_iff] at h ⊢
    exact ⟨h.1, writeBytes_wf _ _ _ _ h.2⟩

theorem Mem.hostPuts_wf (m : Mem) (l : List HostStore) (h : Memory.wf m = true) : Memory.wf (m.hostPuts l) = true := by
  unfold Mem.hostPuts
  induction l generalizing m with
  | nil => exact h
  | cons x r ih => exact ih _ (Mem.hostPut_wf m x h)

theorem Mem.hostSetLine_wf (m : Mem) (a : Nat) (v : BitVec 512) (h : Memory.wf m = true) : Memory.wf (m.hostSetLine a v) = true :=
  Mem.hostPut_wf _ _ h

theorem Mem.clear_wf (m : Mem) (p : Nat → Bool) (h : Memory.wf m = true) : Memory.wf (m.clear p) = true :=
  Memory.wf_of_cells (fun hc => Tab.wf_filter _ _ _ hc) rfl h

theorem Mem.zeroFill_wf (m : Mem) (g : Image) (h : Memory.wf m = true) : Memory.wf (m.zeroFill g) = true :=
  Memory.wf_of_eq rfl rfl (Mem.clear_wf m _ h)

theorem spillLine_wf (j : Nat) (l : BitVec 512) (d : Dp) (h : Memory.wf d.mem = true) : Memory.wf (spillLine j l d).mem = true := by
  by_cases hs : d.mem.ink.toNat * 2 ^ 20 = 0
  · simp only [spillLine, hs, if_true]
    exact h
  · simp only [spillLine, hs, if_false]
    exact Memory.wf_of_cells (fun hc => writeBytes_wf _ _ _ _ hc) rfl h

theorem spillEvent_wf (u : Nat) (ev : BitVec 256) (d : Dp) (h : Memory.wf d.mem = true) : Memory.wf (spillEvent u ev d).mem = true := by
  unfold spillEvent
  extract_lets l wanted
  split
  · exact h
  · split
    · exact h
    · exact spillLine_wf _ _ _ h

theorem trace_wf (e : Env) (u : Nat) (v : Ev) (d : Dp) (h : Memory.wf d.mem = true) : Memory.wf (trace e u v d).mem = true := by
  unfold trace
  split
  · exact h
  · exact spillEvent_wf _ _ _ h

theorem record_wf (e : Env) (u code : Nat) (cov : Bool) (pay : List (Nat × Nat)) (d : Dp) (h : Memory.wf d.mem = true) :
    Memory.wf (record e u code cov pay d).mem = true := by
  rw [record_mem]
  exact h

theorem Dp.testMemory_wf (d : Dp) (u code : Nat) (rows : List (BitVec 64)) (h : Memory.wf d.mem = true) :
    Memory.wf (d.testMemory u code rows).mem = true := by
  unfold Dp.testMemory
  exact Memory.wf_of_cells (fun hc => Tab.wf_filter _ _ _ hc) rfl h

theorem Dp.dieReset_wf (d : Dp) (h : Memory.wf d.mem = true) : Memory.wf d.dieReset.mem = true := by
  rw [Memory.wf_iff] at h ⊢
  exact ⟨rfl, h.2⟩

theorem State.powerOn_wf (s : State) (cause : Nat) (slot : BitVec 6) (h : Memory.wf s.dp.mem = true) :
    Memory.wf (s.powerOn cause slot).dp.mem = true := by
  rw [Memory.wf_iff] at h ⊢
  exact ⟨rfl, h.2⟩

end Sys2Proof.Machine
end

