-- ==== Sys2Proof/Laws/State.lean ====
section
/-! SUPPORT. One lemma per field per update of the state. -/

-- One declaration at a time: elaborating this many small theorems at once runs out of threads.
set_option Elab.async false

namespace Sys2Proof.Machine

/-! `State.onBu` -/

@[simp] theorem State.onBu_bu (s : State) (f : Bu → Bu) : (s.onBu f).bu = f s.bu := rfl
@[simp] theorem State.onBu_pending (s : State) (f : Bu → Bu) : (s.onBu f).pending = s.pending := rfl
@[simp] theorem State.onBu_clk (s : State) (f : Bu → Bu) : (s.onBu f).clk = s.clk := rfl
@[simp] theorem State.onBu_hp (s : State) (f : Bu → Bu) : (s.onBu f).hp = s.hp := rfl
@[simp] theorem State.onBu_scr (s : State) (f : Bu → Bu) : (s.onBu f).scr = s.scr := rfl
@[simp] theorem State.onBu_dp (s : State) (f : Bu → Bu) : (s.onBu f).dp = s.dp := rfl
@[simp] theorem State.onBu_torus (s : State) (f : Bu → Bu) : (s.onBu f).torus = s.torus := rfl
@[simp] theorem State.onBu_edge (s : State) (f : Bu → Bu) : (s.onBu f).edge = s.edge := rfl
@[simp] theorem State.onBu_pw (s : State) (f : Bu → Bu) : (s.onBu f).pw = s.pw := rfl
@[simp] theorem State.onBu_sec (s : State) (f : Bu → Bu) : (s.onBu f).sec = s.sec := rfl
@[simp] theorem State.onBu_st (s : State) (f : Bu → Bu) : (s.onBu f).st = s.st := rfl
@[simp] theorem State.onBu_out (s : State) (f : Bu → Bu) : (s.onBu f).out = s.out := rfl

/-! `State.onPw` -/

@[simp] theorem State.onPw_pw (s : State) (f : Pw → Pw) : (s.onPw f).pw = f s.pw := rfl
@[simp] theorem State.onPw_pending (s : State) (f : Pw → Pw) : (s.onPw f).pending = s.pending := rfl
@[simp] theorem State.onPw_clk (s : State) (f : Pw → Pw) : (s.onPw f).clk = s.clk := rfl
@[simp] theorem State.onPw_hp (s : State) (f : Pw → Pw) : (s.onPw f).hp = s.hp := rfl
@[simp] theorem State.onPw_scr (s : State) (f : Pw → Pw) : (s.onPw f).scr = s.scr := rfl
@[simp] theorem State.onPw_dp (s : State) (f : Pw → Pw) : (s.onPw f).dp = s.dp := rfl
@[simp] theorem State.onPw_torus (s : State) (f : Pw → Pw) : (s.onPw f).torus = s.torus := rfl
@[simp] theorem State.onPw_edge (s : State) (f : Pw → Pw) : (s.onPw f).edge = s.edge := rfl
@[simp] theorem State.onPw_sec (s : State) (f : Pw → Pw) : (s.onPw f).sec = s.sec := rfl
@[simp] theorem State.onPw_st (s : State) (f : Pw → Pw) : (s.onPw f).st = s.st := rfl
@[simp] theorem State.onPw_bu (s : State) (f : Pw → Pw) : (s.onPw f).bu = s.bu := rfl
@[simp] theorem State.onPw_out (s : State) (f : Pw → Pw) : (s.onPw f).out = s.out := rfl

/-! `State.onHp` -/

@[simp] theorem State.onHp_hp (s : State) (f : Hp → Hp) : (s.onHp f).hp = f s.hp := rfl
@[simp] theorem State.onHp_pending (s : State) (f : Hp → Hp) : (s.onHp f).pending = s.pending := rfl
@[simp] theorem State.onHp_clk (s : State) (f : Hp → Hp) : (s.onHp f).clk = s.clk := rfl
@[simp] theorem State.onHp_scr (s : State) (f : Hp → Hp) : (s.onHp f).scr = s.scr := rfl
@[simp] theorem State.onHp_dp (s : State) (f : Hp → Hp) : (s.onHp f).dp = s.dp := rfl
@[simp] theorem State.onHp_torus (s : State) (f : Hp → Hp) : (s.onHp f).torus = s.torus := rfl
@[simp] theorem State.onHp_edge (s : State) (f : Hp → Hp) : (s.onHp f).edge = s.edge := rfl
@[simp] theorem State.onHp_pw (s : State) (f : Hp → Hp) : (s.onHp f).pw = s.pw := rfl
@[simp] theorem State.onHp_sec (s : State) (f : Hp → Hp) : (s.onHp f).sec = s.sec := rfl
@[simp] theorem State.onHp_st (s : State) (f : Hp → Hp) : (s.onHp f).st = s.st := rfl
@[simp] theorem State.onHp_bu (s : State) (f : Hp → Hp) : (s.onHp f).bu = s.bu := rfl
@[simp] theorem State.onHp_out (s : State) (f : Hp → Hp) : (s.onHp f).out = s.out := rfl

/-! `State.onSt` -/

@[simp] theorem State.onSt_st (s : State) (f : St → St) : (s.onSt f).st = f s.st := rfl
@[simp] theorem State.onSt_pending (s : State) (f : St → St) : (s.onSt f).pending = s.pending := rfl
@[simp] theorem State.onSt_clk (s : State) (f : St → St) : (s.onSt f).clk = s.clk := rfl
@[simp] theorem State.onSt_hp (s : State) (f : St → St) : (s.onSt f).hp = s.hp := rfl
@[simp] theorem State.onSt_scr (s : State) (f : St → St) : (s.onSt f).scr = s.scr := rfl
@[simp] theorem State.onSt_dp (s : State) (f : St → St) : (s.onSt f).dp = s.dp := rfl
@[simp] theorem State.onSt_torus (s : State) (f : St → St) : (s.onSt f).torus = s.torus := rfl
@[simp] theorem State.onSt_edge (s : State) (f : St → St) : (s.onSt f).edge = s.edge := rfl
@[simp] theorem State.onSt_pw (s : State) (f : St → St) : (s.onSt f).pw = s.pw := rfl
@[simp] theorem State.onSt_sec (s : State) (f : St → St) : (s.onSt f).sec = s.sec := rfl
@[simp] theorem State.onSt_bu (s : State) (f : St → St) : (s.onSt f).bu = s.bu := rfl
@[simp] theorem State.onSt_out (s : State) (f : St → St) : (s.onSt f).out = s.out := rfl

/-! `State.onClk` -/

@[simp] theorem State.onClk_clk (s : State) (f : Clk → Clk) : (s.onClk f).clk = f s.clk := rfl
@[simp] theorem State.onClk_pending (s : State) (f : Clk → Clk) : (s.onClk f).pending = s.pending := rfl
@[simp] theorem State.onClk_hp (s : State) (f : Clk → Clk) : (s.onClk f).hp = s.hp := rfl
@[simp] theorem State.onClk_scr (s : State) (f : Clk → Clk) : (s.onClk f).scr = s.scr := rfl
@[simp] theorem State.onClk_dp (s : State) (f : Clk → Clk) : (s.onClk f).dp = s.dp := rfl
@[simp] theorem State.onClk_torus (s : State) (f : Clk → Clk) : (s.onClk f).torus = s.torus := rfl
@[simp] theorem State.onClk_edge (s : State) (f : Clk → Clk) : (s.onClk f).edge = s.edge := rfl
@[simp] theorem State.onClk_pw (s : State) (f : Clk → Clk) : (s.onClk f).pw = s.pw := rfl
@[simp] theorem State.onClk_sec (s : State) (f : Clk → Clk) : (s.onClk f).sec = s.sec := rfl
@[simp] theorem State.onClk_st (s : State) (f : Clk → Clk) : (s.onClk f).st = s.st := rfl
@[simp] theorem State.onClk_bu (s : State) (f : Clk → Clk) : (s.onClk f).bu = s.bu := rfl
@[simp] theorem State.onClk_out (s : State) (f : Clk → Clk) : (s.onClk f).out = s.out := rfl

/-! `State.onTorus` -/

@[simp] theorem State.onTorus_torus (s : State) (f : Torus → Torus) : (s.onTorus f).torus = f s.torus := rfl
@[simp] theorem State.onTorus_pending (s : State) (f : Torus → Torus) : (s.onTorus f).pending = s.pending := rfl
@[simp] theorem State.onTorus_clk (s : State) (f : Torus → Torus) : (s.onTorus f).clk = s.clk := rfl
@[simp] theorem State.onTorus_hp (s : State) (f : Torus → Torus) : (s.onTorus f).hp = s.hp := rfl
@[simp] theorem State.onTorus_scr (s : State) (f : Torus → Torus) : (s.onTorus f).scr = s.scr := rfl
@[simp] theorem State.onTorus_dp (s : State) (f : Torus → Torus) : (s.onTorus f).dp = s.dp := rfl
@[simp] theorem State.onTorus_edge (s : State) (f : Torus → Torus) : (s.onTorus f).edge = s.edge := rfl
@[simp] theorem State.onTorus_pw (s : State) (f : Torus → Torus) : (s.onTorus f).pw = s.pw := rfl
@[simp] theorem State.onTorus_sec (s : State) (f : Torus → Torus) : (s.onTorus f).sec = s.sec := rfl
@[simp] theorem State.onTorus_st (s : State) (f : Torus → Torus) : (s.onTorus f).st = s.st := rfl
@[simp] theorem State.onTorus_bu (s : State) (f : Torus → Torus) : (s.onTorus f).bu = s.bu := rfl
@[simp] theorem State.onTorus_out (s : State) (f : Torus → Torus) : (s.onTorus f).out = s.out := rfl

/-! `State.onMem` -/

@[simp] theorem State.onMem_dp_mem (s : State) (f : Mem → Mem) : (s.onMem f).dp.mem = f s.dp.mem := rfl
@[simp] theorem State.onMem_dp_log (s : State) (f : Mem → Mem) : (s.onMem f).dp.log = s.dp.log := rfl
@[simp] theorem State.onMem_dp_irq (s : State) (f : Mem → Mem) : (s.onMem f).dp.irq = s.dp.irq := rfl
@[simp] theorem State.onMem_dp_fr (s : State) (f : Mem → Mem) : (s.onMem f).dp.fr = s.dp.fr := rfl
@[simp] theorem State.onMem_dp_units (s : State) (f : Mem → Mem) : (s.onMem f).dp.units = s.dp.units := rfl
@[simp] theorem State.onMem_dp_mxa (s : State) (f : Mem → Mem) : (s.onMem f).dp.mxa = s.dp.mxa := rfl
@[simp] theorem State.onMem_dp_brush (s : State) (f : Mem → Mem) : (s.onMem f).dp.brush = s.dp.brush := rfl
@[simp] theorem State.onMem_dp_idx (s : State) (f : Mem → Mem) : (s.onMem f).dp.idx = s.dp.idx := rfl
@[simp] theorem State.onMem_dp_dgu (s : State) (f : Mem → Mem) : (s.onMem f).dp.dgu = s.dp.dgu := rfl
@[simp] theorem State.onMem_dp_upu (s : State) (f : Mem → Mem) : (s.onMem f).dp.upu = s.dp.upu := rfl
@[simp] theorem State.onMem_dp_cle (s : State) (f : Mem → Mem) : (s.onMem f).dp.cle = s.dp.cle := rfl
@[simp] theorem State.onMem_dp_part (s : State) (f : Mem → Mem) : (s.onMem f).dp.part = s.dp.part := rfl
@[simp] theorem State.onMem_dp_snap (s : State) (f : Mem → Mem) : (s.onMem f).dp.snap = s.dp.snap := rfl
@[simp] theorem State.onMem_dp_rlog (s : State) (f : Mem → Mem) : (s.onMem f).dp.rlog = s.dp.rlog := rfl
@[simp] theorem State.onMem_dp_edgeTx (s : State) (f : Mem → Mem) : (s.onMem f).dp.edgeTx = s.dp.edgeTx := rfl
@[simp] theorem State.onMem_dp_edgeRx (s : State) (f : Mem → Mem) : (s.onMem f).dp.edgeRx = s.dp.edgeRx := rfl
@[simp] theorem State.onMem_pending (s : State) (f : Mem → Mem) : (s.onMem f).pending = s.pending := rfl
@[simp] theorem State.onMem_clk (s : State) (f : Mem → Mem) : (s.onMem f).clk = s.clk := rfl
@[simp] theorem State.onMem_hp (s : State) (f : Mem → Mem) : (s.onMem f).hp = s.hp := rfl
@[simp] theorem State.onMem_scr (s : State) (f : Mem → Mem) : (s.onMem f).scr = s.scr := rfl
@[simp] theorem State.onMem_torus (s : State) (f : Mem → Mem) : (s.onMem f).torus = s.torus := rfl
@[simp] theorem State.onMem_edge (s : State) (f : Mem → Mem) : (s.onMem f).edge = s.edge := rfl
@[simp] theorem State.onMem_pw (s : State) (f : Mem → Mem) : (s.onMem f).pw = s.pw := rfl
@[simp] theorem State.onMem_sec (s : State) (f : Mem → Mem) : (s.onMem f).sec = s.sec := rfl
@[simp] theorem State.onMem_st (s : State) (f : Mem → Mem) : (s.onMem f).st = s.st := rfl
@[simp] theorem State.onMem_bu (s : State) (f : Mem → Mem) : (s.onMem f).bu = s.bu := rfl
@[simp] theorem State.onMem_out (s : State) (f : Mem → Mem) : (s.onMem f).out = s.out := rfl

/-! `State.onMemB` -/

@[simp] theorem State.onMemB_dp_mem (s : State) (f : Mem → Mem) : (s.onMemB f).dp.mem = f s.dp.mem := rfl
@[simp] theorem State.onMemB_dp_log (s : State) (f : Mem → Mem) : (s.onMemB f).dp.log = s.dp.log := rfl
@[simp] theorem State.onMemB_dp_irq (s : State) (f : Mem → Mem) : (s.onMemB f).dp.irq = s.dp.irq := rfl
@[simp] theorem State.onMemB_dp_fr (s : State) (f : Mem → Mem) : (s.onMemB f).dp.fr = s.dp.fr := rfl
@[simp] theorem State.onMemB_dp_units (s : State) (f : Mem → Mem) : (s.onMemB f).dp.units = s.dp.units := rfl
@[simp] theorem State.onMemB_dp_mxa (s : State) (f : Mem → Mem) : (s.onMemB f).dp.mxa = s.dp.mxa := rfl
@[simp] theorem State.onMemB_dp_brush (s : State) (f : Mem → Mem) : (s.onMemB f).dp.brush = s.dp.brush := rfl
@[simp] theorem State.onMemB_dp_idx (s : State) (f : Mem → Mem) : (s.onMemB f).dp.idx = s.dp.idx := rfl
@[simp] theorem State.onMemB_dp_dgu (s : State) (f : Mem → Mem) : (s.onMemB f).dp.dgu = s.dp.dgu := rfl
@[simp] theorem State.onMemB_dp_upu (s : State) (f : Mem → Mem) : (s.onMemB f).dp.upu = s.dp.upu := rfl
@[simp] theorem State.onMemB_dp_cle (s : State) (f : Mem → Mem) : (s.onMemB f).dp.cle = s.dp.cle := rfl
@[simp] theorem State.onMemB_dp_part (s : State) (f : Mem → Mem) : (s.onMemB f).dp.part = s.dp.part := rfl
@[simp] theorem State.onMemB_dp_snap (s : State) (f : Mem → Mem) : (s.onMemB f).dp.snap = s.dp.snap := rfl
@[simp] theorem State.onMemB_dp_rlog (s : State) (f : Mem → Mem) : (s.onMemB f).dp.rlog = s.dp.rlog := rfl
@[simp] theorem State.onMemB_dp_edgeTx (s : State) (f : Mem → Mem) : (s.onMemB f).dp.edgeTx = s.dp.edgeTx := rfl
@[simp] theorem State.onMemB_dp_edgeRx (s : State) (f : Mem → Mem) : (s.onMemB f).dp.edgeRx = s.dp.edgeRx := rfl
@[simp] theorem State.onMemB_pending (s : State) (f : Mem → Mem) : (s.onMemB f).pending = s.pending := rfl
@[simp] theorem State.onMemB_clk (s : State) (f : Mem → Mem) : (s.onMemB f).clk = s.clk := rfl
@[simp] theorem State.onMemB_hp (s : State) (f : Mem → Mem) : (s.onMemB f).hp = s.hp := rfl
@[simp] theorem State.onMemB_scr (s : State) (f : Mem → Mem) : (s.onMemB f).scr = s.scr := rfl
@[simp] theorem State.onMemB_torus (s : State) (f : Mem → Mem) : (s.onMemB f).torus = s.torus := rfl
@[simp] theorem State.onMemB_edge (s : State) (f : Mem → Mem) : (s.onMemB f).edge = s.edge := rfl
@[simp] theorem State.onMemB_pw (s : State) (f : Mem → Mem) : (s.onMemB f).pw = s.pw := rfl
@[simp] theorem State.onMemB_sec (s : State) (f : Mem → Mem) : (s.onMemB f).sec = s.sec := rfl
@[simp] theorem State.onMemB_st (s : State) (f : Mem → Mem) : (s.onMemB f).st = s.st := rfl
@[simp] theorem State.onMemB_bu (s : State) (f : Mem → Mem) : (s.onMemB f).bu = s.bu := rfl
@[simp] theorem State.onMemB_out (s : State) (f : Mem → Mem) : (s.onMemB f).out = s.out := rfl

/-! `State.onFr` -/

@[simp] theorem State.onFr_dp_fr (s : State) (f : Fr → Fr) : (s.onFr f).dp.fr = f s.dp.fr := rfl
@[simp] theorem State.onFr_dp_mem (s : State) (f : Fr → Fr) : (s.onFr f).dp.mem = s.dp.mem := rfl
@[simp] theorem State.onFr_dp_log (s : State) (f : Fr → Fr) : (s.onFr f).dp.log = s.dp.log := rfl
@[simp] theorem State.onFr_dp_irq (s : State) (f : Fr → Fr) : (s.onFr f).dp.irq = s.dp.irq := rfl
@[simp] theorem State.onFr_dp_units (s : State) (f : Fr → Fr) : (s.onFr f).dp.units = s.dp.units := rfl
@[simp] theorem State.onFr_dp_mxa (s : State) (f : Fr → Fr) : (s.onFr f).dp.mxa = s.dp.mxa := rfl
@[simp] theorem State.onFr_dp_brush (s : State) (f : Fr → Fr) : (s.onFr f).dp.brush = s.dp.brush := rfl
@[simp] theorem State.onFr_dp_idx (s : State) (f : Fr → Fr) : (s.onFr f).dp.idx = s.dp.idx := rfl
@[simp] theorem State.onFr_dp_dgu (s : State) (f : Fr → Fr) : (s.onFr f).dp.dgu = s.dp.dgu := rfl
@[simp] theorem State.onFr_dp_upu (s : State) (f : Fr → Fr) : (s.onFr f).dp.upu = s.dp.upu := rfl
@[simp] theorem State.onFr_dp_cle (s : State) (f : Fr → Fr) : (s.onFr f).dp.cle = s.dp.cle := rfl
@[simp] theorem State.onFr_dp_part (s : State) (f : Fr → Fr) : (s.onFr f).dp.part = s.dp.part := rfl
@[simp] theorem State.onFr_dp_snap (s : State) (f : Fr → Fr) : (s.onFr f).dp.snap = s.dp.snap := rfl
@[simp] theorem State.onFr_dp_rlog (s : State) (f : Fr → Fr) : (s.onFr f).dp.rlog = s.dp.rlog := rfl
@[simp] theorem State.onFr_dp_edgeTx (s : State) (f : Fr → Fr) : (s.onFr f).dp.edgeTx = s.dp.edgeTx := rfl
@[simp] theorem State.onFr_dp_edgeRx (s : State) (f : Fr → Fr) : (s.onFr f).dp.edgeRx = s.dp.edgeRx := rfl
@[simp] theorem State.onFr_pending (s : State) (f : Fr → Fr) : (s.onFr f).pending = s.pending := rfl
@[simp] theorem State.onFr_clk (s : State) (f : Fr → Fr) : (s.onFr f).clk = s.clk := rfl
@[simp] theorem State.onFr_hp (s : State) (f : Fr → Fr) : (s.onFr f).hp = s.hp := rfl
@[simp] theorem State.onFr_scr (s : State) (f : Fr → Fr) : (s.onFr f).scr = s.scr := rfl
@[simp] theorem State.onFr_torus (s : State) (f : Fr → Fr) : (s.onFr f).torus = s.torus := rfl
@[simp] theorem State.onFr_edge (s : State) (f : Fr → Fr) : (s.onFr f).edge = s.edge := rfl
@[simp] theorem State.onFr_pw (s : State) (f : Fr → Fr) : (s.onFr f).pw = s.pw := rfl
@[simp] theorem State.onFr_sec (s : State) (f : Fr → Fr) : (s.onFr f).sec = s.sec := rfl
@[simp] theorem State.onFr_st (s : State) (f : Fr → Fr) : (s.onFr f).st = s.st := rfl
@[simp] theorem State.onFr_bu (s : State) (f : Fr → Fr) : (s.onFr f).bu = s.bu := rfl
@[simp] theorem State.onFr_out (s : State) (f : Fr → Fr) : (s.onFr f).out = s.out := rfl

/-! `State.onLog` -/

@[simp] theorem State.onLog_dp_log (s : State) (f : Log → Log) : (s.onLog f).dp.log = f s.dp.log := rfl
@[simp] theorem State.onLog_dp_mem (s : State) (f : Log → Log) : (s.onLog f).dp.mem = s.dp.mem := rfl
@[simp] theorem State.onLog_dp_irq (s : State) (f : Log → Log) : (s.onLog f).dp.irq = s.dp.irq := rfl
@[simp] theorem State.onLog_dp_fr (s : State) (f : Log → Log) : (s.onLog f).dp.fr = s.dp.fr := rfl
@[simp] theorem State.onLog_dp_units (s : State) (f : Log → Log) : (s.onLog f).dp.units = s.dp.units := rfl
@[simp] theorem State.onLog_dp_mxa (s : State) (f : Log → Log) : (s.onLog f).dp.mxa = s.dp.mxa := rfl
@[simp] theorem State.onLog_dp_brush (s : State) (f : Log → Log) : (s.onLog f).dp.brush = s.dp.brush := rfl
@[simp] theorem State.onLog_dp_idx (s : State) (f : Log → Log) : (s.onLog f).dp.idx = s.dp.idx := rfl
@[simp] theorem State.onLog_dp_dgu (s : State) (f : Log → Log) : (s.onLog f).dp.dgu = s.dp.dgu := rfl
@[simp] theorem State.onLog_dp_upu (s : State) (f : Log → Log) : (s.onLog f).dp.upu = s.dp.upu := rfl
@[simp] theorem State.onLog_dp_cle (s : State) (f : Log → Log) : (s.onLog f).dp.cle = s.dp.cle := rfl
@[simp] theorem State.onLog_dp_part (s : State) (f : Log → Log) : (s.onLog f).dp.part = s.dp.part := rfl
@[simp] theorem State.onLog_dp_snap (s : State) (f : Log → Log) : (s.onLog f).dp.snap = s.dp.snap := rfl
@[simp] theorem State.onLog_dp_rlog (s : State) (f : Log → Log) : (s.onLog f).dp.rlog = s.dp.rlog := rfl
@[simp] theorem State.onLog_dp_edgeTx (s : State) (f : Log → Log) : (s.onLog f).dp.edgeTx = s.dp.edgeTx := rfl
@[simp] theorem State.onLog_dp_edgeRx (s : State) (f : Log → Log) : (s.onLog f).dp.edgeRx = s.dp.edgeRx := rfl
@[simp] theorem State.onLog_pending (s : State) (f : Log → Log) : (s.onLog f).pending = s.pending := rfl
@[simp] theorem State.onLog_clk (s : State) (f : Log → Log) : (s.onLog f).clk = s.clk := rfl
@[simp] theorem State.onLog_hp (s : State) (f : Log → Log) : (s.onLog f).hp = s.hp := rfl
@[simp] theorem State.onLog_scr (s : State) (f : Log → Log) : (s.onLog f).scr = s.scr := rfl
@[simp] theorem State.onLog_torus (s : State) (f : Log → Log) : (s.onLog f).torus = s.torus := rfl
@[simp] theorem State.onLog_edge (s : State) (f : Log → Log) : (s.onLog f).edge = s.edge := rfl
@[simp] theorem State.onLog_pw (s : State) (f : Log → Log) : (s.onLog f).pw = s.pw := rfl
@[simp] theorem State.onLog_sec (s : State) (f : Log → Log) : (s.onLog f).sec = s.sec := rfl
@[simp] theorem State.onLog_st (s : State) (f : Log → Log) : (s.onLog f).st = s.st := rfl
@[simp] theorem State.onLog_bu (s : State) (f : Log → Log) : (s.onLog f).bu = s.bu := rfl
@[simp] theorem State.onLog_out (s : State) (f : Log → Log) : (s.onLog f).out = s.out := rfl

/-! `State.onDp` -/

@[simp] theorem State.onDp_dp (s : State) (f : Env → Dp → Dp) : (s.onDp f).dp = f s.env s.dp := rfl
@[simp] theorem State.onDp_pending (s : State) (f : Env → Dp → Dp) : (s.onDp f).pending = s.pending := rfl
@[simp] theorem State.onDp_clk (s : State) (f : Env → Dp → Dp) : (s.onDp f).clk = s.clk := rfl
@[simp] theorem State.onDp_hp (s : State) (f : Env → Dp → Dp) : (s.onDp f).hp = s.hp := rfl
@[simp] theorem State.onDp_scr (s : State) (f : Env → Dp → Dp) : (s.onDp f).scr = s.scr := rfl
@[simp] theorem State.onDp_torus (s : State) (f : Env → Dp → Dp) : (s.onDp f).torus = s.torus := rfl
@[simp] theorem State.onDp_edge (s : State) (f : Env → Dp → Dp) : (s.onDp f).edge = s.edge := rfl
@[simp] theorem State.onDp_pw (s : State) (f : Env → Dp → Dp) : (s.onDp f).pw = s.pw := rfl
@[simp] theorem State.onDp_sec (s : State) (f : Env → Dp → Dp) : (s.onDp f).sec = s.sec := rfl
@[simp] theorem State.onDp_st (s : State) (f : Env → Dp → Dp) : (s.onDp f).st = s.st := rfl
@[simp] theorem State.onDp_bu (s : State) (f : Env → Dp → Dp) : (s.onDp f).bu = s.bu := rfl
@[simp] theorem State.onDp_out (s : State) (f : Env → Dp → Dp) : (s.onDp f).out = s.out := rfl

/-! `State.onSels` -/

@[simp] theorem State.onSels_hp (s : State) (f : Sels → Sels) : (s.onSels f).hp = { s.hp with sels := f s.hp.sels } := rfl
@[simp] theorem State.onSels_pending (s : State) (f : Sels → Sels) : (s.onSels f).pending = s.pending := rfl
@[simp] theorem State.onSels_clk (s : State) (f : Sels → Sels) : (s.onSels f).clk = s.clk := rfl
@[simp] theorem State.onSels_scr (s : State) (f : Sels → Sels) : (s.onSels f).scr = s.scr := rfl
@[simp] theorem State.onSels_dp (s : State) (f : Sels → Sels) : (s.onSels f).dp = s.dp := rfl
@[simp] theorem State.onSels_torus (s : State) (f : Sels → Sels) : (s.onSels f).torus = s.torus := rfl
@[simp] theorem State.onSels_edge (s : State) (f : Sels → Sels) : (s.onSels f).edge = s.edge := rfl
@[simp] theorem State.onSels_pw (s : State) (f : Sels → Sels) : (s.onSels f).pw = s.pw := rfl
@[simp] theorem State.onSels_sec (s : State) (f : Sels → Sels) : (s.onSels f).sec = s.sec := rfl
@[simp] theorem State.onSels_st (s : State) (f : Sels → Sels) : (s.onSels f).st = s.st := rfl
@[simp] theorem State.onSels_bu (s : State) (f : Sels → Sels) : (s.onSels f).bu = s.bu := rfl
@[simp] theorem State.onSels_out (s : State) (f : Sels → Sels) : (s.onSels f).out = s.out := rfl

/-! `State.setTests` -/

@[simp] theorem State.setTests_st (s : State) (t : St) : (s.setTests t).st = t := rfl
@[simp] theorem State.setTests_dp_log (s : State) (t : St) : (s.setTests t).dp.log = s.dp.log := rfl
@[simp] theorem State.setTests_dp_irq (s : State) (t : St) : (s.setTests t).dp.irq = s.dp.irq := rfl
@[simp] theorem State.setTests_dp_fr (s : State) (t : St) : (s.setTests t).dp.fr = s.dp.fr := rfl
@[simp] theorem State.setTests_dp_units (s : State) (t : St) : (s.setTests t).dp.units = s.dp.units := rfl
@[simp] theorem State.setTests_dp_mxa (s : State) (t : St) : (s.setTests t).dp.mxa = s.dp.mxa := rfl
@[simp] theorem State.setTests_dp_brush (s : State) (t : St) : (s.setTests t).dp.brush = s.dp.brush := rfl
@[simp] theorem State.setTests_dp_idx (s : State) (t : St) : (s.setTests t).dp.idx = s.dp.idx := rfl
@[simp] theorem State.setTests_dp_dgu (s : State) (t : St) : (s.setTests t).dp.dgu = s.dp.dgu := rfl
@[simp] theorem State.setTests_dp_upu (s : State) (t : St) : (s.setTests t).dp.upu = s.dp.upu := rfl
@[simp] theorem State.setTests_dp_cle (s : State) (t : St) : (s.setTests t).dp.cle = s.dp.cle := rfl
@[simp] theorem State.setTests_dp_part (s : State) (t : St) : (s.setTests t).dp.part = s.dp.part := rfl
@[simp] theorem State.setTests_dp_snap (s : State) (t : St) : (s.setTests t).dp.snap = s.dp.snap := rfl
@[simp] theorem State.setTests_dp_rlog (s : State) (t : St) : (s.setTests t).dp.rlog = s.dp.rlog := rfl
@[simp] theorem State.setTests_dp_edgeTx (s : State) (t : St) : (s.setTests t).dp.edgeTx = s.dp.edgeTx := rfl
@[simp] theorem State.setTests_dp_edgeRx (s : State) (t : St) : (s.setTests t).dp.edgeRx = s.dp.edgeRx := rfl
@[simp] theorem State.setTests_pending (s : State) (t : St) : (s.setTests t).pending = s.pending := rfl
@[simp] theorem State.setTests_clk (s : State) (t : St) : (s.setTests t).clk = s.clk := rfl
@[simp] theorem State.setTests_hp (s : State) (t : St) : (s.setTests t).hp = s.hp := rfl
@[simp] theorem State.setTests_scr (s : State) (t : St) : (s.setTests t).scr = s.scr := rfl
@[simp] theorem State.setTests_torus (s : State) (t : St) : (s.setTests t).torus = s.torus := rfl
@[simp] theorem State.setTests_edge (s : State) (t : St) : (s.setTests t).edge = s.edge := rfl
@[simp] theorem State.setTests_pw (s : State) (t : St) : (s.setTests t).pw = s.pw := rfl
@[simp] theorem State.setTests_sec (s : State) (t : St) : (s.setTests t).sec = s.sec := rfl
@[simp] theorem State.setTests_bu (s : State) (t : St) : (s.setTests t).bu = s.bu := rfl
@[simp] theorem State.setTests_out (s : State) (t : St) : (s.setTests t).out = s.out := rfl

/-! `State.advance` -/

@[simp] theorem State.advance_clk (s : State) (t : Nat) : (s.advance t).clk = s.clk.advance t := rfl
@[simp] theorem State.advance_pending (s : State) (t : Nat) : (s.advance t).pending = s.pending := rfl
@[simp] theorem State.advance_hp (s : State) (t : Nat) : (s.advance t).hp = s.hp := rfl
@[simp] theorem State.advance_scr (s : State) (t : Nat) : (s.advance t).scr = s.scr := rfl
@[simp] theorem State.advance_dp (s : State) (t : Nat) : (s.advance t).dp = s.dp := rfl
@[simp] theorem State.advance_torus (s : State) (t : Nat) : (s.advance t).torus = s.torus := rfl
@[simp] theorem State.advance_edge (s : State) (t : Nat) : (s.advance t).edge = s.edge := rfl
@[simp] theorem State.advance_pw (s : State) (t : Nat) : (s.advance t).pw = s.pw := rfl
@[simp] theorem State.advance_sec (s : State) (t : Nat) : (s.advance t).sec = s.sec := rfl
@[simp] theorem State.advance_st (s : State) (t : Nat) : (s.advance t).st = s.st := rfl
@[simp] theorem State.advance_bu (s : State) (t : Nat) : (s.advance t).bu = s.bu := rfl
@[simp] theorem State.advance_out (s : State) (t : Nat) : (s.advance t).out = s.out := rfl

/-! `State.setQ` -/

@[simp] theorem State.getQ_setQ (s : State) (q k : Nat) (f : Queue → Queue) :
    (s.setQ q f).getQ k = if k = q then f (s.getQ q) else s.getQ k := Tab.get_upd ..
@[simp] theorem State.setQ_pending (s : State) (q : Nat) (f : Queue → Queue) : (s.setQ q f).pending = s.pending := rfl
@[simp] theorem State.setQ_clk (s : State) (q : Nat) (f : Queue → Queue) : (s.setQ q f).clk = s.clk := rfl
@[simp] theorem State.setQ_scr (s : State) (q : Nat) (f : Queue → Queue) : (s.setQ q f).scr = s.scr := rfl
@[simp] theorem State.setQ_dp (s : State) (q : Nat) (f : Queue → Queue) : (s.setQ q f).dp = s.dp := rfl
@[simp] theorem State.setQ_torus (s : State) (q : Nat) (f : Queue → Queue) : (s.setQ q f).torus = s.torus := rfl
@[simp] theorem State.setQ_edge (s : State) (q : Nat) (f : Queue → Queue) : (s.setQ q f).edge = s.edge := rfl
@[simp] theorem State.setQ_pw (s : State) (q : Nat) (f : Queue → Queue) : (s.setQ q f).pw = s.pw := rfl
@[simp] theorem State.setQ_sec (s : State) (q : Nat) (f : Queue → Queue) : (s.setQ q f).sec = s.sec := rfl
@[simp] theorem State.setQ_st (s : State) (q : Nat) (f : Queue → Queue) : (s.setQ q f).st = s.st := rfl
@[simp] theorem State.setQ_bu (s : State) (q : Nat) (f : Queue → Queue) : (s.setQ q f).bu = s.bu := rfl
@[simp] theorem State.setQ_out (s : State) (q : Nat) (f : Queue → Queue) : (s.setQ q f).out = s.out := rfl

/-! `State.setPartn` -/

@[simp] theorem State.getPartn_setPartn (s : State) (q k : Nat) (f : Partition → Partition) :
    (s.setPartn q f).getPartn k = if k = q then f (s.getPartn q) else s.getPartn k := Tab.get_upd ..
@[simp] theorem State.setPartn_pending (s : State) (q : Nat) (f : Partition → Partition) : (s.setPartn q f).pending = s.pending := rfl
@[simp] theorem State.setPartn_clk (s : State) (q : Nat) (f : Partition → Partition) : (s.setPartn q f).clk = s.clk := rfl
@[simp] theorem State.setPartn_hp (s : State) (q : Nat) (f : Partition → Partition) : (s.setPartn q f).hp = s.hp := rfl
@[simp] theorem State.setPartn_dp (s : State) (q : Nat) (f : Partition → Partition) : (s.setPartn q f).dp = s.dp := rfl
@[simp] theorem State.setPartn_torus (s : State) (q : Nat) (f : Partition → Partition) : (s.setPartn q f).torus = s.torus := rfl
@[simp] theorem State.setPartn_edge (s : State) (q : Nat) (f : Partition → Partition) : (s.setPartn q f).edge = s.edge := rfl
@[simp] theorem State.setPartn_pw (s : State) (q : Nat) (f : Partition → Partition) : (s.setPartn q f).pw = s.pw := rfl
@[simp] theorem State.setPartn_sec (s : State) (q : Nat) (f : Partition → Partition) : (s.setPartn q f).sec = s.sec := rfl
@[simp] theorem State.setPartn_st (s : State) (q : Nat) (f : Partition → Partition) : (s.setPartn q f).st = s.st := rfl
@[simp] theorem State.setPartn_bu (s : State) (q : Nat) (f : Partition → Partition) : (s.setPartn q f).bu = s.bu := rfl
@[simp] theorem State.setPartn_out (s : State) (q : Nat) (f : Partition → Partition) : (s.setPartn q f).out = s.out := rfl

/-! `State.setPort`, `State.onPart`, `State.onPort`, `State.onEnd`, `Edge.setEnd` -/

@[simp] theorem Torus.port_setPort (t : Torus) (p k : Nat) (f : Port → Port) :
    (t.setPort p f).port k = if k = p then f (t.port p) else t.port k := Tab.get_upd ..
@[simp] theorem State.setPort_torus (s : State) (p : Nat) (f : Port → Port) : (s.setPort p f).torus = s.torus.setPort p f := rfl
@[simp] theorem State.setPort_pending (s : State) (p : Nat) (f : Port → Port) : (s.setPort p f).pending = s.pending := rfl
@[simp] theorem State.setPort_clk (s : State) (p : Nat) (f : Port → Port) : (s.setPort p f).clk = s.clk := rfl
@[simp] theorem State.setPort_hp (s : State) (p : Nat) (f : Port → Port) : (s.setPort p f).hp = s.hp := rfl
@[simp] theorem State.setPort_scr (s : State) (p : Nat) (f : Port → Port) : (s.setPort p f).scr = s.scr := rfl
@[simp] theorem State.setPort_dp (s : State) (p : Nat) (f : Port → Port) : (s.setPort p f).dp = s.dp := rfl
@[simp] theorem State.setPort_edge (s : State) (p : Nat) (f : Port → Port) : (s.setPort p f).edge = s.edge := rfl
@[simp] theorem State.setPort_pw (s : State) (p : Nat) (f : Port → Port) : (s.setPort p f).pw = s.pw := rfl
@[simp] theorem State.setPort_sec (s : State) (p : Nat) (f : Port → Port) : (s.setPort p f).sec = s.sec := rfl
@[simp] theorem State.setPort_st (s : State) (p : Nat) (f : Port → Port) : (s.setPort p f).st = s.st := rfl
@[simp] theorem State.setPort_bu (s : State) (p : Nat) (f : Port → Port) : (s.setPort p f).bu = s.bu := rfl
@[simp] theorem State.setPort_out (s : State) (p : Nat) (f : Port → Port) : (s.setPort p f).out = s.out := rfl
@[simp] theorem State.onPort_pending (s : State) (f : Port → Port) : (s.onPort f).pending = s.pending := rfl
@[simp] theorem State.onPort_clk (s : State) (f : Port → Port) : (s.onPort f).clk = s.clk := rfl
@[simp] theorem State.onPort_hp (s : State) (f : Port → Port) : (s.onPort f).hp = s.hp := rfl
@[simp] theorem State.onPort_scr (s : State) (f : Port → Port) : (s.onPort f).scr = s.scr := rfl
@[simp] theorem State.onPort_dp (s : State) (f : Port → Port) : (s.onPort f).dp = s.dp := rfl
@[simp] theorem State.onPort_edge (s : State) (f : Port → Port) : (s.onPort f).edge = s.edge := rfl
@[simp] theorem State.onPort_pw (s : State) (f : Port → Port) : (s.onPort f).pw = s.pw := rfl
@[simp] theorem State.onPort_sec (s : State) (f : Port → Port) : (s.onPort f).sec = s.sec := rfl
@[simp] theorem State.onPort_st (s : State) (f : Port → Port) : (s.onPort f).st = s.st := rfl
@[simp] theorem State.onPort_bu (s : State) (f : Port → Port) : (s.onPort f).bu = s.bu := rfl
@[simp] theorem State.onPort_out (s : State) (f : Port → Port) : (s.onPort f).out = s.out := rfl
@[simp] theorem State.onEnd_pending (s : State) (f : EdgeEnd → EdgeEnd) : (s.onEnd f).pending = s.pending := rfl
@[simp] theorem State.onEnd_clk (s : State) (f : EdgeEnd → EdgeEnd) : (s.onEnd f).clk = s.clk := rfl
@[simp] theorem State.onEnd_hp (s : State) (f : EdgeEnd → EdgeEnd) : (s.onEnd f).hp = s.hp := rfl
@[simp] theorem State.onEnd_scr (s : State) (f : EdgeEnd → EdgeEnd) : (s.onEnd f).scr = s.scr := rfl
@[simp] theorem State.onEnd_dp (s : State) (f : EdgeEnd → EdgeEnd) : (s.onEnd f).dp = s.dp := rfl
@[simp] theorem State.onEnd_torus (s : State) (f : EdgeEnd → EdgeEnd) : (s.onEnd f).torus = s.torus := rfl
@[simp] theorem State.onEnd_pw (s : State) (f : EdgeEnd → EdgeEnd) : (s.onEnd f).pw = s.pw := rfl
@[simp] theorem State.onEnd_sec (s : State) (f : EdgeEnd → EdgeEnd) : (s.onEnd f).sec = s.sec := rfl
@[simp] theorem State.onEnd_st (s : State) (f : EdgeEnd → EdgeEnd) : (s.onEnd f).st = s.st := rfl
@[simp] theorem State.onEnd_bu (s : State) (f : EdgeEnd → EdgeEnd) : (s.onEnd f).bu = s.bu := rfl
@[simp] theorem State.onEnd_out (s : State) (f : EdgeEnd → EdgeEnd) : (s.onEnd f).out = s.out := rfl
@[simp] theorem State.onPart_pending (s : State) (p : Nat) (f : Part → Part) : (s.onPart p f).pending = s.pending := rfl
@[simp] theorem State.onPart_clk (s : State) (p : Nat) (f : Part → Part) : (s.onPart p f).clk = s.clk := rfl
@[simp] theorem State.onPart_hp (s : State) (p : Nat) (f : Part → Part) : (s.onPart p f).hp = s.hp := rfl
@[simp] theorem State.onPart_scr (s : State) (p : Nat) (f : Part → Part) : (s.onPart p f).scr = s.scr := rfl
@[simp] theorem State.onPart_torus (s : State) (p : Nat) (f : Part → Part) : (s.onPart p f).torus = s.torus := rfl
@[simp] theorem State.onPart_edge (s : State) (p : Nat) (f : Part → Part) : (s.onPart p f).edge = s.edge := rfl
@[simp] theorem State.onPart_pw (s : State) (p : Nat) (f : Part → Part) : (s.onPart p f).pw = s.pw := rfl
@[simp] theorem State.onPart_sec (s : State) (p : Nat) (f : Part → Part) : (s.onPart p f).sec = s.sec := rfl
@[simp] theorem State.onPart_st (s : State) (p : Nat) (f : Part → Part) : (s.onPart p f).st = s.st := rfl
@[simp] theorem State.onPart_bu (s : State) (p : Nat) (f : Part → Part) : (s.onPart p f).bu = s.bu := rfl
@[simp] theorem State.onPart_out (s : State) (p : Nat) (f : Part → Part) : (s.onPart p f).out = s.out := rfl
@[simp] theorem State.onPart_dp_mem (s : State) (p : Nat) (f : Part → Part) : (s.onPart p f).dp.mem = s.dp.mem := rfl
@[simp] theorem State.onPart_dp_log (s : State) (p : Nat) (f : Part → Part) : (s.onPart p f).dp.log = s.dp.log := rfl
@[simp] theorem State.onPart_dp_irq (s : State) (p : Nat) (f : Part → Part) : (s.onPart p f).dp.irq = s.dp.irq := rfl
@[simp] theorem State.onPart_dp_fr (s : State) (p : Nat) (f : Part → Part) : (s.onPart p f).dp.fr = s.dp.fr := rfl
@[simp] theorem State.onPart_dp_units (s : State) (p : Nat) (f : Part → Part) : (s.onPart p f).dp.units = s.dp.units := rfl
@[simp] theorem State.onPart_dp_mxa (s : State) (p : Nat) (f : Part → Part) : (s.onPart p f).dp.mxa = s.dp.mxa := rfl
@[simp] theorem State.onPart_dp_brush (s : State) (p : Nat) (f : Part → Part) : (s.onPart p f).dp.brush = s.dp.brush := rfl
@[simp] theorem State.onPart_dp_idx (s : State) (p : Nat) (f : Part → Part) : (s.onPart p f).dp.idx = s.dp.idx := rfl
@[simp] theorem State.onPart_dp_dgu (s : State) (p : Nat) (f : Part → Part) : (s.onPart p f).dp.dgu = s.dp.dgu := rfl
@[simp] theorem State.onPart_dp_upu (s : State) (p : Nat) (f : Part → Part) : (s.onPart p f).dp.upu = s.dp.upu := rfl
@[simp] theorem State.onPart_dp_cle (s : State) (p : Nat) (f : Part → Part) : (s.onPart p f).dp.cle = s.dp.cle := rfl
@[simp] theorem State.onPart_dp_snap (s : State) (p : Nat) (f : Part → Part) : (s.onPart p f).dp.snap = s.dp.snap := rfl
@[simp] theorem State.onPart_dp_rlog (s : State) (p : Nat) (f : Part → Part) : (s.onPart p f).dp.rlog = s.dp.rlog := rfl
@[simp] theorem State.onPart_dp_edgeTx (s : State) (p : Nat) (f : Part → Part) : (s.onPart p f).dp.edgeTx = s.dp.edgeTx := rfl
@[simp] theorem State.onPart_dp_edgeRx (s : State) (p : Nat) (f : Part → Part) : (s.onPart p f).dp.edgeRx = s.dp.edgeRx := rfl
@[simp] theorem Edge.endAt_setEnd (e : Edge) (p k : Nat) (f : EdgeEnd → EdgeEnd) :
    (e.setEnd p f).endAt k = if k = p then f (e.endAt p) else e.endAt k := Tab.get_upd ..

/-! `Dp.setUnit` -/

@[simp] theorem Dp.getUnit_setUnit (d : Dp) (u k : Nat) (f : Unit → Unit) :
    (d.setUnit u f).getUnit k = if k = u then f (d.getUnit u) else d.getUnit k := Tab.get_upd ..
@[simp] theorem Dp.setUnit_mem (d : Dp) (u : Nat) (f : Unit → Unit) : (d.setUnit u f).mem = d.mem := rfl
@[simp] theorem Dp.setUnit_log (d : Dp) (u : Nat) (f : Unit → Unit) : (d.setUnit u f).log = d.log := rfl
@[simp] theorem Dp.setUnit_irq (d : Dp) (u : Nat) (f : Unit → Unit) : (d.setUnit u f).irq = d.irq := rfl
@[simp] theorem Dp.setUnit_fr (d : Dp) (u : Nat) (f : Unit → Unit) : (d.setUnit u f).fr = d.fr := rfl
@[simp] theorem Dp.setUnit_mxa (d : Dp) (u : Nat) (f : Unit → Unit) : (d.setUnit u f).mxa = d.mxa := rfl
@[simp] theorem Dp.setUnit_brush (d : Dp) (u : Nat) (f : Unit → Unit) : (d.setUnit u f).brush = d.brush := rfl
@[simp] theorem Dp.setUnit_idx (d : Dp) (u : Nat) (f : Unit → Unit) : (d.setUnit u f).idx = d.idx := rfl
@[simp] theorem Dp.setUnit_dgu (d : Dp) (u : Nat) (f : Unit → Unit) : (d.setUnit u f).dgu = d.dgu := rfl
@[simp] theorem Dp.setUnit_upu (d : Dp) (u : Nat) (f : Unit → Unit) : (d.setUnit u f).upu = d.upu := rfl
@[simp] theorem Dp.setUnit_cle (d : Dp) (u : Nat) (f : Unit → Unit) : (d.setUnit u f).cle = d.cle := rfl
@[simp] theorem Dp.setUnit_part (d : Dp) (u : Nat) (f : Unit → Unit) : (d.setUnit u f).part = d.part := rfl
@[simp] theorem Dp.setUnit_snap (d : Dp) (u : Nat) (f : Unit → Unit) : (d.setUnit u f).snap = d.snap := rfl
@[simp] theorem Dp.setUnit_rlog (d : Dp) (u : Nat) (f : Unit → Unit) : (d.setUnit u f).rlog = d.rlog := rfl
@[simp] theorem Dp.setUnit_edgeTx (d : Dp) (u : Nat) (f : Unit → Unit) : (d.setUnit u f).edgeTx = d.edgeTx := rfl
@[simp] theorem Dp.setUnit_edgeRx (d : Dp) (u : Nat) (f : Unit → Unit) : (d.setUnit u f).edgeRx = d.edgeRx := rfl

/-! `Dp.setPart` -/

@[simp] theorem Dp.getPart_setPart (d : Dp) (u k : Nat) (f : Part → Part) :
    (d.setPart u f).getPart k = if k = u then f (d.getPart u) else d.getPart k := Tab.get_upd ..
@[simp] theorem Dp.setPart_mem (d : Dp) (u : Nat) (f : Part → Part) : (d.setPart u f).mem = d.mem := rfl
@[simp] theorem Dp.setPart_log (d : Dp) (u : Nat) (f : Part → Part) : (d.setPart u f).log = d.log := rfl
@[simp] theorem Dp.setPart_irq (d : Dp) (u : Nat) (f : Part → Part) : (d.setPart u f).irq = d.irq := rfl
@[simp] theorem Dp.setPart_fr (d : Dp) (u : Nat) (f : Part → Part) : (d.setPart u f).fr = d.fr := rfl
@[simp] theorem Dp.setPart_units (d : Dp) (u : Nat) (f : Part → Part) : (d.setPart u f).units = d.units := rfl
@[simp] theorem Dp.setPart_mxa (d : Dp) (u : Nat) (f : Part → Part) : (d.setPart u f).mxa = d.mxa := rfl
@[simp] theorem Dp.setPart_brush (d : Dp) (u : Nat) (f : Part → Part) : (d.setPart u f).brush = d.brush := rfl
@[simp] theorem Dp.setPart_idx (d : Dp) (u : Nat) (f : Part → Part) : (d.setPart u f).idx = d.idx := rfl
@[simp] theorem Dp.setPart_dgu (d : Dp) (u : Nat) (f : Part → Part) : (d.setPart u f).dgu = d.dgu := rfl
@[simp] theorem Dp.setPart_upu (d : Dp) (u : Nat) (f : Part → Part) : (d.setPart u f).upu = d.upu := rfl
@[simp] theorem Dp.setPart_cle (d : Dp) (u : Nat) (f : Part → Part) : (d.setPart u f).cle = d.cle := rfl
@[simp] theorem Dp.setPart_snap (d : Dp) (u : Nat) (f : Part → Part) : (d.setPart u f).snap = d.snap := rfl
@[simp] theorem Dp.setPart_rlog (d : Dp) (u : Nat) (f : Part → Part) : (d.setPart u f).rlog = d.rlog := rfl
@[simp] theorem Dp.setPart_edgeTx (d : Dp) (u : Nat) (f : Part → Part) : (d.setPart u f).edgeTx = d.edgeTx := rfl
@[simp] theorem Dp.setPart_edgeRx (d : Dp) (u : Nat) (f : Part → Part) : (d.setPart u f).edgeRx = d.edgeRx := rfl

/-! `Dp.setUpu` -/

@[simp] theorem Dp.getUpu_setUpu (d : Dp) (u k : Nat) (f : Upu → Upu) :
    (d.setUpu u f).getUpu k = if k = u then f (d.getUpu u) else d.getUpu k := Tab.get_upd ..
@[simp] theorem Dp.setUpu_mem (d : Dp) (u : Nat) (f : Upu → Upu) : (d.setUpu u f).mem = d.mem := rfl
@[simp] theorem Dp.setUpu_log (d : Dp) (u : Nat) (f : Upu → Upu) : (d.setUpu u f).log = d.log := rfl
@[simp] theorem Dp.setUpu_irq (d : Dp) (u : Nat) (f : Upu → Upu) : (d.setUpu u f).irq = d.irq := rfl
@[simp] theorem Dp.setUpu_fr (d : Dp) (u : Nat) (f : Upu → Upu) : (d.setUpu u f).fr = d.fr := rfl
@[simp] theorem Dp.setUpu_units (d : Dp) (u : Nat) (f : Upu → Upu) : (d.setUpu u f).units = d.units := rfl
@[simp] theorem Dp.setUpu_mxa (d : Dp) (u : Nat) (f : Upu → Upu) : (d.setUpu u f).mxa = d.mxa := rfl
@[simp] theorem Dp.setUpu_brush (d : Dp) (u : Nat) (f : Upu → Upu) : (d.setUpu u f).brush = d.brush := rfl
@[simp] theorem Dp.setUpu_idx (d : Dp) (u : Nat) (f : Upu → Upu) : (d.setUpu u f).idx = d.idx := rfl
@[simp] theorem Dp.setUpu_dgu (d : Dp) (u : Nat) (f : Upu → Upu) : (d.setUpu u f).dgu = d.dgu := rfl
@[simp] theorem Dp.setUpu_cle (d : Dp) (u : Nat) (f : Upu → Upu) : (d.setUpu u f).cle = d.cle := rfl
@[simp] theorem Dp.setUpu_part (d : Dp) (u : Nat) (f : Upu → Upu) : (d.setUpu u f).part = d.part := rfl
@[simp] theorem Dp.setUpu_snap (d : Dp) (u : Nat) (f : Upu → Upu) : (d.setUpu u f).snap = d.snap := rfl
@[simp] theorem Dp.setUpu_rlog (d : Dp) (u : Nat) (f : Upu → Upu) : (d.setUpu u f).rlog = d.rlog := rfl
@[simp] theorem Dp.setUpu_edgeTx (d : Dp) (u : Nat) (f : Upu → Upu) : (d.setUpu u f).edgeTx = d.edgeTx := rfl
@[simp] theorem Dp.setUpu_edgeRx (d : Dp) (u : Nat) (f : Upu → Upu) : (d.setUpu u f).edgeRx = d.edgeRx := rfl

/-! `Dp.setBrush` -/

@[simp] theorem Dp.getBrush_setBrush (d : Dp) (u k : Nat) (f : Brush → Brush) :
    (d.setBrush u f).getBrush k = if k = u then f (d.getBrush u) else d.getBrush k := Tab.get_upd ..
@[simp] theorem Dp.setBrush_mem (d : Dp) (u : Nat) (f : Brush → Brush) : (d.setBrush u f).mem = d.mem := rfl
@[simp] theorem Dp.setBrush_log (d : Dp) (u : Nat) (f : Brush → Brush) : (d.setBrush u f).log = d.log := rfl
@[simp] theorem Dp.setBrush_irq (d : Dp) (u : Nat) (f : Brush → Brush) : (d.setBrush u f).irq = d.irq := rfl
@[simp] theorem Dp.setBrush_fr (d : Dp) (u : Nat) (f : Brush → Brush) : (d.setBrush u f).fr = d.fr := rfl
@[simp] theorem Dp.setBrush_units (d : Dp) (u : Nat) (f : Brush → Brush) : (d.setBrush u f).units = d.units := rfl
@[simp] theorem Dp.setBrush_mxa (d : Dp) (u : Nat) (f : Brush → Brush) : (d.setBrush u f).mxa = d.mxa := rfl
@[simp] theorem Dp.setBrush_idx (d : Dp) (u : Nat) (f : Brush → Brush) : (d.setBrush u f).idx = d.idx := rfl
@[simp] theorem Dp.setBrush_dgu (d : Dp) (u : Nat) (f : Brush → Brush) : (d.setBrush u f).dgu = d.dgu := rfl
@[simp] theorem Dp.setBrush_upu (d : Dp) (u : Nat) (f : Brush → Brush) : (d.setBrush u f).upu = d.upu := rfl
@[simp] theorem Dp.setBrush_cle (d : Dp) (u : Nat) (f : Brush → Brush) : (d.setBrush u f).cle = d.cle := rfl
@[simp] theorem Dp.setBrush_part (d : Dp) (u : Nat) (f : Brush → Brush) : (d.setBrush u f).part = d.part := rfl
@[simp] theorem Dp.setBrush_snap (d : Dp) (u : Nat) (f : Brush → Brush) : (d.setBrush u f).snap = d.snap := rfl
@[simp] theorem Dp.setBrush_rlog (d : Dp) (u : Nat) (f : Brush → Brush) : (d.setBrush u f).rlog = d.rlog := rfl
@[simp] theorem Dp.setBrush_edgeTx (d : Dp) (u : Nat) (f : Brush → Brush) : (d.setBrush u f).edgeTx = d.edgeTx := rfl
@[simp] theorem Dp.setBrush_edgeRx (d : Dp) (u : Nat) (f : Brush → Brush) : (d.setBrush u f).edgeRx = d.edgeRx := rfl

/-! `Dp.setMxa` -/

@[simp] theorem Dp.getMxa_setMxa (d : Dp) (u k : Nat) (f : Mxa → Mxa) :
    (d.setMxa u f).getMxa k = if k = u then f (d.getMxa u) else d.getMxa k := Tab.get_upd ..
@[simp] theorem Dp.setMxa_mem (d : Dp) (u : Nat) (f : Mxa → Mxa) : (d.setMxa u f).mem = d.mem := rfl
@[simp] theorem Dp.setMxa_log (d : Dp) (u : Nat) (f : Mxa → Mxa) : (d.setMxa u f).log = d.log := rfl
@[simp] theorem Dp.setMxa_irq (d : Dp) (u : Nat) (f : Mxa → Mxa) : (d.setMxa u f).irq = d.irq := rfl
@[simp] theorem Dp.setMxa_fr (d : Dp) (u : Nat) (f : Mxa → Mxa) : (d.setMxa u f).fr = d.fr := rfl
@[simp] theorem Dp.setMxa_units (d : Dp) (u : Nat) (f : Mxa → Mxa) : (d.setMxa u f).units = d.units := rfl
@[simp] theorem Dp.setMxa_brush (d : Dp) (u : Nat) (f : Mxa → Mxa) : (d.setMxa u f).brush = d.brush := rfl
@[simp] theorem Dp.setMxa_idx (d : Dp) (u : Nat) (f : Mxa → Mxa) : (d.setMxa u f).idx = d.idx := rfl
@[simp] theorem Dp.setMxa_dgu (d : Dp) (u : Nat) (f : Mxa → Mxa) : (d.setMxa u f).dgu = d.dgu := rfl
@[simp] theorem Dp.setMxa_upu (d : Dp) (u : Nat) (f : Mxa → Mxa) : (d.setMxa u f).upu = d.upu := rfl
@[simp] theorem Dp.setMxa_cle (d : Dp) (u : Nat) (f : Mxa → Mxa) : (d.setMxa u f).cle = d.cle := rfl
@[simp] theorem Dp.setMxa_part (d : Dp) (u : Nat) (f : Mxa → Mxa) : (d.setMxa u f).part = d.part := rfl
@[simp] theorem Dp.setMxa_snap (d : Dp) (u : Nat) (f : Mxa → Mxa) : (d.setMxa u f).snap = d.snap := rfl
@[simp] theorem Dp.setMxa_rlog (d : Dp) (u : Nat) (f : Mxa → Mxa) : (d.setMxa u f).rlog = d.rlog := rfl
@[simp] theorem Dp.setMxa_edgeTx (d : Dp) (u : Nat) (f : Mxa → Mxa) : (d.setMxa u f).edgeTx = d.edgeTx := rfl
@[simp] theorem Dp.setMxa_edgeRx (d : Dp) (u : Nat) (f : Mxa → Mxa) : (d.setMxa u f).edgeRx = d.edgeRx := rfl

/-! `Dp.setCle` -/

@[simp] theorem Dp.getCle_setCle (d : Dp) (u k : Nat) (f : Cle → Cle) :
    (d.setCle u f).getCle k = if k = u then f (d.getCle u) else d.getCle k := Tab.get_upd ..
@[simp] theorem Dp.setCle_mem (d : Dp) (u : Nat) (f : Cle → Cle) : (d.setCle u f).mem = d.mem := rfl
@[simp] theorem Dp.setCle_log (d : Dp) (u : Nat) (f : Cle → Cle) : (d.setCle u f).log = d.log := rfl
@[simp] theorem Dp.setCle_irq (d : Dp) (u : Nat) (f : Cle → Cle) : (d.setCle u f).irq = d.irq := rfl
@[simp] theorem Dp.setCle_fr (d : Dp) (u : Nat) (f : Cle → Cle) : (d.setCle u f).fr = d.fr := rfl
@[simp] theorem Dp.setCle_units (d : Dp) (u : Nat) (f : Cle → Cle) : (d.setCle u f).units = d.units := rfl
@[simp] theorem Dp.setCle_mxa (d : Dp) (u : Nat) (f : Cle → Cle) : (d.setCle u f).mxa = d.mxa := rfl
@[simp] theorem Dp.setCle_brush (d : Dp) (u : Nat) (f : Cle → Cle) : (d.setCle u f).brush = d.brush := rfl
@[simp] theorem Dp.setCle_idx (d : Dp) (u : Nat) (f : Cle → Cle) : (d.setCle u f).idx = d.idx := rfl
@[simp] theorem Dp.setCle_dgu (d : Dp) (u : Nat) (f : Cle → Cle) : (d.setCle u f).dgu = d.dgu := rfl
@[simp] theorem Dp.setCle_upu (d : Dp) (u : Nat) (f : Cle → Cle) : (d.setCle u f).upu = d.upu := rfl
@[simp] theorem Dp.setCle_part (d : Dp) (u : Nat) (f : Cle → Cle) : (d.setCle u f).part = d.part := rfl
@[simp] theorem Dp.setCle_snap (d : Dp) (u : Nat) (f : Cle → Cle) : (d.setCle u f).snap = d.snap := rfl
@[simp] theorem Dp.setCle_rlog (d : Dp) (u : Nat) (f : Cle → Cle) : (d.setCle u f).rlog = d.rlog := rfl
@[simp] theorem Dp.setCle_edgeTx (d : Dp) (u : Nat) (f : Cle → Cle) : (d.setCle u f).edgeTx = d.edgeTx := rfl
@[simp] theorem Dp.setCle_edgeRx (d : Dp) (u : Nat) (f : Cle → Cle) : (d.setCle u f).edgeRx = d.edgeRx := rfl

/-! `Dp.setDgSlot` -/

@[simp] theorem Dp.setDgSlot_mem (d : Dp) (c k : Nat) (x : DgSlot) : (d.setDgSlot c k x).mem = d.mem := rfl
@[simp] theorem Dp.setDgSlot_log (d : Dp) (c k : Nat) (x : DgSlot) : (d.setDgSlot c k x).log = d.log := rfl
@[simp] theorem Dp.setDgSlot_irq (d : Dp) (c k : Nat) (x : DgSlot) : (d.setDgSlot c k x).irq = d.irq := rfl
@[simp] theorem Dp.setDgSlot_fr (d : Dp) (c k : Nat) (x : DgSlot) : (d.setDgSlot c k x).fr = d.fr := rfl
@[simp] theorem Dp.setDgSlot_units (d : Dp) (c k : Nat) (x : DgSlot) : (d.setDgSlot c k x).units = d.units := rfl
@[simp] theorem Dp.setDgSlot_mxa (d : Dp) (c k : Nat) (x : DgSlot) : (d.setDgSlot c k x).mxa = d.mxa := rfl
@[simp] theorem Dp.setDgSlot_brush (d : Dp) (c k : Nat) (x : DgSlot) : (d.setDgSlot c k x).brush = d.brush := rfl
@[simp] theorem Dp.setDgSlot_idx (d : Dp) (c k : Nat) (x : DgSlot) : (d.setDgSlot c k x).idx = d.idx := rfl
@[simp] theorem Dp.setDgSlot_upu (d : Dp) (c k : Nat) (x : DgSlot) : (d.setDgSlot c k x).upu = d.upu := rfl
@[simp] theorem Dp.setDgSlot_cle (d : Dp) (c k : Nat) (x : DgSlot) : (d.setDgSlot c k x).cle = d.cle := rfl
@[simp] theorem Dp.setDgSlot_part (d : Dp) (c k : Nat) (x : DgSlot) : (d.setDgSlot c k x).part = d.part := rfl
@[simp] theorem Dp.setDgSlot_snap (d : Dp) (c k : Nat) (x : DgSlot) : (d.setDgSlot c k x).snap = d.snap := rfl
@[simp] theorem Dp.setDgSlot_rlog (d : Dp) (c k : Nat) (x : DgSlot) : (d.setDgSlot c k x).rlog = d.rlog := rfl
@[simp] theorem Dp.setDgSlot_edgeTx (d : Dp) (c k : Nat) (x : DgSlot) : (d.setDgSlot c k x).edgeTx = d.edgeTx := rfl
@[simp] theorem Dp.setDgSlot_edgeRx (d : Dp) (c k : Nat) (x : DgSlot) : (d.setDgSlot c k x).edgeRx = d.edgeRx := rfl

/-! `Dp.perf`, `taint` -/

@[simp] theorem Dp.perf_mem (d : Dp) (u off n : Nat) : (d.perf u off n).mem = d.mem := rfl
@[simp] theorem Dp.perf_log (d : Dp) (u off n : Nat) : (d.perf u off n).log = d.log := rfl
@[simp] theorem Dp.perf_irq (d : Dp) (u off n : Nat) : (d.perf u off n).irq = d.irq := rfl
@[simp] theorem Dp.perf_fr (d : Dp) (u off n : Nat) : (d.perf u off n).fr = d.fr := rfl
@[simp] theorem Dp.perf_mxa (d : Dp) (u off n : Nat) : (d.perf u off n).mxa = d.mxa := rfl
@[simp] theorem Dp.perf_brush (d : Dp) (u off n : Nat) : (d.perf u off n).brush = d.brush := rfl
@[simp] theorem Dp.perf_idx (d : Dp) (u off n : Nat) : (d.perf u off n).idx = d.idx := rfl
@[simp] theorem Dp.perf_dgu (d : Dp) (u off n : Nat) : (d.perf u off n).dgu = d.dgu := rfl
@[simp] theorem Dp.perf_upu (d : Dp) (u off n : Nat) : (d.perf u off n).upu = d.upu := rfl
@[simp] theorem Dp.perf_cle (d : Dp) (u off n : Nat) : (d.perf u off n).cle = d.cle := rfl
@[simp] theorem Dp.perf_part (d : Dp) (u off n : Nat) : (d.perf u off n).part = d.part := rfl
@[simp] theorem Dp.perf_snap (d : Dp) (u off n : Nat) : (d.perf u off n).snap = d.snap := rfl
@[simp] theorem Dp.perf_rlog (d : Dp) (u off n : Nat) : (d.perf u off n).rlog = d.rlog := rfl
@[simp] theorem Dp.perf_edgeTx (d : Dp) (u off n : Nat) : (d.perf u off n).edgeTx = d.edgeTx := rfl
@[simp] theorem Dp.perf_edgeRx (d : Dp) (u off n : Nat) : (d.perf u off n).edgeRx = d.edgeRx := rfl
@[simp] theorem taint_mem (d : Dp) : (taint d).mem = d.mem := rfl
@[simp] theorem taint_log (d : Dp) : (taint d).log = d.log := rfl
@[simp] theorem taint_irq (d : Dp) : (taint d).irq = d.irq := rfl
@[simp] theorem taint_units (d : Dp) : (taint d).units = d.units := rfl
@[simp] theorem taint_mxa (d : Dp) : (taint d).mxa = d.mxa := rfl
@[simp] theorem taint_brush (d : Dp) : (taint d).brush = d.brush := rfl
@[simp] theorem taint_idx (d : Dp) : (taint d).idx = d.idx := rfl
@[simp] theorem taint_dgu (d : Dp) : (taint d).dgu = d.dgu := rfl
@[simp] theorem taint_upu (d : Dp) : (taint d).upu = d.upu := rfl
@[simp] theorem taint_cle (d : Dp) : (taint d).cle = d.cle := rfl
@[simp] theorem taint_part (d : Dp) : (taint d).part = d.part := rfl
@[simp] theorem taint_snap (d : Dp) : (taint d).snap = d.snap := rfl
@[simp] theorem taint_rlog (d : Dp) : (taint d).rlog = d.rlog := rfl
@[simp] theorem taint_edgeTx (d : Dp) : (taint d).edgeTx = d.edgeTx := rfl
@[simp] theorem taint_edgeRx (d : Dp) : (taint d).edgeRx = d.edgeRx := rfl

end Sys2Proof.Machine
end

