-- ==== Sys2Proof/Tests/Slice0.lean ====
section
/-! SUPPORT. Tests: ill-formed commands, and for each statement with hypotheses a state and operands that meet them. -/

-- One declaration at a time: elaborating this many small theorems at once runs out of threads.
set_option Elab.async false

namespace Sys2Proof.Tests
open Sys2Proof Sys2Proof.Machine

/-! ### Helpers -/

/-- An image with one stroke and one stream, of unit `u`: 1,024 bytes of segment that begin with the word `w`, windows over the interleaved
view, the local views and the clusters, every bank claimed, and CG 0 of 2 ranks declared. -/
def imgW (u w : Nat) : Image where
  len := 2048
  data := packBytes [(0x44, 0xF), (0x46, 1), (0x48, 400), (0x52, 1), (0x54, 1), (0x56, 1), (0x68, 0x80), (0x6C, 0xC0), (0x70, 0xE0),
    (0x7C, 0x100), (0xE4, 2), (0x100, u), (0x102, 3), (0x104, 0x140), (0x108, 0x180), (0x10C, 0x200), (0x144, 1024),
    (0x18A, 2 ^ 32 - 1), (0x190, 0xC000000000), (0x19A, 2 ^ 32 - 1), (0x1A0, 0x20000000000), (0x1AA, 2 ^ 32 - 1), (0x200, 2 ^ 640 - 1),
    (0x110, 0x400), (0x114, 1024), (0x400, w)]

/-- The same, with a segment of NOPs. -/
def img (u : Nat) : Image := imgW u 0

/-- A package whose rails are up and whose firmware runs. -/
def up : State :=
  let s := State.reset
  { s with
    bu := { s.bu with
      stage := .ready
      booted := true
      mainOn := true
      perst := false }
    hp := { s.hp with
      speed := 64
      width := 8
      cacheEn := true
      memEn := true }
    dp := { s.dp with
      mem := { s.dp.mem with
        localGib := 16
        ilv := 767 }
      log := { s.dp.log with ready := true }
      irq := { s.dp.irq with enable := true } }
    clk := { s.clk with
      running := true
      tb := 1000000
      stroke := 5 } }

/-- A launch that runs. -/
def go : Launch where
  slot := 0
  q := 0
  seq := 0
  step0 := 7
  steps := 4
  start := 0
  began := true
  entry := 0
  stops := []
  zeroing := false

/-- The same package, running a launch of the image of unit `u` with the word `w` first. -/
def runW (u w : Nat) : State :=
  { up with scr := { up.scr with
      slots := [(0, some (imgW u w))]
      parts := [(0, { dies := 0xF, qmask := 0xFFFF, launch := some go })] } }

/-- The same, with NOPs only. -/
def run (u : Nat) : State := runW u 0

/-- Placed in pod 0 as package 0: direction 0 leads to package 1, direction 1 to package 2 of pod 1; the ports of both are live; CG 0 has
ranks 0 and 1 on packages 0 and 1. -/
def placed (s : State) : State :=
  { s with torus := { s.torus with
      placed := true
      neigh := [(0, 0x80000001#32), (1, 0x80001002#32)]
      ports := [(0, { state := .live }), (1, { state := .live })]
      embCfg := 0x00#7
      cgs := [(0, BitVec.ofNat 256 (packBytes [(0, 1), (1, 0x24), (4, 2), (8, 0), (16, 2), (17, 1), (18, 1), (19, 1)]))]
      cgOpen := [0] } }

/-- A packet of type `typ` with a tag, ARGS and lines, from package 1. -/
def pkt (typ addr : Nat) (tag : BitVec 64) (args : BitVec 256) (lines : List (BitVec 512)) : Packet :=
  ⟨mkHdr typ lines.length (((typeRule typ).map (·.1)).getD 0) 0 1 0 0 0 1 7 addr tag args, lines⟩

/-- The package with packets delivered. -/
def inbox (l : List Packet) (s : State) : State := { s with torus := { s.torus with inbox := l } }

/-- A descriptor from (byte, value) fields. -/
def desc (l : List (Nat × Nat)) : BitVec 512 := BitVec.ofNat 512 (packBytes l)

/-- The package with one descriptor fetched on queue `q`, as its first. -/
def enq (q : Nat) (d : BitVec 512) (s : State) : State :=
  s.setQ q (fun x => { x with
    en := true
    tail := 1
    fetch := 1
    fetched := [⟨0, d, false⟩] })

/-- `State.starts`, as a computation. -/
def startsB (s : State) (q t : Nat) (d : BitVec 512) : Bool :=
  (match (s.getQ q).fetched.find? (fun y => y.seq == 0) with
   | none => false
   | some y => decide (y.d = d) && (s.getQ q).mayStart y) && decide (dType d = t) && s.litFor q &&
    (s.typeStatus q d).isNone && ((s.ownerOf q).isNone || decide (t = 0x20) || decide (t = 0x21))

theorem starts_of {s : State} {q t : Nat} {d : BitVec 512} (h : startsB s q t d = true) : s.starts q 0 t d := by
  unfold startsB at h
  split at h
  · simp at h
  · rename_i y hy
    simp only [Bool.and_eq_true, decide_eq_true_eq, Bool.or_eq_true, Option.isNone_iff_eq_none] at h
    obtain ⟨⟨⟨⟨⟨h1, h2⟩, h3⟩, h4⟩, h5⟩, h6⟩ := h
    refine ⟨⟨y, hy, h1, h2⟩, h3, h4, h5, ?_⟩
    rcases h6 with (h | h) | h
    · exact .inl h
    · exact .inr (.inl h)
    · exact .inr (.inr h)

theorem clean_of {s : State} (h : s.dp.mem.marks = []) : s.clean := by
  intro l
  rw [h]
  rfl

theorem claimsAll_of {s : State} {u : Nat}
    (h : (s.env.ofUnit u).map (fun p => p.img.claims u (p.img.phaseOf p.entry)) = some (2 ^ 640 - 1)) : s.claimsAll u := by
  have h0 : ∀ b < 32, ((2 ^ 640 - 1) >>> (16 * b + 0)) % 2 ^ 16 != 0 := by decide +kernel
  have h1 : ∀ b < 8, ((2 ^ 640 - 1) >>> (16 * b + 512)) % 2 ^ 16 != 0 := by decide +kernel
  intro acc off
  rw [Option.map_eq_some_iff] at h
  obtain ⟨p, hp, hc⟩ := h
  unfold Env.claims Image.claimed
  rw [hp]
  simp only [hc]
  cases acc
  · exact h0 _ (Nat.mod_lt _ (by decide))
  · exact h1 _ (Nat.mod_lt _ (by decide))

theorem opened_of {x : Rows} {s : State} {u c : Nat}
    (h : ∀ r < x.m, ∀ o < x.n, s.env.mayWrite u (clAddr c x.acc ((x.base + r * x.pitch + o) / 64 * 64)) = true) : x.opened s u c :=
  fun r o hr ho => h r hr o ho

/-! ### Ill-formed commands -/

/-- A command that breaks each check of WellFormed, in the checks' order. -/
def illFormed : List Instr :=
  [.readClearRegister ⟨2, false⟩, .readClearRegister ⟨4, true⟩, .registerWrite 0x441 0, .unitDone 0x2002 0, .strokeCfg 0 (List.replicate 4097 0), .patrolRead 0 32 .good,
   .doorbellSnoop 0 [⟨60, 8, 0, false⟩], .doorbellPoll [⟨0, 1, 256, false⟩], .nopDescriptor 0 (2 ^ 64), .creditArrival 0x2000 0 1 0,
   .putReceive ⟨BitVec.ofNat 512 0x201, [0]⟩ 0, .stalledUnitTimeout 0x28, .stagingBlockResident 0 (2 ^ 16),
   .flitReceive 0 true (2 ^ 16) ⟨0, List.replicate 32 0⟩, .flitReceive 0 true 0 ⟨0, []⟩, .powerEstimate ⟨[], [], [], [], 0⟩,
   .coefficientTrim (2 ^ 48), .droopResponse 0 (2 ^ 12), .thermalSample [] 0, .mctpControl (.negotiateUnit (2 ^ 16)), .getCapabilities 256,
   .getCertificate 16 0 0, .challenge 16, .getMeasurements 256 false, .finish (2 ^ 32), .chunkGet (2 ^ 16), .vinExcursion 0 0 (2 ^ 32),
   .powerOnReset (.message 0 (List.replicate 4097 0)) 0, .sensorUpdate (2 ^ 16) 0 0, .ideKmRequest 1 (.program 256 0),
   .pldmFirmwareUpdate (.data 0 []), .pldmFirmwareUpdate (.begin_ (2 ^ 32)), .droopEnd 0 (2 ^ 32)]

theorem test_illFormed_refused : illFormed.all (fun i => !i.wellFormed) = true := by decide +kernel

theorem test_wellFormed_taken : [Instr.readClearRegister ⟨4, false⟩, .readClearRegister ⟨8, true⟩, .unitDone 0x2000 0, .unitDone 0x2102 0, .unitDone 0x1F 0,
    .putReceive ⟨BitVec.ofNat 512 0x101, [0]⟩ 0, .flitReceive 0 true 3 ⟨0, List.replicate 32 0⟩, .nopDescriptor 80 (2 ^ 64 - 1),
    .doorbellPoll [⟨0, 64, 2 ^ 512 - 1, false⟩]].all Instr.wellFormed = true := by decide +kernel

/-! ### Witnesses: time, strokes and placement -/

theorem witness_StepRunsFrontCommand : State.reset.pending = [] ∧ State.reset.clk.running = false ∧ up.pending = [] ∧ up.clk.running = true := by
  decide

theorem witness_TimeBaseReadLatchesUpperHalf :
    (∃ t, exec (.tbLoRead false) up = .next t ∧ ∃ t', exec (.readClearRegister ⟨0x1004, false⟩) t = .next t' ∧ t'.out.rdata = 0) := by
  exact ⟨_, rfl, _, rfl, by decide +kernel⟩

theorem witness_TimeBaseStartsHoldsAndIsCompared :
    State.reset.bu.dark = false ∧ ({ up.clk with lock := .holdover } : Clk).lock = .holdover ∧
      (placed up).torus.interPod ((1 : Fin 24).val % 6) = true ∧ (placed up).torus.carries (1 : Fin 24).val = true := by decide +kernel

theorem witness_TimeMarksNeverStepALaunchedPackage :
    (run 0).launched = true ∧ ((placed up).torus.port (0 : Fin 24).val).state = .live ∧
      ((placed up).torus.port (0 : Fin 24).val).unacked.length < 255 := by decide +kernel

/-- What the launch of `run u` gives its units. -/
def penv (u : Nat) : PEnv := ⟨0, 15, img u, 0, true, false, none⟩

/-- The same, the unit at index `i`. -/
def runAt (u i : Nat) : State := { run u with dp := (run u).dp.setUnit u (fun x => { x with idx := i }) }

theorem witness_DoneMarkersAreCollected :
    ((runAt 0x4000 64).env.ofUnit (0x4000#16).toNat = some (penv 0x4000) ∧ 0x4000 ∈ (runAt 0x4000 64).workersOf (penv 0x4000) ∧
      ((runAt 0x4000 64).dp.getUnit 0x4000).done = false ∧ (runAt 0x4000 64).unitFinished (penv 0x4000) 0x4000 = true ∧
      (runAt 0x4000 64).dp.fr.hold = false) ∧
    ((placed up).torus.nbValid ((0 : Fin 24).val % 6) = true ∧ (placed up).torus.interPod ((0 : Fin 24).val % 6) = false ∧
      doneStroke (mkDone 5 1 0 1 0x28 9) = (placed up).clk.stroke.toNat % 2 ^ 40 ∧ (placed up).dp.fr.hold = false) ∧
    (doneT (mkDone 5 1 0 1 0x28 9) = doneT (mkDone 5 2 0 1 0x20 9) ∧ doneT (mkDone 5 1 0 1 0x28 10) > doneT (mkDone 5 2 0 1 0x20 9) ∧
      donePkg (mkDone 5 1 0 1 0x28 9) = donePkg (mkDone 5 2 0 1 0x20 9)) := by decide +kernel

/-- A package that has started stroke 5, with the go marker `m` scheduled. -/
def joined (m : Option (BitVec 128)) : State :=
  { placed up with clk := { (placed up).clk with
      joined := true
      go := m } }

theorem witness_GoMarkersScheduleTheStroke :
    ((joined none).clk.role.isRoot = false ∧ (joined none).torus.placed = true ∧ (joined none).torus.interPod ((0 : Fin 24).val % 6) = false) ∧
    (((joined none).clk.stroke.toNat + 2 ^ 40 - goStroke (mkGo 9 5 0 400)) % 2 ^ 40 < 2 ^ 39) ∧
    (¬ (((joined none).clk.stroke.toNat + 2 ^ 40 - goStroke (mkGo 9 6 49 400)) % 2 ^ 40 < 2 ^ 39) ∧ goK (mkGo 9 6 49 400) > 48) ∧
    (goK (mkGo 9 6 48 25) ≤ 48 ∧ 25 ≤ goPeriod (mkGo 9 6 48 25) ∧ goPeriod (mkGo 9 6 48 4000) ≤ 4000 ∧
      goStroke (mkGo 9 6 48 25) = ((joined none).clk.stroke.toNat + 1) % 2 ^ 40 ∧ (joined none).clk.go = none) := by decide +kernel

theorem witness_StrokeStartsAtItsGoMarker :
    (joined (some (mkGo 1000000 6 0 400))).clk.go = some (mkGo 1000000 6 0 400) ∧
      (joined (some (mkGo 1000000 6 0 400))).dp.fr.fenced = false ∧ (joined (some (mkGo 1000000 6 0 400))).pw.tripped = false ∧
      (joined (some (mkGo 1000000 6 0 400))).dp.fr.voidHolds = false ∧ (joined (some (mkGo 1000000 6 0 400))).bu.dark = false ∧
      (joined (some (mkGo 1000000 6 0 400))).pw.cold = false ∧
      (joined none).clk.go = none := by decide +kernel

/-- A payload from (byte, value) fields. -/
def pay (n : Nat) (l : List (Nat × Nat)) : List Byte := natBytes n (packBytes l)

theorem witness_StrokeCfgIsRefusedWhileLaunched :
    (run 0).answers = true ∧ (run 0).launched = true ∧ up.answers = true ∧ up.launched = false ∧ 14 ≤ (pay 14 [(8, 25)]).length ∧
      plAt (pay 14 [(8, 25)]) 8 2 = 25 ∧ plAt (pay 14 [(8, 4000)]) 8 2 = 4000 := by decide +kernel

/-- A PLACE message: package 5 of the member at two hops, one CG of 2 ranks. -/
def placePl : List Byte :=
  pay 80 [(0, 5), (4, 0x3404), (8, 0x80000001), (32, 0), (33, 0), (34, 2), (36, 720), (38, 420), (40, 1),
    (48, 1), (49, 0x24), (52, 2), (64, 2), (65, 1), (66, 1), (67, 1)]

theorem witness_PlacementTakesEffectWhole :
    up.answers = true ∧ 48 ≤ placePl.length ∧ up.edge.ends.any (fun x => x.2.state == .training) = false ∧ up.launched = false ∧
      plAt placePl 40 1 ≤ 64 ∧ plAt placePl 41 1 ≤ 16 ∧ 48 + 32 * plAt placePl 40 1 + 8 * plAt placePl 41 1 ≤ placePl.length ∧
      treeOk (plAt placePl 32 1) (plAt placePl 33 1) (plAt placePl 34 1) = true ∧
      (placeCgs placePl (plAt placePl 40 1)).all (fun e => cgValid e && cgOk e) = true ∧ (run 0).answers = true ∧ (run 0).launched = true := by decide +kernel

/-- A package with a commit of both banks at stroke `n`. -/
def committed (n : BitVec 64) : State := { up with torus := { up.torus with commit := some (n, true, false) } }

theorem witness_RoutingTreeAndPowerSettingsAreTaken :
    up.answers = true ∧
    (plAt (pay 6 [(0, 0), (2, 4094)]) 0 2 = 0 ∧ plAt (pay 6 [(0, 0), (2, 4094)]) 2 2 + ((pay 6 [(0, 0), (2, 4094)]).length - 4) = 4096 ∧
      plAt (pay 5 [(0, 1), (2, 63)]) 0 2 = 1 ∧ plAt (pay 5 [(0, 1), (2, 63)]) 2 2 + ((pay 5 [(0, 1), (2, 63)]).length - 4) = 64) ∧
    (16 ≤ (pay 16 [(0, 15)]).length ∧ plAt (pay 16 [(0, 15)]) 0 8 < 16) ∧
    (9 ≤ (pay 9 [(0, 5)]).length ∧ plAt (pay 9 [(0, 5)]) 0 8 ≤ up.clk.stroke.toNat ∧ up.clk.stroke.toNat < plAt (pay 9 [(0, 6), (8, 3)]) 0 8) ∧
    ((committed 5).torus.commit = some (5, true, false) ∧ (5 : BitVec 64).toNat ≤ (committed 5).clk.stroke.toNat ∧
      (committed 7).clk.stroke.toNat + 1 < (7 : BitVec 64).toNat) ∧
    (3 ≤ (pay 3 [(0, 1), (1, 7)]).length ∧ treeOk (plAt (pay 3 [(0, 1), (1, 7)]) 0 1) (plAt (pay 3 [(0, 1), (1, 7)]) 1 1)
      (plAt (pay 3 [(0, 1), (1, 7)]) 2 1) = true) ∧
    (10 ≤ (pay 10 [(0, 2600)]).length ∧ plAt (pay 10 [(0, 2600)]) 0 2 ≤ 2600 ∧ 2600 < plAt (pay 10 [(0, 2601)]) 0 2) := by decide +kernel

/-! ### Witnesses: the torus -/

/-- A flit of zeros: SEQ 0, idle slots, CRC 0. -/
def empty : Flit := ⟨0, List.replicate 32 0⟩

theorem crcBytes_zero : ∀ n, crcBytes n 0 0 = 0
  | 0 => rfl
  | n + 1 => by
    have h : crcByte 0 (0 % 256) = 0 := by decide
    simpa [crcBytes, h] using crcBytes_zero n

theorem crc_of_zeros (n : Nat) : (List.replicate n (0 : BitVec 512)).foldl (fun c l => crcBytes 64 l.toNat c) 0 = 0 := by
  induction n with
  | zero => rfl
  | succ n ih =>
    rw [List.replicate_succ, List.foldl_cons, show (0 : BitVec 512).toNat = 0 by decide +kernel, crcBytes_zero]
    exact ih

theorem test_flit_crc_of_zeros : empty.crc = 0 := by
  unfold Flit.crc
  rw [show empty.ctl.toNat % 2 ^ 448 = 0 by decide +kernel, crcBytes_zero]
  exact crc_of_zeros 32

/-- Two flits of port 0 are not acknowledged. -/
def twoFlits : State := (placed up).setPort 0 (fun x => { x with
  txSeq := 2
  unacked := [empty, empty] })

/-- R55: a flit whose first slot is a go marker with a stretch of 49. -/
def badGoFlit : Flit := ⟨BitVec.ofNat 512 (48 * 2 ^ 128), mkSymbol 3 [(16, (mkGo 9 6 49 400).toNat)] :: List.replicate 31 0⟩

theorem witness_FlitsAreTakenInOrderOrRefused :
    ((placed up).goCorrupt (0 : Fin 24).val empty = false ∧ (joined none).goCorrupt 0 badGoFlit = true) ∧
    ((placed up).torus.carries (0 : Fin 24).val = true ∧ bits empty.ctl 448 64 = 0 ∧ empty.slots.length = 32 ∧
      empty.seq = ((placed up).torus.port 0).rxSeq ∧ empty.seq ≠ ((twoFlits.setPort 0 (fun x => { x with rxSeq := 1 })).torus.port 0).rxSeq) ∧
    (1 ≤ ((0 : BitVec 12) - ((twoFlits.torus.port 0).txSeq - BitVec.ofNat 12 (twoFlits.torus.port 0).unacked.length) + 1).toNat ∧
      ((1 : BitVec 12) - ((twoFlits.torus.port 0).txSeq - BitVec.ofNat 12 (twoFlits.torus.port 0).unacked.length) + 1).toNat =
        (twoFlits.torus.port 0).unacked.length) := by decide +kernel

/-- Port 0 holds a complete packet. -/
def received (k : Packet) : State := (placed up).setPort 0 (fun x => { x with inbox := [k] })

theorem witness_PacketsAreDroppedDiscardedDeliveredOrForwarded :
    ((received (pkt 9 0 0 0 [])).torus.port (0 : Fin 24).val).inbox = [pkt 9 0 0 0 []] ∧ (pkt 9 0 0 0 []).dropReason = some 0 ∧
    (pkt 1 0 0 0 []).dropReason = some 2 ∧ (pkt 2 0 0 0 []).dropReason = none ∧
    ((received (pkt 2 0 0 0 [])).torus.hseqSeen 0 (pkt 2 0 0 0 [])).1 = false ∧
    ((((received (pkt 2 0 0 0 [])).torus.hseqSeen 0 (pkt 2 0 0 0 [])).2).hseqSeen 0 (pkt 2 0 0 0 [])).1 = true ∧
    (∃ k : Packet, k = ⟨mkHdr 2 0 0 0 1 0 0 0 1 7 0 0 0, []⟩ ∧ k.dropReason = none ∧ k.dpod = (placed up).torus.pod ∧
      k.dpkg = (placed up).torus.pkg) ∧
    (∃ k : Packet, k = ⟨mkHdr 2 0 0 0 1 1 0 0 1 7 0 0 0, []⟩ ∧ k.dropReason = none ∧ k.dpkg ≠ (placed up).torus.pkg ∧
      (placed up).torus.hop k.dpod k.dpkg ≠ .local_) := by
  refine ⟨?_, ?_, ?_, ?_, ?_, ?_, ⟨_, rfl, ?_⟩, _, rfl, ?_⟩ <;> decide +kernel

/-- An ACK packet, and a package that awaits it for the FENCE of unit 0. -/
def ackPkt : Packet := pkt 2 0 5 0 []
def waits : State :=
  { inbox [ackPkt] (run 0) with torus := { (inbox [ackPkt] (run 0)).torus with
      awaits := [⟨5, 0, 0⟩]
      later := [⟨0, [5], .release⟩] } }

theorem witness_AcksAndCreditsArrive :
    (ackPkt.typ = 2 ∧ ackPkt ∈ waits.torus.inbox ∧ (waits.torus.awaits.any (fun a => a.rtag == ackPkt.rtag)) = true ∧
      waits.torus.later = [⟨0, [5], .release⟩] ∧ ackPkt.rtag = 5) ∧
    ((pkt 3 0 (3 + 512 * 4) 0 []).typ = 3 ∧ pkt 3 0 (3 + 512 * 4) 0 [] ∈ (inbox [pkt 3 0 (3 + 512 * 4) 0 []] (run 0)).torus.inbox ∧
      bits (pkt 3 0 (3 + 512 * 4) 0 []).tag 0 19 = 3 + 512 * 4 ∧ ((run 0).env.ofDie ((3 + 512 * 4) % 512 / 128)).isSome = true ∧
      (3 + 512 * 4) / 512 % 8 ≤ 4 ∧ ((run 0).dp.getUnit (creditUnit (3 + 512 * 4))).blocked = none) := by decide +kernel

/-- Port 0 in some state. -/
def portIn (st : PortState) : State := (placed up).setPort 0 (fun x => { x with state := st })

/-- Two ports of direction 0 carry traffic. -/
def sibling : State := (placed up).setPort 6 (fun x => { x with state := .live })

theorem witness_PortsFailRetrainAndSleep :
    ((placed up).torus.carries (0 : Fin 24).val = true ∧ ((placed up).torus.port (0 : Fin 24).val).unacked.length < 255) ∧
    ((0 : BitVec 8).toNat = (placed up).torus.nbPod 0 ∧ (1 : BitVec 12).toNat = (placed up).torus.nbPkg 0 ∧
      (1 : BitVec 8).toNat = 6 * (0 / 6) + ((0 % 6) ^^^ 1)) ∧
    ((portIn .training).torus.nbValid 0 = true ∧ (portIn .training).portTested 0 = false ∧ ((portIn .training).torus.port 0).state = .training ∧
      (2 : BitVec 12).toNat ≠ (portIn .training).torus.nbPkg 0 ∧ ((portIn .training).torus.port 0).out = [] ∧
      (portIn .training).torus.waiting = []) ∧
    (((placed up).torus.port 0).coldSeen = false ∧
      (((placed up).setPort 0 (fun x => { x with coldSeen := true })).torus.port 0).coldSeen = true) ∧
    (((portIn .failed).torus.port 0).state = .failed ∧ ((portIn .failed).torus.port 0).stuck = false ∧ (portIn .failed).portTested 0 = false ∧
      ∃ q ∈ (sibling.torus.carryOf 0), q ≠ 0) ∧
    ((portIn .lock).torus.port 0).state = .lock ∧ (portIn .lock).torus.carries 0 = true := by decide +kernel

/-! ### Witnesses: registers and host memory -/

theorem witness_RegisterReadsAnswerAndClear : (0x44C : BitVec 16) ∈ rcOffsets ∧ (0x13DC : BitVec 16) ∈ rcOffsets ∧ (0x0 : BitVec 16) ∈ plainOffsets ∧
    (0x2010 : BitVec 16) ∈ plainOffsets ∧ (0x490 : BitVec 16) ∈ pairOffsets ∧ (0x1220 : BitVec 16) ∈ pairOffsets := by decide

theorem witness_RegisterWritesFollowTheirAccessType : (0x0 : BitVec 16) ∈ roOffsets ∧ (0x8000 : BitVec 16) ∈ roOffsets ∧ up.launched = false ∧
    (run 0).launched = true := by decide +kernel

/-- The package with a host window of 1 GiB, and an error of line 0. -/
def windowed (e : Ecc) : State :=
  up.onMem (fun m => { m with
    hdmSize := 1
    marks := m.marks.put .none 0 e })

/-- A committed window of 768 GiB, of which the layout serves less; and die 1 lost behind an open window. -/
def overSize : State := up.onMem (fun m => { m with
  hdmSize := 768
  ilv := 1 })
def lostDie : State := { windowed .none with edge := { up.edge with lost := 2 } }

theorem witness_HostAndPatrolReadsAndTheDecoder :
    (up.inHostWindow (0 : BitVec 48).toNat = false ∧ (windowed .none).inHostWindow (2 ^ 30 : BitVec 48).toNat = false) ∧
    (overSize.inHostWindow (767 * 2 ^ 30 : BitVec 48).toNat = true ∧ overSize.hostWindow (767 * 2 ^ 30 : BitVec 48).toNat = none) ∧
    ((windowed .none).hostHeld 0 1 = false ∧ lostDie.hostWindow (0x3000 : BitVec 48).toNat = some (.iview 3 0) ∧ lostDie.hostHeld (0x3000 / 64 * 64) 1 = true ∧
      lostDie.edge.lost.getLsbD ((3 : Fin 12).val / 3) = true ∧ up.pw.cold = false ∧ up.edge.lost.getLsbD ((0 : Fin 12).val / 3) = false) ∧
    (∀ e ∈ [Ecc.none, .ce, .ue], (windowed e).hostWindow (0 : BitVec 48).toNat = some (.iview 0 0) ∧
      (windowed e).dp.mem.marks.get .none ((windowed e).dp.mem.key (.iview 0 0) / 64) = e) ∧
    ((0 : BitVec 64).toNat % 2 ^ 30 = 0 ∧ (2 ^ 30 : BitVec 64).toNat % 2 ^ 30 = 0 ∧ up.launched = false ∧ (1 : BitVec 64).toNat % 2 ^ 30 ≠ 0 ∧
      (run 0).launched = true) := by decide +kernel

theorem witness_HostWritesStoreTheirBytes :
    up.inHostWindow (0 : BitVec 48).toNat = false ∧ overSize.inHostWindow (767 * 2 ^ 30 : BitVec 48).toNat = true ∧ overSize.hostWindow (767 * 2 ^ 30 : BitVec 48).toNat = none ∧
      lostDie.hostWindow (0x3000 : BitVec 48).toNat = some (.iview 3 0) ∧ lostDie.hostHeld 0x3000 1 = true ∧ (windowed .none).hostHeld 0 1 = false ∧ (windowed .none).hostWindow (63 : BitVec 48).toNat = some (.iview 0 0) ∧
      (penv 0 ∈ (run 0).env.parts) ∧ (penv 0).tracks (run 0).dp.mem 0 (.iview 0 0) = true ∧
      (penv 0).tracks (run 0).dp.mem 0x20084000000 (.rbuf 0 0) = true := by decide +kernel

/-- A launch on a package whose accumulation area is the first 64 MiB of each local view. -/
def accRun (u : Nat) : State := (run u).onMem (fun m => { m with areaAcc := 1 })

theorem witness_AddWritesAccumulate :
    unitKind (0#16).toNat ≠ 3 ∧ unitKind (0x18#16).toNat = 3 ∧ (accRun 0x18).dp.fr.jobStop = none ∧
    (accRun 0x18).dp.canRun (accRun 0x18).env (0x18#16).toNat = true ∧
    (∀ c < 2, (accRun 0x18).dp.mem.at48 (0xC000000000 / 64 * 64 + 64 * c) = some (.local_ 0 (64 * c)) ∧
      (Loc.local_ 0 (64 * c)).inDies ((accRun 0x18).env.diesOf 0x18) = true ∧ (accRun 0x18).dp.mem.inAcc (.local_ 0 (64 * c)) = true ∧
      (accRun 0x18).env.mayWrite 0x18 (0xC000000000 / 64 * 64 + 64 * c) = true ∧
      (accRun 0x18).dp.mem.key (.local_ 0 (64 * c)) = 767 * 2 ^ 26 + 64 * c ∧
      (accRun 0x18).dp.mem.marks.get .none ((767 * 2 ^ 26 + 64 * c) / 64) = .none) := by decide +kernel

/-! ### Witnesses: queues and descriptors -/

/-- Host memory with a number in the 8 bytes at an address. -/
def hostHas (a v : Nat) (s : State) : State := s.onMem (fun m => { m with host := writeBytes m.host a 8 v })

theorem witness_DoorbellsMoveTailAndHead :
    let s := enq 0 0 up
    (s.getQ (0 : Fin 81).val).en = true ∧ s.hp.linkUp = true ∧
    (∀ tail ∈ [17, 18], ∃ l, (s.dp.mem.hostPuts [⟨0, 8, tail, false⟩]).hostLine (s.hp.dbBase.toNat + 64 * 0) = some l ∧
      (l.extractLsb' 0 32).toNat = tail) ∧
    (17 - BitVec.ofNat 32 (s.getQ 0).fetch).toNat = 2 ^ (s.getQ 0).log2.toNat ∧ ((17 : BitVec 32) - (s.getQ 0).tail).toNat < 2 ^ 31 ∧
    (18 - BitVec.ofNat 32 (s.getQ 0).fetch).toNat > 2 ^ (s.getQ 0).log2.toNat ∧
    s.partOfQ 0 = some 0 ∧ 0 < ({ s with pw := { s.pw with idle := [(0, 1)] } } : State).idleOf 0 ∧
    (s.dp.mem.hostPuts [⟨0, 64, 0, true⟩]).hostLine (s.hp.dbBase.toNat + 64 * 0) = none ∧ (up.getQ 80).en = false := by
  refine ⟨by decide +kernel, by decide +kernel, ?_, by decide +kernel⟩
  intro tail h
  refine ⟨(enq 0 0 up |>.dp.mem.hostPuts [⟨0, 8, tail, false⟩]).hostLine (enq 0 0 up).hp.dbBase.toNat |>.getD 0, ?_⟩
  revert h
  simp only [List.mem_cons, List.not_mem_nil, or_false]
  rintro (rfl | rfl) <;> decide +kernel

/-- Queue 0 has room for a descriptor that the host has placed at its ring's first slot. -/
def ring (d : Nat) (ctlOff : Bool) : State :=
  (hostHas 0x1000 d up).setQ 0 (fun x => { x with
    en := true
    sqBase := 0x1000
    tail := 1
    ctlOff := ctlOff })

theorem witness_DescriptorsAreFetchedAndRecorded :
    (((enq 0 (desc [(0, 0x00), (2, 9)]) up).getQ 0).fetched.find? (fun y => y.seq == 0) = some ⟨0, desc [(0, 0x00), (2, 9)], false⟩) ∧
    (∀ d ∈ [0x00, 0x20], ((ring d false).getQ 0).en = true ∧ ((ring d false).getQ 0).stopped = false ∧ (ring d false).hp.linkUp = true ∧
      ((ring d false).getQ 0).comps = [] ∧ ((ring d false).getQ 0).fetched = [] ∧
      BitVec.ofNat 32 ((ring d false).getQ 0).fetch ≠ ((ring d false).getQ 0).tail ∧
      (ring d false).dp.mem.hostLine (((ring d false).getQ 0).sqBase.toNat + 64 * (((ring d false).getQ 0).fetch % 2 ^ ((ring d false).getQ 0).log2.toNat)) =
        some (BitVec.ofNat 512 d) ∧ ((ring d false).getQ 0).ctlOff = false) ∧
    (ring 0 false).typeStatus 0 (BitVec.ofNat 512 0x00) = none ∧ (ring 0 false).typeStatus 0 (BitVec.ofNat 512 0x20) = some (stWrongQ, 0) ∧
    (((ring 0 false).onMem (fun m => { m with poison := [0x1000 / 64] })).dp.mem.hostLine 0x1000 = none) ∧
    BitVec.ofNat 32 ((up.setQ 0 (fun x => { x with en := true })).getQ 0).fetch = ((up.setQ 0 (fun x => { x with en := true })).getQ 0).tail := by
  decide +kernel

/-- The package with the host link down. -/
def unlinked : State := { up with hp := { up.hp with
  speed := 0
  width := 0 } }

theorem witness_QueueDescriptorsComplete :
    ((enq 80 (desc []) up).starts 80 0 0x00 (desc []) ∧ headerOk (desc []) = true ∧ bits (desc []) 64 448 = 0) ∧
    ((enq 0 (desc [(8, 1)]) up).starts 0 0 0x00 (desc [(8, 1)]) ∧ headerOk (desc [(8, 1)]) = true ∧ bits (desc [(8, 1)]) 64 448 ≠ 0) ∧
    (∀ w ∈ [80, 127], (enq 0 (desc [(0, 1), (8, w), (16, 1)]) up).starts 0 0 0x01 (desc [(0, 1), (8, w), (16, 1)]) ∧
      headerOk (desc [(0, 1), (8, w), (16, 1)]) = true ∧ bits (desc [(0, 1), (8, w), (16, 1)]) 64 7 = w ∧
      bits (desc [(0, 1), (8, w), (16, 1)]) 71 57 = 0 ∧ bits (desc [(0, 1), (8, w), (16, 1)]) 192 320 = 0 ∧
      ((enq 0 (desc [(0, 1), (8, w), (16, 1)]) up).getQ 80).doneCnt < bits (desc [(0, 1), (8, w), (16, 1)]) 128 64) ∧
    ((enq 0 (desc [(0, 3), (8, 8), (16, 5)]) up).starts 0 0 0x03 (desc [(0, 3), (8, 8), (16, 5)]) ∧
      headerOk (desc [(0, 3), (8, 8), (16, 5)]) = true ∧ bits (desc [(0, 3), (8, 8), (16, 5)]) 64 3 = 0 ∧
      bits (desc [(0, 3), (8, 8), (16, 5)]) 192 320 = 0 ∧ (enq 0 (desc [(0, 3), (8, 8), (16, 5)]) up).hp.linkUp = true ∧
      (enq 0 (desc [(0, 3), (8, 8), (16, 5)]) unlinked).hp.linkUp = false) ∧
    (enq 0 (desc [(0, 3), (8, 8), (16, 5)]) unlinked).starts 0 0 0x03 (desc [(0, 3), (8, 8), (16, 5)]) ∧
    ((enq 80 (desc [(0, 0x33), (12, 40000)]) up).starts 80 0 0x33 (desc [(0, 0x33), (12, 40000)]) ∧
      headerOk (desc [(0, 0x33), (12, 40000)]) = true ∧ bits (desc [(0, 0x33), (12, 40000)]) 66 30 = 0 ∧
      bits (desc [(0, 0x33), (12, 40000)]) 128 384 = 0) := by
  refine ⟨⟨starts_of (by decide +kernel), by decide +kernel⟩, ⟨starts_of (by decide +kernel), by decide +kernel⟩, ?_,
    ⟨starts_of (by decide +kernel), by decide +kernel⟩, starts_of (by decide +kernel), ⟨starts_of (by decide +kernel), by decide +kernel⟩⟩
  intro w h
  simp only [List.mem_cons, List.not_mem_nil, or_false] at h
  rcases h with rfl | rfl <;> exact ⟨starts_of (by decide +kernel), by decide +kernel⟩

theorem rangeKeys_of {m : Mem} {a n : Nat} {k : Nat → Nat} (loc : Nat → Loc)
    (h : (∀ i < n, m.resolve (a + 64 * i) = some (loc i) ∧ m.key (loc i) = k i ∧ m.marks.get .none (k i / 64) = .none) ∧
      ∀ i < n, ∀ j < n, i ≠ j → k i + 64 ≤ k j ∨ k j + 64 ≤ k i) : rangeKeys m a n k :=
  ⟨fun i hi => ⟨loc i, h.1 i hi⟩, fun i j hi hj => h.2 i hi j hj⟩

/-- COPY_IN, COPY_OUT or FILL of two lines from or to host address 0x40, at package address `a`. -/
def copyD (t a : Nat) : BitVec 512 := desc [(0, t), (8, 0x40), (16, a), (24, 128)]

/-- The same two lines at the last line of host addresses. -/
def farD (t : Nat) : BitVec 512 := desc [(0, t), (8, 2 ^ 64 - 64), (24, 128)]

theorem witness_CopiesAndFillsMoveLines : ∀ t ∈ [0x10, 0x11, 0x12],
    ((enq 0 (copyD t 0) up).starts 0 0 t (copyD t 0) ∧ copyFieldsOk (copyD t 0) = true ∧ bits (copyD t 0) 64 6 = 0 ∧
      (enq 0 (copyD t 0) up).hp.linkUp = true ∧ bits (copyD t 0) 192 32 / 64 = 2 ∧
      rangeOk (enq 0 (copyD t 0) up).dp.mem ((enq 0 (copyD t 0) up).diesOfQ 0) (bits (copyD t 0) 128 48) 2 = true ∧
      rangeKeys (enq 0 (copyD t 0) up).dp.mem (bits (copyD t 0) 128 48) 2 (fun i => 64 * i) ∧
      (∀ i < 2, (enq 0 (copyD t 0) up).dp.mem.poison.contains (bits (copyD t 0) 64 64 / 64 + i) = false) ∧
      bits (copyD t 0) 64 64 + 64 * 2 ≤ 2 ^ 64) ∧
    ((enq 0 (copyD t (2 ^ 47)) up).starts 0 0 t (copyD t (2 ^ 47)) ∧ copyFieldsOk (copyD t (2 ^ 47)) = true ∧
      rangeOk (enq 0 (copyD t (2 ^ 47)) up).dp.mem ((enq 0 (copyD t (2 ^ 47)) up).diesOfQ 0) (bits (copyD t (2 ^ 47)) 128 48) 2 = false) ∧
    ((enq 0 (farD t) up).starts 0 0 t (farD t) ∧ copyFieldsOk (farD t) = true ∧ bits (farD t) 64 6 = 0 ∧ 2 ^ 64 < bits (farD t) 64 64 + 64 * 2 ∧
      rangeOk (enq 0 (farD t) up).dp.mem ((enq 0 (farD t) up).diesOfQ 0) (bits (farD t) 128 48) 2 = true) ∧
    ((enq 0 (copyD t 0x3000) lostDie).starts 0 0 t (copyD t 0x3000) ∧ copyFieldsOk (copyD t 0x3000) = true ∧
      rangeOk (enq 0 (copyD t 0x3000) lostDie).dp.mem ((enq 0 (copyD t 0x3000) lostDie).diesOfQ 0) (bits (copyD t 0x3000) 128 48) 2 = true ∧
      (enq 0 (copyD t 0x3000) lostDie).hostHeld (bits (copyD t 0x3000) 128 48) 2 = true ∧ (enq 0 (copyD t 0) up).hostHeld 0 2 = false) := by
  intro t h
  simp only [List.mem_cons, List.not_mem_nil, or_false] at h
  rcases h with rfl | rfl | rfl <;>
    exact ⟨⟨starts_of (by decide +kernel), by decide +kernel, by decide +kernel, by decide +kernel, by decide +kernel, by decide +kernel,
      rangeKeys_of (fun i => .iview 0 (64 * i)) (by decide +kernel), by decide +kernel, by decide +kernel⟩,
      ⟨starts_of (by decide +kernel), by decide +kernel, by decide +kernel⟩, ⟨starts_of (by decide +kernel), by decide +kernel⟩,
      starts_of (by decide +kernel), by decide +kernel⟩

/-- A rendezvous of queues 0 and 1 at BARRIER 3. -/
def barD : BitVec 512 := desc [(0, 2), (8, 3), (16, 3)]
def barWait (mask : BitVec 81) : State := { enq 0 barD up with hp := { (enq 0 barD up).hp with rdvs := [⟨3, mask, [(1, 0)]⟩] } }

/-- Queue 0 waits at BARRIER 3, and its next descriptor is the same BARRIER. -/
def barAgain : State :=
  let s := (enq 0 barD up).setQ 0 (fun x => { x with
    tail := 2
    fetch := 2
    fetched := [⟨0, barD, true⟩, ⟨1, barD, false⟩] })
  { s with hp := { s.hp with rdvs := [⟨3, 3, [(0, 0)]⟩] } }

theorem witness_BarriersRendezvous :
    ((enq 0 barD up).starts 0 0 0x02 barD ∧ headerOk barD = true ∧ bits barD 68 60 = 0 ∧ bit barD 128 = true ∧
      2 ≤ ((List.range 81).filter (fun i => bit barD (128 + i))).length ∧ bits barD 209 303 = 0 ∧
      (enq 0 barD up).hp.rdvs.find? (fun r => r.bid == bits barD 64 4) = none) ∧
    (∀ m ∈ [3, 5], (barWait m).starts 0 0 0x02 barD ∧
      (barWait m).hp.rdvs.find? (fun r => r.bid == bits barD 64 4) = some ⟨3, m, [(1, 0)]⟩) ∧
    ((5 : BitVec 81) ≠ barD.extractLsb' 128 81 ∧ (3 : BitVec 81) = barD.extractLsb' 128 81 ∧
      (∀ i < 81, (3 : BitVec 81).getLsbD i = true → i = 0 ∨ i = 1)) ∧
    (((barAgain.getQ 0).fetched.find? (fun y => y.seq == 1)).map (fun y => (barAgain.getQ 0).repeats y) = some true ∧
      (barAgain.getQ 0).fetched.find? (fun y => y.seq == 1) = some ⟨1, barD, false⟩ ∧ barAgain.litFor 0 = true ∧ barAgain.typeStatus 0 barD = none ∧
      barAgain.ownerOf 0 = none ∧ barAgain.hp.rdvs.find? (fun r => r.bid == bits barD 64 4) = some ⟨3, 3, [(0, 0)]⟩) := by
  refine ⟨⟨starts_of (by decide +kernel), by decide +kernel⟩, ?_, by decide +kernel, by decide +kernel⟩
  intro m h
  simp only [List.mem_cons, List.not_mem_nil, or_false] at h
  rcases h with rfl | rfl <;> exact ⟨starts_of (by decide +kernel), by decide +kernel⟩

/-- A completion that waits in queue 0, whose ring holds `n` records. -/
def cqe : Cqe := ⟨0, 7, 0, true, 0, 0, 0, false⟩
def completes (n : Nat) : State := up.setQ 0 (fun x => { x with
  comps := [cqe]
  cqTail := n })

/-- Vector 3 waits, masked or not; vector 82 waits for its spacing. -/
def vectorWaits (masked : BitVec 32) : State :=
  { up with dp := { up.dp with
      irq := { up.dp.irq with
        waiting := [(3, 1000001)]
        table := [(15, masked), (331, 0)] }
      log := { up.dp.log with
        irqWait := true
        irqLast := some 900000 } } }

theorem witness_RecordsAndInterruptsReachTheHost :
    (((completes 15).getQ 0).comps = [cqe] ∧ ((completes 15).getQ 0).fetched = [] ∧ ((completes 15).getQ 0).cqRoom = true ∧
      (completes 15).hp.linkUp = true ∧ ((completes 15).getQ 0).cqBase.toNat + 32 * (((completes 15).getQ 0).cqTail % 2 ^ ((completes 15).getQ 0).log2.toNat)
        + 32 ≤ 2 ^ 64 ∧ ((completes 16).getQ 0).cqRoom = false) ∧
    (up.dp.irq.waiting.get 0 3 = 0 ∧ (vectorWaits 0).dp.irq.waiting.get 0 3 ≠ 0 ∧ (vectorWaits 0).qready = true ∧
      (vectorWaits 0).dp.irq.shut 3 = false ∧ (vectorWaits 1).dp.irq.shut 3 = true) ∧
    (up.dp.log.irqWait = false ∧ (vectorWaits 0).dp.log.irqWait = true ∧ (vectorWaits 0).dp.log.irqLast = some 900000 ∧
      (vectorWaits 0).clk.running = true ∧ (900000 : BitVec 64).toNat + 100000 < 2 ^ 64 ∧
      (vectorWaits 0).dp.irq.shut 82 = false) := by decide +kernel

/-! ### Witnesses: scripts and launches -/

/-- A whole image: one phase, one stroke, one stream of Blotter 0 of die 0; its digest was computed outside Lean. -/
def goodImg : Image where
  len := 0x240
  data := packBytes [(0x0, 0x240000000015A534331), (0x10, 0x10080100004000400008100443410103),
    (0x20, 0x34E0081F4020400010026300806020), (0x30, 0xCE40A280000007F0FA0001900000834), (0x40, 0x2D0000001900001000F00000150),
    (0x50, 0x100010000), (0x60, 0x140000001000000000000010000), (0x70, 0x180000000000000000000000000),
    (0xD0, 0x6E2A067ADCFA9D99C784485678136DB5), (0xE0, 0x445D44CA8E501B3FC82F0274F0D80FE3), (0xF0, 0x4BEF66F463DBC0C9CC7E854BF36F1638),
    (0x100, 0x73A), (0x180, 0x1C000002100), (0x190, 0x4000000200), (0x1C0, 0x4000000000)]

theorem test_digest_of_an_image : goodImg.badDigest = false := by decide +kernel

theorem goodImg_capt (x : Nat) : goodImg.captDiff
    ([0x43410103, 0x00081004, 0x00400040, 0x10080100, 0x00806020, 0x00100263, 0x1F402040] ++
      [0x0034E008, x * 2 ^ 16 + 0x0834, 0x0FA00019, 0x0000007F, 0x0CE40A28, 0x00000150]) = none := by
  have h : (x * 2 ^ 16 + 0x834) % 2 ^ 16 = 0x834 := by omega
  have g : goodImg.at (0x10 + 4 * 8) 4 % 2 ^ 16 = 0x834 := by decide +kernel
  unfold Image.captDiff
  rw [Option.map_eq_none_iff, List.find?_eq_none]
  intro e he
  simp only [List.cons_append, List.nil_append, List.zipIdx_cons, List.zipIdx_nil, List.mem_cons, List.not_mem_nil, or_false] at he
  rcases he with rfl | rfl | rfl | rfl | rfl | rfl | rfl | rfl | rfl | rfl | rfl | rfl | rfl
  case inr.inr.inr.inr.inr.inr.inr.inr.inl =>
    have g48 : goodImg.at 48 4 % 65536 = 2100 := by decide +kernel
    first | (simp [g, h]; done) | simp [g48, h]
  all_goals decide +kernel

theorem goodImg_ok : goodImg.check up.capt up.dp.mem up.scr 7 = .ok := by
  have h : goodImg.captDiff up.capt = none := by
    unfold State.capt
    rw [if_pos (by decide), show up.sec.acv.toNat = 3 by decide]
    exact goodImg_capt _
  unfold Image.check
  rw [h, test_digest_of_an_image]
  decide +kernel

/-- Host memory with a byte string at 0x1000. -/
def hostImage (n v : Nat) (s : State) : State := s.onMem (fun m => { m with host := writeBytes m.host 0x1000 n v })

/-- LOAD_SCRIPT of `n` bytes at host address 0x1000 into slot 7. -/
def loadD (n : Nat) : BitVec 512 := desc [(0, 0x13), (8, 0x1000), (16, n), (20, 7)]

/-- LOAD_SCRIPT of 128 bytes at the last line of host addresses. -/
def farLoadD : BitVec 512 := desc [(0, 0x13), (8, 2 ^ 64 - 64), (16, 128)]

theorem witness_ScriptsAreLoadedOrRefused :
    ((enq 15 (loadD 0x240) up).starts 15 0 0x13 (loadD 0x240) ∧ headerOk (loadD 0x240) = true ∧ bits (loadD 0x240) 64 6 = 0 ∧
      bits (loadD 0x240) 128 6 = 0 ∧ bits (loadD 0x240) 163 349 = 0 ∧ (enq 15 (loadD 0x240) up).hp.linkUp = true ∧ bits (loadD 0x240) 160 3 = 7 ∧
      bits (loadD 0x240) 128 32 = 0x240) ∧
    (up.slotRuns 7 = false ∧ (run 0).slotRuns 0 = true) ∧
    ((enq 15 (loadD 64) up).dp.mem.hostLines (bits (loadD 64) 64 64) (bits (loadD 64) 128 32 / 64) = some 0 ∧
      (Image.mk (bits (loadD 64) 128 32) 0).check (enq 15 (loadD 64) up).capt (enq 15 (loadD 64) up).dp.mem (enq 15 (loadD 64) up).scr 7 = .refuse 1 0) ∧
    goodImg.check up.capt up.dp.mem up.scr 7 = .ok ∧
    goodImg.check State.reset.capt State.reset.dp.mem State.reset.scr 7 = .capt 0 ∧
    ((enq 15 (loadD 64) unlinked).starts 15 0 0x13 (loadD 64) ∧ (enq 15 (loadD 64) unlinked).hp.linkUp = false) ∧
    ((enq 15 farLoadD up).starts 15 0 0x13 farLoadD ∧ headerOk farLoadD = true ∧ bits farLoadD 64 6 = 0 ∧ bits farLoadD 128 6 = 0 ∧
      bits farLoadD 163 349 = 0 ∧ 2 ^ 64 < bits farLoadD 64 64 + bits farLoadD 128 32) ∧
    ((up.onMem (fun m => { m with poison := [0x1000 / 64] })).dp.mem.hostLines (bits (loadD 64) 64 64) (bits (loadD 64) 128 32 / 64) = none) := by
  refine ⟨⟨starts_of (by decide +kernel), by decide +kernel⟩, by decide +kernel, by decide +kernel, goodImg_ok, by decide +kernel,
    ⟨starts_of (by decide +kernel), by decide +kernel⟩, ⟨starts_of (by decide +kernel), by decide +kernel⟩, by decide +kernel⟩

/-- The package with the whole image in slot 0. -/
def loaded : State := { up with scr := { up.scr with slots := [(0, some goodImg)] } }

/-- LAUNCH of slot 0 at stroke `n`. -/
def launchD (n : Nat) : BitVec 512 := desc [(0, 0x14), (16, 99), (32, 7), (40, 4), (48, n)]

theorem witness_LaunchesAreAcceptedInOrderOfChecks :
    (∀ n ∈ [0, 5, 6], (enq 0 (launchD n) loaded).starts 0 0 0x14 (launchD n) ∧ headerOk (launchD n) = true ∧ bits (launchD n) 67 61 = 0 ∧
      bits (launchD n) 448 64 = 0 ∧ (enq 0 (launchD n) loaded).partOfQ 0 = some 0 ∧ bits (launchD n) 384 64 = n) ∧
    ((enq 0 (launchD 6) up).scr.slots.get none (bits (launchD 6) 64 3) = none ∧ (enq 0 (launchD 6) up).starts 0 0 0x14 (launchD 6)) ∧
    (loaded.scr.slots.get none 0 = some goodImg ∧ (loaded.getPartn 0).launch = none ∧ loaded.hp.hostOps = [] ∧ loaded.clk.stroke.toNat = 5) ∧
    ((run 0).scr.slots.get none 0 = some (img 0) ∧ ((enq 1 (launchD 6) (run 0)).getPartn 0).launch.isSome = true ∧
      (enq 1 (launchD 6) (run 0)).starts 1 0 0x14 (launchD 6)) ∧
    (loaded.launchRefusal 0 goodImg 6 = none ∧ loaded.usesDisabled goodImg = false ∧
      ({ loaded with clk := { loaded.clk with period := 25 } } : State).launchRefusal 0 goodImg 6 = some (0x20, 25)) := by
  refine ⟨?_, ⟨by decide +kernel, starts_of (by decide +kernel)⟩, by decide +kernel, ⟨by decide +kernel, by decide +kernel, starts_of (by decide +kernel)⟩,
    by decide +kernel⟩
  intro n h
  simp only [List.mem_cons, List.not_mem_nil, or_false] at h
  rcases h with rfl | rfl | rfl <;> exact ⟨starts_of (by decide +kernel), by decide +kernel⟩

/-- STOP, and a launch whose clearing is not complete. -/
def stopD : BitVec 512 := desc [(0, 0x15), (8, 1)]
def zeroing : State := (accRun 0).setPartn 0 (fun x => { x with launch := some { go with zeroing := true } })

theorem witness_ClearingAndStoppingALaunch :
    (((run 0).getPartn 0).launch = some go ∧ (run 0).imageOf go = some (img 0) ∧ go.zeroing = false ∧
      (zeroing.getPartn 0).launch = some { go with zeroing := true } ∧ zeroing.imageOf { go with zeroing := true } = some (img 0)) ∧
    (zeroing.dp.mem.addrOf (767 * 2 ^ 26) = some 0xC000000000 ∧
      zeroing.dp.mem.zeroes (img 0) 0xC000000000 = true ∧ zeroing.dp.mem.addrOf 0 = some 0 ∧ zeroing.dp.mem.zeroes (img 0) 0 = false) ∧
    ((enq 1 stopD up).starts 1 0 0x15 stopD ∧ (enq 1 stopD (run 0)).starts 1 0 0x15 stopD ∧ headerOk stopD = true ∧ bits stopD 65 447 = 0 ∧
      (enq 1 stopD up).partOfQ 1 = some 0 ∧ ((enq 1 stopD up).getPartn 0).launch = none ∧ ((enq 1 stopD (run 0)).getPartn 0).launch = some go) := by
  refine ⟨by decide +kernel, by decide +kernel, starts_of (by decide +kernel), starts_of (by decide +kernel), by decide +kernel⟩

/-- The launch of unit 0 at the end of its step, the pass's gate as given. -/
def atEnd (g : Gate) (clean grow : Nat) : State :=
  { run 0 with dp := ((run 0).dp.setUnit 0 (fun x => { x with done := true })).setPart 0 (fun x => { x with
      gate := g
      clean := BitVec.ofNat 32 clean
      grow := BitVec.ofNat 5 grow }) }

theorem witness_StepsClose :
    (run 0).atStepEnd 0 = false ∧
    (∀ g ∈ [Gate.opened, .clear, .set], (atEnd g 0 31).atStepEnd 0 = true ∧ ((atEnd g 0 31).dp.getPart 0).latchGate.gate = g) ∧
    (2 ^ ((atEnd .clear 7 3).dp.getPart 0).latchGate.grow.toNat = ((atEnd .clear 7 3).dp.getPart 0).latchGate.clean.toNat + 1 ∧
      ((atEnd .clear 6 3).dp.getPart 0).latchGate.clean.toNat + 1 < 2 ^ ((atEnd .clear 6 3).dp.getPart 0).latchGate.grow.toNat ∧
      ((atEnd .clear 0 31).dp.getPart 0).latchGate.grow = 31) := by decide +kernel

/-- CG_OPEN for `n` ranks, CG_CLOSE, and a COLLECTIVE of kind `k` over 64 bytes. -/
def cgOpenD (n : Nat) : BitVec 512 := desc [(0, 0x20), (8, n)]
def cgCloseD : BitVec 512 := desc [(0, 0x21)]
def collD (k : Nat) : BitVec 512 := desc [(0, 0x22), (8, k), (24, 0x1000), (32, 64)]

/-- Eight operations are in flight on Flue 0. -/
def hostBusy : State := { placed up with dp := (placed up).dp.setCle 0 (fun c => { c with
  ops := List.replicate 8 (opOf (desc [(0, 0x10)])) }) }

theorem witness_CollectivesNeedTheirGroup :
    (∀ n ∈ [2, 262144], (enq 16 (cgOpenD n) (placed up)).starts 16 0 0x20 (cgOpenD n) ∧ headerOk (cgOpenD n) = true ∧ 1 ≤ bits (cgOpenD n) 64 32 ∧
      bits (cgOpenD n) 64 32 ≤ 262144 ∧ bits (cgOpenD n) 96 416 = 0 ∧ (enq 16 (cgOpenD n) (placed up)).ownerOf 16 = none ∧
      (enq 16 (cgOpenD n) (placed up)).hostOpOn 16 = false) ∧
    (cgValid ((placed up).torus.cgs.get 0 0) = true ∧ cgSize ((placed up).torus.cgs.get 0 0) = bits (cgOpenD 2) 64 32 ∧
      cgSize ((placed up).torus.cgs.get 0 0) ≠ bits (cgOpenD 262144) 64 32) ∧
    ((enq 16 (cgOpenD 2) (run 0)).starts 16 0 0x20 (cgOpenD 2) ∧ ((enq 16 (cgOpenD 2) (run 0)).ownerOf 16).isSome = true) ∧
    ((enq 16 cgCloseD (placed up)).starts 16 0 0x21 cgCloseD ∧ headerOk cgCloseD = true ∧ bits cgCloseD 64 448 = 0) ∧
    (∀ k ∈ [0, 1, 2], (enq 16 (collD k) (placed up)).starts 16 0 0x22 (collD k) ∧ (enq 16 (collD k) (placed up)).launched = false ∧
      (enq 16 (collD k) (placed up)).torus.cgOpen.contains 0 = true ∧ headerOk (collD k) = true ∧ bits (collD k) 64 4 = k ∧
      bits (collD k) 68 2 ≠ 3 ∧ bits (collD k) 70 26 = 0 ∧ bits (collD k) 96 32 < (placed up).flN 0 ∧ bits (collD k) 128 6 = 0 ∧
      bits (collD k) 192 6 = 0 ∧ bits (collD k) 256 32 = 64 ∧ bits (collD k) 288 224 = 0 ∧ bits (collD k) 128 64 < 2 ^ 48 ∧
      bits (collD k) 192 64 < 2 ^ 48 ∧ hostRange (placed up).dp.mem (bits (collD k) 128 48) 2 = true ∧
      hostRange (placed up).dp.mem (bits (collD k) 192 48) 2 = true ∧
      (enq 16 (collD k) (placed up)).hostWaits (hostWord 16 ((placed up).flN 0) (collD k)) = false) ∧
    ((enq 16 (collD 2) hostBusy).starts 16 0 0x22 (collD 2) ∧ hostBusy.launched = false ∧
      (enq 16 (collD 2) hostBusy).hostWaits (hostWord 16 (hostBusy.flN 0) (collD 2)) = true) ∧
    ((enq 17 (collD 0) (placed up)).starts 17 0 0x22 (collD 0) ∧ (placed up).torus.cgOpen.contains 1 = false) ∧
    ((enq 17 (collD 0) (run 0)).starts 17 0 0x22 (collD 0) ∧ (enq 17 (collD 0) (run 0)).launched = true) := by
  refine ⟨?_, by decide +kernel, ⟨starts_of (by decide +kernel), by decide +kernel⟩, ⟨starts_of (by decide +kernel), by decide +kernel⟩, ?_,
    ⟨starts_of (by decide +kernel), by decide +kernel⟩, ⟨starts_of (by decide +kernel), by decide +kernel⟩, starts_of (by decide +kernel), by decide +kernel⟩
  · intro n h
    simp only [List.mem_cons, List.not_mem_nil, or_false] at h
    rcases h with rfl | rfl <;> exact ⟨starts_of (by decide +kernel), by decide +kernel⟩
  · intro n h
    simp only [List.mem_cons, List.not_mem_nil, or_false] at h
    rcases h with rfl | rfl | rfl <;> exact ⟨starts_of (by decide +kernel), by decide +kernel⟩

/-- QUEUE_CTL of queue `n`, ENGINE_CTL of unit `u`, PART_SET of partition 1 on dies `m`. -/
def qctlD (n en : Nat) : BitVec 512 := desc [(0, 0x30), (8, n + 128 * en)]
def ectlD (u : Nat) : BitVec 512 := desc [(0, 0x31), (8, u)]
def partD (m : Nat) : BitVec 512 := desc [(0, 0x32), (8, 1 + 16 * m)]

/-- Two controls of queue 3 and one of queue 79 wait, and three of units 0 and 8. -/
def controls (s : State) : State :=
  { s with hp := { s.hp with
      qctl := [⟨0, 3, false⟩, ⟨1, 3, true⟩, ⟨2, 79, false⟩]
      ectl := [⟨3, 0, true⟩, ⟨4, 0, false⟩, ⟨5, 8, false⟩, ⟨6, 0x28, true⟩] } }

theorem witness_ControlsTakeEffectAtTheBoundary :
    (∀ n ∈ [0, 79], (enq 80 (qctlD n 0) up).starts 80 0 0x30 (qctlD n 0) ∧ headerOk (qctlD n 0) = true ∧ bits (qctlD n 0) 64 7 < 80 ∧
      bits (qctlD n 0) 72 440 = 0 ∧ (enq 80 (qctlD n 0) up).ownerOf (bits (qctlD n 0) 64 7) = none) ∧
    ((enq 80 (qctlD 16 1) (run 0)).starts 80 0 0x30 (qctlD 16 1) ∧ bit (qctlD 16 1) 71 = true ∧ bits (qctlD 16 1) 72 440 = 0) ∧
    ((∀ c ∈ (controls up).hp.qctl, ∀ c' ∈ (controls up).hp.qctl, c.seq = c'.seq → c = c') ∧ (∀ c ∈ (controls up).hp.qctl, c.target < 80) ∧
      (∀ c' ∈ (controls up).hp.qctl, c'.target = 3 → c'.seq ≤ 1) ∧ (∀ c' ∈ (controls up).hp.qctl, c'.target = 79 → c'.seq ≤ 2) ∧
      (∀ c ∈ (controls up).hp.qctl, c.target ≠ 4)) ∧
    ((enq 80 (ectlD 0x2102) up).starts 80 0 0x31 (ectlD 0x2102) ∧ headerOk (ectlD 0x2102) = true ∧ isStreamUnit (bits (ectlD 0x2102) 64 16) = true ∧
      bits (ectlD 0x2102) 81 431 = 0) ∧
    ((∀ c ∈ (controls (run 0)).hp.ectl, ∀ c' ∈ (controls (run 0)).hp.ectl, c.seq = c'.seq → c = c') ∧
      (controls (run 0)).unitInUse 0 = true ∧ (controls (run 0)).unitInUse 8 = false ∧
      (∀ c' ∈ (controls (run 0)).hp.ectl, c'.target = 0 → c'.seq ≤ 4) ∧ (∀ c' ∈ (controls (run 0)).hp.ectl, c'.target = 8 → c'.seq ≤ 5) ∧
      (∀ c' ∈ (controls (run 0)).hp.ectl, c'.target = 0x28 → c'.seq ≤ 6)) ∧
    ((enq 80 (partD 0) up).starts 80 0 0x32 (partD 0) ∧ headerOk (partD 0) = true ∧ bits (partD 0) 66 2 = 0 ∧ bits (partD 0) 68 4 = 0 ∧
      bits (partD 0) 88 424 = 0 ∧ up.launched = false ∧
      ([0, 1, 2, 3].all (fun k => decide (k = bits (partD 0) 64 2) || (up.getPartn k).dies &&& (partD 0).extractLsb' 68 4 == 0)) = true) ∧
    ((enq 80 (partD 3) up).starts 80 0 0x32 (partD 3) ∧ diesValid (bits (partD 3) 68 4) = true ∧ bits (partD 3) 88 424 = 0 ∧
      0 ≠ bits (partD 3) 64 2 ∧ (up.getPartn 0).dies &&& (partD 3).extractLsb' 68 4 ≠ 0) := by
  refine ⟨?_, ⟨starts_of (by decide +kernel), by decide +kernel⟩, by decide +kernel, ⟨starts_of (by decide +kernel), by decide +kernel⟩,
    by decide +kernel, ⟨starts_of (by decide +kernel), by decide +kernel⟩, starts_of (by decide +kernel), by decide +kernel⟩
  intro n h
  simp only [List.mem_cons, List.not_mem_nil, or_false] at h
  rcases h with rfl | rfl <;> exact ⟨starts_of (by decide +kernel), by decide +kernel⟩

/-- QCFG.EN with a vector and LOG2. -/
def qcfg (v l : Nat) : BitVec 32 := BitVec.ofNat 32 (l + 2 ^ 16 * v + 2 ^ 31)

/-- Vector 83 waits behind the function mask. -/
def pended : State := { up with dp := { up.dp with irq := { up.dp.irq with
  fmask := true
  pba := [83]
  table := [(335, 0)] } } }

theorem witness_QueuesAreEnabledResetAndResumed :
    (((enq 0 0 up).getQ 0).en = true ∧ State.reset.qready = false ∧ up.qready = true ∧ (up.getQ 80).en = false) ∧
    (84 ≤ bits (qcfg 84 4) 16 8 ∧ bits (qcfg 83 3) 0 5 < 4 ∧ 16 < bits (qcfg 83 17) 0 5) ∧
    (bits (qcfg 83 4) 16 8 < 84 ∧ 4 ≤ bits (qcfg 83 4) 0 5 ∧ bits (qcfg 83 16) 0 5 ≤ 16) ∧ up.launched = false ∧ (run 0).launched = true ∧
    ((up.setQ 80 (fun x => { x with overrun := true })).getQ 80).overrun = true ∧
    (pended.dp.irq.pba.contains 83 = true ∧ (pended.dp.irq.table.get 0 (4 * 83 + 3)).getLsbD 0 = false ∧
      (match exec (.cxlConfigWrite ⟨true, true⟩ ⟨true, false⟩) pended with
        | .next t => t.qready
        | _ => false) = true) := by decide +kernel

/-! ### Witnesses: collective engines -/

/-- The package at work on a script of the Flue of die 0 that begins with the word `w`, placed as rank 0 of CG 0. -/
def flueW (w : BitVec 512) : State := placed (runW 0x2000 w.toNat)
def flue : State := flueW 0

/-- Flue instructions over CG 0: blocks of 64 bytes, 2 lanes, 1 token. -/
def agW : BitVec 512 := desc [(0, 0x10), (8, 0x1000), (16, 0x2000), (24, 64)]
def bcastW : BitVec 512 := desc [(0, 0x12), (8, 0x1000), (16, 0x2000), (24, 64)]
def voteW : BitVec 512 := desc [(0, 0x16)]
def rsW : BitVec 512 := desc [(0, 0x11), (4, 2), (8, 0x1000), (16, 0x2000), (24, 64)]
def a2aW : BitVec 512 := desc [(0, 0x13), (8, 0x1000), (16, 0x2000), (24, 64), (32, 0x3000), (40, 0x4000), (48, 0x5000), (59, 1)]
def a2avW : BitVec 512 := desc [(0, 0x14), (8, 0x1000), (16, 0x2000), (24, 64), (32, 0x3000), (40, 0x4000), (48, 0x5000), (61, 1)]
def a2arW : BitVec 512 := desc [(0, 0x15), (8, 0x1000), (16, 0x2000), (24, 64), (32, 0x3000), (40, 0x4000), (48, 0x5000), (59, 1)]

/-- Flue 0 with operations in flight. -/
def busy (l : List FlOp) (n : BitVec 64) (k : Packet) : State :=
  let s := inbox [k] flue
  { s with dp := s.dp.setCle 0 (fun c => { c with
      ops := l
      oseq := [(0, n)] }) }

/-- The Flue of `flueW w` with eight operations in flight. -/
def full (w : BitVec 512) : State := { flueW w with dp := (flueW w).dp.setCle 0 (fun c => { c with ops := List.replicate 8 (opOf agW) }) }

theorem witness_FlueOperationsIssue :
    (∀ w, (flueW w).clean) ∧ ([agW, rsW, bcastW, a2aW, a2avW, a2arW, voteW].all (fun w =>
      (flueW w).dispatches (cleUid (0 : Fin 4).val) (bits w 0 8) w.toNat && !((flueW w).flWaits 0 w)) = true) ∧
    ((flueW agW).agValid 0 agW = true ∧ (flueW rsW).rsValid 0 rsW = true ∧ (flueW bcastW).bcastValid 0 bcastW = true ∧
      (flueW a2aW).a2aValid 0 a2aW = true ∧ (flueW a2avW).a2avValid 0 a2avW = true ∧ (flueW a2arW).a2arValid 0 a2arW = true ∧
      (flueW voteW).voteValid 0 voteW = true ∧ [agW, rsW, bcastW, a2aW, a2avW, a2arW, voteW].map (fun w => bits w 0 8) = [16, 17, 18, 19, 20, 21, 22]) ∧
    ([agW, rsW, bcastW, a2aW, a2avW, a2arW, voteW].all (fun w => (full w).dispatches (cleUid 0) (bits w 0 8) w.toNat && (full w).flWaits 0 w) = true) :=
  ⟨fun _ => clean_of rfl, by decide +kernel, by decide +kernel, by decide +kernel⟩

/-- A FLUE packet of CG 0 and operation 0. -/
def flPkt (x : FlArgs) (addr : Nat) (tag : BitVec 64) (lines : List (BitVec 512)) : Packet :=
  pkt 4 addr tag (x.pack (opOf agW)) lines

theorem meets {s : State} {d : Nat} {k : Packet} {o : FlOp} (h : (s.dp.getCle d).find (kCg k) (kOseq k) = some o) : s.meet d k = .op o := by
  unfold State.meet
  simp only [h]

theorem meets_completed {s : State} {d : Nat} {k : Packet} (h : (s.dp.getCle d).find (kCg k) (kOseq k) = none)
    (g : ¬ (BitVec.ofNat 32 (kOseq k) - ((s.dp.getCle d).oseq.get 0 (kCg k)).extractLsb' 0 32).toInt ≥ 0) : s.meet d k = .completed := by
  unfold State.meet
  simp only [h, if_neg g]

theorem meets_later {s : State} {d : Nat} {k : Packet} (h : (s.dp.getCle d).find (kCg k) (kOseq k) = none)
    (g : (BitVec.ofNat 32 (kOseq k) - ((s.dp.getCle d).oseq.get 0 (kCg k)).extractLsb' 0 32).toInt ≥ 0) : s.meet d k = .later := by
  unfold State.meet
  simp only [h, if_pos g]

/-- A GRANT of lane 1 for the tree of shard 1; a BLOCK of shard 1; COUNTS, BASES and a ROW of rank 1; a FLAG of pass 0; a PART of shard 0. -/
def grantK : Packet := flPkt { kind := 1, shard := 1, lane := 1 } 0 0 []
def blockK : Packet := flPkt { kind := 2, shard := 1, last := true } 0x2040 0 [7]
def countsK : Packet := flPkt { kind := 4, shard := 1 } 0 3 []
def basesK : Packet := flPkt { kind := 5, shard := 1 } 0 (2 ^ 32) []
def rowK : Packet := flPkt { kind := 3, shard := 1, last := true } 0x2000 0 [7]
def flagK : Packet := flPkt { kind := 6, shard := 1, flag := true } 0 0 []
def partK : Packet := flPkt { kind := 0, shard := 0, lane := 1 } 0 0 [7]

/-- An all-gather, a reduce-scatter of two lines per shard whose first tree has its lanes, and a return, in flight. -/
def agOp : FlOp := opOf agW
def rsOp : FlOp := { opOf (desc [(0, 0x11), (4, 2), (8, 0x1000), (16, 0x2000), (24, 128)]) with trees := [(0, { lanes := [0, 1] })] }
def arOp : FlOp := { opOf a2arW with
  idx := [1]
  place := [0] }

theorem witness_FluePacketsReachTheirOperation :
    ((busy [] 0 flagK).meet 0 flagK = .later ∧ (busy [] 1 flagK).meet 0 flagK = .completed ∧ (busy [opOf voteW] 1 flagK).meet 0 flagK = .op (opOf voteW) ∧
      flagK.typ = 4 ∧ flagK ∈ (busy [] 0 flagK).torus.inbox ∧ kKind flagK = 6) ∧
    ((busy [rsOp] 1 grantK).meet 0 grantK = .op rsOp ∧ kKind grantK = 1 ∧ bits rsOp.word 0 8 = 0x11 ∧ kShard grantK < (busy [rsOp] 1 grantK).flN 0 ∧
      kSlab grantK < rsOp.slabs ∧ (busy [rsOp] 1 grantK).dp.fr.jobStop = none ∧ rsOp.host = none ∧ (rsOp.tree 1).done = false ∧ (rsOp.tree 1).grant = none ∧ (rsOp.tree 1).readyAt = none ∧
      (sendStep (flPlan 2 1 0)).map (·.pass) = some (kPass grantK)) ∧
    ((busy [agOp] 1 blockK).meet 0 blockK = .op agOp ∧ kKind blockK = 2 ∧ bits agOp.word 0 8 = 0x10 ∧ kShard blockK < (busy [agOp] 1 blockK).flN 0 ∧
      kShard blockK ≠ (busy [agOp] 1 blockK).flMe 0 ∧ blockK.addr % 64 = 0 ∧ agOp.blockAt 1 = blockK.addr ∧
      blockK.addr + 64 * blockK.lines.length = agOp.blockAt 1 + agOp.count) ∧
    ((busy [opOf a2avW] 1 countsK).meet 0 countsK = .op (opOf a2avW) ∧ kKind countsK = 4 ∧ kShard countsK < 2 ∧
      (opOf a2avW).counts.get none (kShard countsK) = none) ∧
    ((busy [opOf a2avW] 1 basesK).meet 0 basesK = .op (opOf a2avW) ∧ kKind basesK = 5 ∧ kShard basesK < 2 ∧
      (opOf a2avW).bases.get none (kShard basesK) = none) ∧
    ((busy [opOf voteW] 1 flagK).meet 0 flagK = .op (opOf voteW) ∧ kPass flagK < passes 2 ∧ kPass flagK ∈ upPasses 2 0 ∧ kPass flagK ∉ (opOf voteW).ups) ∧
    ((busy [arOp] 1 rowK).meet 0 rowK = .op arOp ∧ kKind rowK = 3 ∧ bits arOp.word 0 8 = 0x15 ∧ rowK.addr + 64 * rowK.lines.length ≤ fDst arOp.word + fCount arOp.word ∧
      arOp.entryOf (kShard rowK) (kSlab rowK) = some 0 ∧ rowK.addr + 64 ≤ fDst (opOf a2aW).word + 2 * fCap (opOf a2aW).word * fCount (opOf a2aW).word ∧
      rowK.addr + 64 ≤ fDst (opOf a2avW).word + fRcap (opOf a2avW).word * fCount (opOf a2avW).word ∧ kLast rowK = true) ∧
    ((busy [rsOp] 1 partK).meet 0 partK = .op rsOp ∧ kKind partK = 0 ∧ kShard partK < 2 ∧ kSlab partK < rsOp.slabs ∧
      ((recvSteps (flPlan 2 0 0)).zipIdx.find? (fun y => y.1.pass == kPass partK)).map (·.2) = some 0 ∧ (rsOp.tree 0).lanes ≠ [] ∧
      (rsOp.tree 0).lanes.getD 1 0 = kLane partK ∧ partK.addr + 64 * partK.lines.length ≤ rsOp.slabBytes 0 ∧
      (rsOp.tree 0).full.contains 0 = false ∧ ((rsOp.tree 0).got.get 0 0 + partK.lines.length) * 64 < rsOp.slabBytes 0) := by
  refine ⟨⟨meets_later (by decide +kernel) (by decide +kernel), meets_completed (by decide +kernel) (by decide +kernel), meets (by decide +kernel),
    by decide +kernel⟩, ⟨meets (by decide +kernel), by decide +kernel⟩, ⟨meets (by decide +kernel), by decide +kernel⟩,
    ⟨meets (by decide +kernel), by decide +kernel⟩, ⟨meets (by decide +kernel), by decide +kernel⟩, ⟨meets (by decide +kernel), by decide +kernel⟩,
    ⟨meets (by decide +kernel), by decide +kernel⟩, meets (by decide +kernel), by decide +kernel⟩

/-- An all-gather with every line of the other rank in. -/
def fullOp : FlOp := { agOp with got := [(1, 1)], last := [1] }

theorem witness_FlueOperationsComplete :
    (((busy [] 1 flagK).dp.getCle (0 : Fin 4).val).ops.find? (fun o => o.cg == (0 : Fin 64).val) = none) ∧
    (((busy [agOp] 1 flagK).dp.getCle 0).ops.find? (fun o => o.cg == 0) = some agOp ∧ agOp.oseq ≠ (1 : BitVec 64).toNat ∧
      (busy [agOp] 1 flagK).flAllIn agOp = false) ∧
    (((busy [fullOp] 1 flagK).dp.getCle 0).ops.find? (fun o => o.cg == 0) = some fullOp ∧ fullOp.oseq = (0 : BitVec 64).toNat ∧
      (busy [fullOp] 1 flagK).dp.fr.voided = false ∧ (busy [fullOp] 1 flagK).flAllIn fullOp = true ∧ (busy [fullOp] 1 flagK).torus.awaits = []) ∧
    (∃ a ∈ ({ (busy [] 1 flagK).torus with awaits := [⟨7, 0x2000, 0⟩] } : Torus).awaits, a.rtag ∈ ({ fullOp with rtags := [7] } : FlOp).rtags) := by
  decide +kernel

/-! ### Witnesses: units of a cluster -/

/-- An instruction word of `n` bits from (byte, value) fields. -/
def ins (n : Nat) (l : List (Nat × Nat)) : BitVec n := BitVec.ofNat n (packBytes l)

/-- Unit `u`, about to run the word `w`, awaits an acknowledgement. -/
def awaitingW (u w : Nat) : State := { runW u w with torus := { (runW u w).torus with awaits := [⟨5, u, 0⟩] } }
def awaiting (u : Nat) : State := awaitingW u 0

/-- Words of unit 0: a NOP with a bit set, a WAIT for 1 at counter 15, a POST to unit 7 of channel kind, FENCEs of scopes POD and PACKAGE. -/
def nopW : BitVec 512 := ins 512 [(1, 1)]
def waitW : BitVec 512 := ins 512 [(0, 1), (1, 15), (2, 1)]
def postW : BitVec 512 := ins 512 [(0, 2), (1, 0x30), (2, 65535), (4, 7)]
def fenceW (scope : Nat) : BitVec 512 := ins 512 [(0, 3), (1, scope)]

/-- The Blotter of stack 0 at a FENCE, an operation of it in flight. -/
def blotting : State := { runW 0x2100 3 with dp := (runW 0x2100 3).dp.setUpu 0 (fun x => { x with ops := [x.issue 0] }) }

theorem witness_StreamUnitsWaitPostAndFence :
    (isStreamUnit (0x2102#16).toNat = true ∧ isStreamUnit (0x20#16).toNat = true ∧ ((run 0).dp.getUnit 0).fetchLate = false) ∧
    (up.dp.runs up.env (0#16).toNat (unitOpcode (unitKind 0) 0) 0 = false ∧
      (run 0).dp.runs (run 0).env 0 (unitOpcode (unitKind 0) waitW.toNat) waitW.toNat = false) ∧
    (∀ u ∈ [0, 8, 16, 31, 32, 0x2000, 0x2102], (run u).dispatches u 0 0 = true) ∧
    (bits (ins 512 []) 0 (8 * instrBytes 0) = 0 ∧ bits nopW 0 (8 * instrBytes 0) ≠ 0 ∧ (runW 0 nopW.toNat).dispatches 0 0 nopW.toNat = true) ∧
    ((runW 0 waitW.toNat).dispatches 0 1 waitW.toNat = true ∧ waitValid 0 waitW = true ∧ ((run 0).dp.getUnit 0).cnt.get 0 15 = 0 ∧
      bits waitW 16 16 ≤ (((({ run 0 with dp := (run 0).dp.setUnit 0 (fun x => { x with cnt := [(15, 1)] }) } : State).dp).getUnit 0).cnt.get 0
        (bits waitW 8 4)).toNat) ∧
    (postValid 0 postW = true ∧ (runW 0 postW.toNat).dispatches 0 2 postW.toNat = true ∧ (runW 0 postW.toNat).awaitsOf 0 = [] ∧
      (awaitingW 0 postW.toNat).awaitsOf 0 ≠ [] ∧ (awaitingW 0 postW.toNat).dispatches 0 2 postW.toNat = true ∧
      ((run 0).dp.getUnit (cuid (uidCluster 0) 3 7)).blocked = none) ∧
    (bits (fenceW 3) 10 (8 * instrBytes 0 - 10) = 0 ∧ 2 ≤ bits (fenceW 3) 8 2 ∧ bits (fenceW 1) 8 2 < 2 ∧
      (runW 0 (fenceW 1).toNat).dispatches 0 3 (fenceW 1).toNat = true ∧ (awaitingW 0 (fenceW 3).toNat).dispatches 0 3 (fenceW 3).toNat = true ∧
      (runW 0 (fenceW 1).toNat).dp.working 0 = false ∧ blotting.dp.working 0x2100 = true ∧ blotting.dispatches 0x2100 3 3 = true) ∧
    (isClusterUnit (0#16).toNat = true ∧ ((run 0).dp.getUnit 0).blocked = none ∧
      (({ run 0 with dp := (run 0).dp.setUnit 0 (fun x => { x with blocked := some (3, 2) }) } : State).dp.getUnit 0).blocked = some (3, 2) ∧
      2 ≤ min 65535 ((((run 0).dp.getUnit 0).cnt.get 0 3).toNat + (2 : BitVec 16).toNat)) := by decide +kernel

/-- LOADW, MMA, ABCAST and CNTST words: BF16 with FP32 accumulation, one row, one column. -/
def loadwW : BitVec 128 := ins 128 [(0, 0x10), (8, 1)]
def mmaW : BitVec 128 := ins 128 [(0, 0x11)]
def abcastW : BitVec 128 := ins 128 [(0, 0x12), (4, 5 + 1024)]
def cntstW : BitVec 128 := ins 128 [(0, 0x13), (4, 0x40)]

/-- The array of cluster 0 with a block in buffer 0. -/
def mxBuf : MxBuf := { loaded := true, fmt := 0, accw := false, recs := [0x3F80], scales := [0] }
def mxRun (w : BitVec 128) : State := { runW 0 w.toNat with dp := (runW 0 w.toNat).dp.setMxa 0 (fun x => { x with buf0 := mxBuf }) }

theorem witness_MatrixArrayComputes :
    ((mxRun loadwW).dispatches (mxaUid 0) 0x10 loadwW.toNat = true ∧ loadwValid loadwW = true ∧ (mxRun loadwW).clean ∧ (mxRun loadwW).claimsAll (mxaUid 0) ∧ 0 ≤ bits loadwW 22 6 ∧
      bits loadwW 32 22 + 0 * bits loadwW 64 8 * 64 + 64 * recLines (bits loadwW 16 6) ((mxPack (bits loadwW 9 3) (bit loadwW 12)).getD (0, 0)).1
        (mxFmt (bits loadwW 9 3)).width ≤ 0x300000) ∧
    ((mxRun mmaW).dispatches (mxaUid 0) 0x11 mmaW.toNat = true ∧ (mxRun mmaW).claimsAll (mxaUid 0) ∧
      mxBuf = ((mxRun mmaW).dp.getMxa 0).buf (bit mmaW 8) ∧ mmaValid mmaW mxBuf ((mxRun mmaW).env.phaseClass (mxaUid 0)) = true ∧
      ((mxPack (mmaOf mmaW).fmt (mmaOf mmaW).accw).map (·.1)).isSome = true ∧
      ((mmaOf mmaW).read (mxRun mmaW).env (mxaUid 0) 0 1 ((mxRun mmaW).dp.getMxa 0).prev (mxRun mmaW).dp).1.isSome = true ∧
      rowsOpen (mxRun mmaW) 0 (accFmt false false) 0 1 ∧ 0 < (mmaOf mmaW).m ∧ (mxBuf.recs.zip mxBuf.scales)[0]? = some (0x3F80, 0)) ∧
    ((mxRun abcastW).dispatches (mxaUid 0) 0x12 abcastW.toNat = true ∧ abcastValid abcastW = true ∧ 1 ≤ bits abcastW 42 10 ∧ rowsOpen (mxRun abcastW) 0 (accFmt (bit abcastW 8) (bit abcastW 19)) (bits abcastW 32 10) (bits abcastW 42 10 + 1)) ∧
    ((mxRun cntstW).dispatches (mxaUid 0) 0x13 cntstW.toNat = true ∧ bits cntstW 8 24 = 0 ∧ bits cntstW 32 6 = 0 ∧ bits cntstW 54 74 = 0 ∧ bits cntstW 32 22 < 0x300000 ∧
      (mxRun cntstW).env.mayWrite (mxaUid 0) (sramAddr 0 (bits cntstW 32 22)) = true) := by
  have ro : ∀ w r n, (∀ i < 4 * n, (mxRun w).env.mayWrite (mxaUid 0) (accAddr 0 (64 * (4 * r + i))) = true) →
      rowsOpen (mxRun w) 0 (accFmt false false) r n := by
    intro w r n o x h0 hx
    have hw : (accFmt false false).width = 32 := by decide
    rw [hw] at hx
    rw [hw] at h0
    have := o (x / 64 - 4 * r) (by omega)
    rwa [show 4 * r + (x / 64 - 4 * r) = x / 64 by omega, Nat.mul_comm] at this
  refine ⟨⟨by decide +kernel, by decide +kernel, clean_of rfl, claimsAll_of (by decide +kernel), by decide +kernel⟩,
    ⟨by decide +kernel, claimsAll_of (by decide +kernel), by decide +kernel, by decide +kernel, by decide +kernel, by decide +kernel,
      ro _ 0 1 (by decide +kernel), by decide +kernel⟩,
    ⟨by decide +kernel, by decide +kernel, by decide +kernel, ?_⟩, by decide +kernel⟩
  have e : accFmt (bit abcastW 8) (bit abcastW 19) = accFmt false false := by decide +kernel
  have a : bits abcastW 32 10 = 5 := by decide +kernel
  have b : bits abcastW 42 10 = 1 := by decide +kernel
  rw [e, a, b]
  exact ro _ 5 2 (by decide +kernel)

/-- One row of two lines from 0x1000 to 0x2000. -/
def copyW : BitVec 256 := ins 256 [(0, 0x10), (4, 2), (8, 0x1000), (16, 0x2000)]
def fillW : BitVec 256 := ins 256 [(0, 0x12), (4, 2), (8, 0x1000), (16, 0x2000)]
def addwW : BitVec 256 := ins 256 [(0, 0x13), (1, 7), (4, 1), (8, 0x1000), (16, 0xC000000000)]
def skewW : BitVec 256 := ins 256 [(0, 0x11), (8, 0x1000), (16, 0x20000000000)]

/-- A COPY from the external window. -/
def extW : BitVec 256 := ins 256 [(0, 0x10), (4, 1), (8, 0x100000000000), (16, 0x2000)]

/-- The package at work on channel 0 of cluster 0, its next word `w`; the same with the host link down and entry 0 of the external window
read-only; the same with four instructions in flight. -/
def slantW (w : BitVec 256) : State := placed (runW 0x18 w.toNat)
def slant : State := slantW 0
def cutOff (w : BitVec 256) : State :=
  let s := (slantW w).onMem (fun m => { m with xt := [(0, 4)] })
  { s with hp := unlinked.hp }
def fourSent (w : BitVec 256) : State := { slantW w with torus := { (slantW w).torus with
  awaits := [⟨1, 0x18, 0⟩, ⟨2, 0x18, 1⟩, ⟨3, 0x18, 2⟩, ⟨4, 0x18, 3⟩] } }

theorem hbmLine_of {s : State} {u a k j o : Nat} {wr : Bool}
    (h : (s.dp.mem.at48 a = some (.iview j o) ∧ (Loc.iview j o).inDies (s.env.diesOf u) = true ∧ s.dp.mem.key (.iview j o) = k ∧
      (wr = true → s.env.mayStore s.dp.mem u a (.iview j o) = true)) ∧ ∀ i < 64, s.dp.mem.inInk (k + i) = false) : hbmLine s u a k wr :=
  ⟨⟨_, h.1.1, h.1.2.1, rfl, (fun _ _ e => by cases e), h.1.2.2⟩, h.2⟩

theorem witness_ChannelsMoveLines :
    (∀ w, (slantW w).clean) ∧ ([copyW, fillW, addwW, skewW].all (fun w => decide ((slantW w).inFlight 0x18 < 4) &&
      (slantW w).dispatches 0x18 (bits w 0 8) w.toNat && (fourSent w).dispatches 0x18 (bits w 0 8) w.toNat &&
      decide (4 ≤ (fourSent w).inFlight 0x18) && !((fourSent w).copyWaits 0x18 w)) = true) ∧
    ([copyW, fillW, addwW, skewW].map (fun w => bits w 0 8) = [0x10, 0x12, 0x13, 0x11]) ∧
    ((cutOff extW).dispatches 0x18 0x10 extW.toNat = true ∧ (cutOff extW).copyWaits 0x18 extW = true ∧ (slantW copyW).copyWaits 0x18 copyW = false ∧
      moveValid extW 8 false false (bits extW 32 16) ((cutOff extW).env.diesOf 0x18) = true) ∧
    (sdUid 0 0 = 0x18 ∧ moveValid copyW 8 false false (bits copyW 32 16) (slant.env.diesOf 0x18) = true ∧
      moveValid fillW 8 true false (bits fillW 32 16) (slant.env.diesOf 0x18) = true ∧ (moveOf copyW).rows = 1 ∧ bits copyW 32 16 = 2 ∧
      (moveOf fillW).rows = 1 ∧ (moveOf fillW).dst = (moveOf copyW).dst) ∧
    (∀ i < 2, hbmLine (slantW copyW) 0x18 ((moveOf copyW).src + 0 * (moveOf copyW).spl * 64 + 64 * i) (hbmKey 1 (4096 * 0 + 64 * i)) false ∧
      hbmLine (slantW copyW) 0x18 ((moveOf copyW).dst + 0 * (moveOf copyW).dpl * 64 + 64 * i) (hbmKey 2 (64 * i)) true ∧
      hbmLine (slantW fillW) 0x18 ((moveOf fillW).dst + 0 * (moveOf fillW).dpl * 64 + 64 * i) (hbmKey 2 (64 * i)) true) ∧
    (addFmt (bits addwW 8 4) = some (.fp32, 16) ∧ moveValid addwW 12 false false (addwSpan addwW) (slant.env.diesOf 0x18) = true) ∧
    skewValid skewW (slant.env.diesOf 0x18) = true := by
  refine ⟨fun _ => clean_of rfl, by decide +kernel, by decide +kernel, by decide +kernel, by decide +kernel, ?_, by decide +kernel, by decide +kernel⟩
  intro i h
  have : i = 0 ∨ i = 1 := by omega
  rcases this with rfl | rfl
  · exact ⟨hbmLine_of (j := 1) (o := 0) (by decide +kernel), hbmLine_of (j := 2) (o := 0) (by decide +kernel),
      hbmLine_of (j := 2) (o := 0) (by decide +kernel)⟩
  · exact ⟨hbmLine_of (j := 1) (o := 64) (by decide +kernel), hbmLine_of (j := 2) (o := 64) (by decide +kernel),
      hbmLine_of (j := 2) (o := 64) (by decide +kernel)⟩

/-- PUT of one line to rank 1 of CG 0, and one that arrives from package 1. -/
def putW : BitVec 256 := ins 256 [(0, 0x14), (4, 1), (8, 0x1000), (16, 0x20000000000), (24, 64)]
def putK : Packet := pkt 1 0x20000000000 0 0 [7]

theorem witness_PutsAndInboundAccesses :
    ((slantW putW).dispatches 0x18 0x14 putW.toNat = true ∧ (slantW putW).clean ∧ (slantW putW).inFlight 0x18 < 4 ∧
      moveValid putW 8 false true (bits putW 32 16) (slant.env.diesOf 0x18) = true ∧ bits putW 216 8 = 0 ∧
      (slantW putW).putCgOk 0x18 putW = true ∧ (slantW putW).torus.rankPkg (putCg putW) (putRank putW) ≠ ((slantW putW).torus.pod, (slantW putW).torus.pkg)) ∧
    (putK.typ = 1 ∧ putK ∈ (inbox [putK] slant).torus.inbox ∧ (inbox [putK] slant).torus.hop putK.spod putK.spkg ≠ .local_ ∧
      (inbox [putK] slant).edge.lost.getLsbD ((inbox [putK] slant).dp.mem.putDie putK.addr) = false ∧
      ({ up with edge := { up.edge with lost := 1 } } : State).edge.lost.getLsbD ((inbox [putK] slant).dp.mem.putDie putK.addr) = true) ∧
    (slant.dp.mem.at48 (0x20000000000 / 64 * 64) = some (.sram 0 0) ∧ (Loc.sram 0 0).cluster? = some (0, false, 0) ∧
      slant.env.claimsAt (sdUid 0 0) (slant.env.entryOf (sdUid 0 0)) false 0 = true ∧
      slant.env.mayWrite (sdUid 0 0) (0x20000000000 / 64 * 64) = true ∧ slant.env.comesIn 0 0 (sdUid 1 0) true = true ∧
      slant.env.comesIn 0 0 (sdUid 1 0) false = true ∧ slant.env.comesIn 0 7 0x2000 true = true ∧ slant.env.comesIn 0 0 0 true = false ∧
      slant.env.comesIn 0 7 0x2000 false = false ∧ slant.dp.fr.jobStop = none) ∧
    (up.waits (0#16).toNat = false ∧ (awaiting 0).waits (0#16).toNat = true ∧ isStreamUnit (0#16).toNat = true ∧ (awaiting 0).dp.fr.open_ = [] ∧
      (awaiting 0).env.entryOf 0 ∉ (awaiting 0).dp.fr.stalls ∧ (awaiting 0).dp.fr.jobStop = none) := by
  refine ⟨⟨by decide +kernel, clean_of rfl, by decide +kernel⟩, by decide +kernel⟩

/-- TRANS, CONV and QMX of rows of SRAM. -/
def transW : BitVec 256 := ins 256 [(0, 0x10), (2, 1), (4, 1), (12, 1), (16, 0x1000), (20, 1)]
def convW : BitVec 256 := ins 256 [(0, 0x11), (1, 0x27), (4, 1), (6, 1), (12, 1), (16, 0x1000), (20, 1)]
def idxW : BitVec 256 := ins 256 [(0, 0x13), (8, 7)]
def qmxW : BitVec 256 := ins 256 [(0, 0x12), (1, 0x47), (6, 31), (12, 2), (16, 0x1000), (20, 1), (24, 0x2000), (28, 8)]

/-- The package at work on the format engine of cluster 0. -/
def tfeW (w : BitVec 256) : State := runW 0x10 w.toNat
def tfe : State := tfeW 0

theorem witness_FormatEngineConverts :
    (∀ w, (tfeW w).clean) ∧ ((tfeW transW).claimsAll (tfeUid 0) ∧ (tfeW convW).claimsAll (tfeUid 0) ∧ (tfeW qmxW).claimsAll (tfeUid 0)) ∧
    ([transW, convW, qmxW, idxW].all (fun w => (tfeW w).dispatches (tfeUid 0) (bits w 0 8) w.toNat) = true) ∧
    ([transW, convW, qmxW, idxW].map (fun w => bits w 0 8) = [0x10, 0x11, 0x12, 0x13] ∧ tfeIdxValid idxW = true ∧ transValid transW = true ∧
      convValid convW = true ∧ qmxValid qmxW = true ∧ (convSrc (bits convW 8 4)).isSome = true ∧ (convDst (bits convW 12 4)).isSome = true ∧
      (qmxSrc (bits qmxW 8 4)).isSome = true ∧ (qmxDst (bits qmxW 12 4)).isSome = true) ∧
    ((Rows.mk false 0 64 2 2).exist ∧ (Rows.mk false 0x1000 64 64 2).exist ∧ (Rows.mk false 0x1000 64 64 2).opened tfe (tfeUid 0) 0 ∧
      (Rows.mk false 0x1000 64 64 2).apart ⟨false, 0, 64, 2, 2⟩) := by
  refine ⟨fun _ => clean_of rfl, ⟨claimsAll_of (by decide +kernel), claimsAll_of (by decide +kernel), claimsAll_of (by decide +kernel)⟩,
    by decide +kernel, by decide +kernel, ?_, ?_, opened_of (by decide +kernel), ?_⟩
  · unfold Rows.exist
    decide
  · unfold Rows.exist
    decide
  · intro r q hr hq
    simp only at hr hq ⊢
    omega

/-- DOPEN, DFEED and DCLOSE of slot 1. -/
def dopenW : BitVec 256 := ins 256 [(0, 0x10), (1, 1), (4, 9)]
def dfeedW : BitVec 256 := ins 256 [(0, 0x11), (1, 0x1D), (4, 1)]
def dcloseW : BitVec 256 := ins 256 [(0, 0x12), (1, 1), (4, 0x2000)]

/-- The digest unit of cluster 0, its slot 1 open. -/
def dgu (w : BitVec 256) : State := { runW 0x20 w.toNat with dp := (runW 0x20 w.toNat).dp.setDgSlot 0 1 { opened := true, tag := 9 } }

theorem witness_DigestsAreOpenedFedAndClosed :
    ((dgu dopenW).dispatches (dguUid 0) 0x10 dopenW.toNat = true ∧ dopenValid dopenW = true) ∧
    ((dgu dfeedW).dispatches (dguUid 0) 0x11 dfeedW.toNat = true ∧ (dgu dfeedW).clean ∧ (dgu dfeedW).claimsAll (dguUid 0) ∧
      dfeedValid 0 dfeedW (dgu dfeedW).dp = true ∧ (dfeedFmt (bits dfeedW 10 4)).isSome = true ∧ (∀ o ∈ feedOffs dfeedW, o < 0x300000)) ∧
    ((dgu dcloseW).dispatches (dguUid 0) 0x12 dcloseW.toNat = true ∧ (dgu dcloseW).claimsAll (dguUid 0) ∧
      dcloseValid (dgu dcloseW).env 0 dcloseW (dgu dcloseW).dp = true ∧ bits dcloseW 32 22 < 0x300000 ∧
      (dgu dcloseW).env.mayWrite (dguUid 0) (clAddr 0 false (bits dcloseW 32 22)) = true ∧
      (∀ i < 64, (dgu dcloseW).dp.mem.inInk (clKey 0 false 0x2000 + i) = false)) := by
  refine ⟨by decide +kernel, ⟨by decide +kernel, clean_of rfl, claimsAll_of (by decide +kernel), by decide +kernel⟩,
    by decide +kernel, claimsAll_of (by decide +kernel), by decide +kernel⟩

/-- The package at work on the Brush of cluster 0, its next word `w`. -/
def tveW (w : BitVec 64) : State := runW 8 w.toNat
def tve : State := tveW 0

/-- SETVL of 1 and of 256 lanes; SETX and ADDX of X15; IDX; LOOP over 127 words, and over all 128. -/
def setvlW (n : Nat) : BitVec 64 := ins 64 [(0, 4), (1, n)]
def setxW : BitVec 64 := ins 64 [(0, 5), (1, 15), (4, 7)]
def addxW : BitVec 64 := ins 64 [(0, 6), (1, 15), (4, 7)]
def tveIdxW : BitVec 64 := ins 64 [(0, 8), (1, 0x10), (4, 7)]
def loopW (n : Nat) : BitVec 64 := ins 64 [(0, 7), (1, n), (2, 1)]

/-- LD and ST of format `f`, in rows of 4 lines. -/
def ldW (f : Nat) : BitVec 64 := ins 64 [(0, 0x10), (2, f), (6, 4)]
def stW (f : Nat) : BitVec 64 := ins 64 [(0, 0x11), (2, f), (6, 4)]

theorem witness_VectorEngineControlsAndMoves :
    ([setvlW 1, setvlW 256, setxW, addxW, tveIdxW, loopW 127, ldW 0, ldW 7, stW 0, stW 7].all (fun w =>
      (tveW w).dispatches (tveUid 0) (bits w 0 8) w.toNat) = true) ∧
    (setvlValid (setvlW 1) = true ∧ setvlValid (setvlW 256) = true ∧ anyBits setxW 13 19 = false ∧ anyBits addxW 16 16 = false ∧
      tveIdxValid tveIdxW (tve.dp.getBrush 0) = true ∧ ((tveW (loopW 127)).env.ofUnit (tveUid 0)).isSome = true ∧
      (tve.dp.getUnit (tveUid 0)).idx = 0 ∧ loopValid (loopW 127) 0 ((penv 8).segBytes (tveUid 0)) (tve.dp.getBrush 0).loops = true ∧
      loopValid (loopW 128) 0 ((penv 8).segBytes (tveUid 0)) (tve.dp.getBrush 0).loops = false) ∧
    (∀ f ∈ [0, 7], (ldFmt (bits (ldW f) 16 4)).isSome = true ∧ ldValid (ldW f) (tve.dp.getBrush 0) = true ∧
      stValid (stW f) (tve.dp.getBrush 0) = true) ∧
    ((tveW (ldW 7)).clean ∧ (tveW (ldW 7)).claimsAll (tveUid 0) ∧ (tveW (stW 7)).clean ∧ (tveW (stW 7)).claimsAll (tveUid 0) ∧
      (tileRows (ldW 7) (tve.dp.getBrush 0) 32).exist ∧ (tileRows (stW 7) (tve.dp.getBrush 0) 32).exist ∧
      (tileRows (stW 7) (tve.dp.getBrush 0) 32).opened (tveW (stW 7)) (tveUid 0) 0) := by
  refine ⟨by decide +kernel, by decide +kernel, by decide +kernel, clean_of rfl, claimsAll_of (by decide +kernel), clean_of rfl,
    claimsAll_of (by decide +kernel), ?_, ?_, opened_of (by decide +kernel)⟩
  · unfold Rows.exist
    decide +kernel
  unfold Rows.exist
  decide +kernel

theorem witness_VectorEngineComputesLanes :
    (∀ o ∈ [0x20, 0x21, 0x22, 0x23, 0x24, 0x25, 0x26, 0x27, 0x28, 0x29, 0x2A], (tveW (ins 64 [(0, o)])).dispatches (tveUid 0) o (ins 64 [(0, o)]).toNat = true) ∧
    (cvtValid (ins 64 [(0, 0x25)]) = true ∧ (tveW (ins 64 [(0, 0x25), (3, 0x70)])).dispatches (tveUid 0) 0x25 (ins 64 [(0, 0x25), (3, 0x70)]).toNat = true) ∧
    (∀ fn ∈ [0, 3, 5], (fopOf (bFN (ins 64 [(3, 16 * fn)]))).isSome = true ∧ bTC (ins 64 [(3, 16 * fn)]) = 0 ∧ anyBits (ins 64 [(3, 16 * fn)]) 32 32 = false) ∧
    ((funOf (bFN (ins 64 []))).isSome = true ∧ (cmpOf (bFN (ins 64 [(3, 0x80)]))).isSome = true ∧ (iopOf (bFN (ins 64 [(3, 0x80)]))).isSome = true ∧
      bFN (ins 64 [(3, 0x30)]) = 3 ∧ bits (ins 64 [(3, 0x30)]) 32 32 = 0 ∧ (Cvc.ofBits (bits (ins 64 [(3, 0x70)]) 32 4)).isSome = true ∧
      cvtValid (ins 64 [(3, 0x70)]) = true ∧ bFN (ins 64 [(3, 0x10)]) ≤ 1 ∧ bFN (ins 64 [(3, 0x20)]) ≤ 2 ∧ bits (ins 64 [(4, 2)]) 32 2 ≤ 2 ∧
      anyBits (ins 64 [(4, 2)]) 34 30 = false ∧ bFN (ins 64 [(3, 0x40), (4, 15)]) ≤ 4 ∧ anyBits (ins 64 [(3, 0x40), (4, 15)]) 36 28 = false) := by
  decide +kernel

/-! ### Witnesses: update units, edges, host link, power -/

/-- A package whose stroke is void. -/
def void : State := { run 0 with dp := { (run 0).dp with fr := { (run 0).dp.fr with voided := true } } }

/-- The package at work on the update unit of stack 0, its next word `w`, its slot 0 holding one copy of G into register 6. -/
def upuW (w : BitVec 512) : State :=
  let s := runW 0x2100 w.toNat
  { s with
    torus := (placed s).torus
    dp := ({ s.dp with mem := { s.dp.mem with
      areaAcc := 0x00000001#32
      areaStage := 0x00010001#32
      areaEmber := 0x00020002#32 } } : Dp).setUpu 0 (fun x => { x with slots := [(0, { len := 1, ops := List.replicate 14 0 })] }) }
def upu : State := upuW 0

/-- The same, with the gate of its partition. -/
def upuGate (g : Gate) (s : State) : State := { s with dp := s.dp.setPart 0 (fun q => { q with gate := g }) }

/-- A program of one micro-op, and one of none; a load of one constant; ARGS; UPD plain, staged and with write-back; STAT of one row; TAKE. -/
def progW : BitVec 512 := ins 512 [(0, 0x10), (2, 1), (8, 0)]
def badProgW : BitVec 512 := ins 512 [(0, 0x10)]
def cldW : BitVec 512 := ins 512 [(0, 0x11), (8, 0x1000)]
def argsW : BitVec 512 := ins 512 [(0, 0x12), (8, 7)]
def updW : BitVec 512 := ins 512 [(0, 0x13), (1, 4), (8, 0x1000), (16, 0x2000)]
def stgW : BitVec 512 := ins 512 [(0, 0x13), (1, 4), (2, 8), (8, 0x1000), (16, 2 ^ 26)]
def backW : BitVec 512 := ins 512 [(0, 0x13), (1, 4), (2, 0xC), (8, 0x1000), (16, 2 ^ 26)]
def statW : BitVec 512 := ins 512 [(0, 0x14), (1, 0xC4), (8, 0x1000), (40, 0x4000), (48, 0x5000)]
def takeW : BitVec 512 := ins 512 [(0, 0x15), (8, 0x1000)]
def openW : BitVec 512 := ins 512 [(0, 0x16)]
def sealW : BitVec 512 := ins 512 [(0, 0x17)]

/-- An operation parked since time 5, and its block resident. -/
def stgRun : UpRun := { (upu.dp.getUpu 0).issue stgW with since := some 5 }
def parkedUpd : State := { upu with dp := upu.dp.setUpu 0 (fun x => { x with ops := [stgRun] }) }
def staged : State := parkedUpd.onMem (fun m => { m with staged := [(64, 16384)] })

/-- Two such operations in flight; the link down. -/
def twoRuns (w : BitVec 512) : State := { upuW w with dp := (upuW w).dp.setUpu 0 (fun x => { x with ops := [stgRun, stgRun] }) }
def upuOff (w : BitVec 512) : State := { (upuW w).onMem (fun m => { m with staged := [(64, 16384)] }) with hp := unlinked.hp }

theorem inkClear_of {s : State} {j : Nat} {x : UpOp} (h : (updAreas x).all (fun a => (List.range a.2).all (fun i =>
    !(s.dp.mem.inInk (hbmKey j (s.dp.mem.ilv.toNat * 2 ^ 26 + (a.1 + i)))))) = true) : ∀ a ∈ updAreas x, ∀ o, a.1 ≤ o → o < a.1 + a.2 →
      s.dp.mem.inInk (hbmKey j (s.dp.mem.ilv.toNat * 2 ^ 26 + o)) = false := by
  intro a ha o h0 h1
  have g := List.all_eq_true.mp (List.all_eq_true.mp h a ha) (o - a.1) (by simp; omega)
  rw [show a.1 + (o - a.1) = o by omega] at g
  simpa using g

theorem viewOpen_of {s : State} {j k m : Nat} (h : ∀ i < m, s.dp.mem.inView (64 * (k + i)) = true ∧
      s.env.mayStore s.dp.mem (upuUid j) (localAddr j (64 * (k + i))) (.local_ j (64 * (k + i))) = true)
    (hi : ∀ i < 64 * m, s.dp.mem.inInk (hbmKey j (s.dp.mem.ilv.toNat * 2 ^ 26 + (64 * k + i))) = false) : viewOpen s j (64 * k) (64 * m) := by
  intro o h0 h1
  have e : o / 64 * 64 = 64 * (k + (o / 64 - k)) := by omega
  have f := h (o / 64 - k) (by omega)
  have g := hi (o - 64 * k) (by omega)
  have e2 : 64 * k + (o - 64 * k) = o := by omega
  rw [e2] at g
  rw [e]
  exact ⟨f.1, f.2, g⟩

theorem witness_UpdateUnitsUpdateMasters :
    (upuUid (0 : Fin 12).val = 0x2100 ∧ (upuW progW).dispatches 0x2100 0x10 progW.toNat = true ∧ progValid progW ((upuW progW).dp.getUpu 0) = true ∧
      (upuW badProgW).dispatches 0x2100 0x10 badProgW.toNat = true ∧ progValid badProgW ((upuW badProgW).dp.getUpu 0) = false ∧
      (upuW cldW).dispatches 0x2100 0x11 cldW.toNat = true ∧ cldValid cldW = true ∧
      ((upuW cldW).dp.getUpu 0).free ((upuW cldW).cldFoot 0 cldW) = true ∧
      (upuW argsW).dispatches 0x2100 0x12 argsW.toNat = true ∧ argsValid argsW = true) ∧ (∀ w, (upuW w).clean) ∧
    ([updW, stgW, backW].all (fun w => (upuW w).dispatches 0x2100 0x13 w.toNat && updValid w ((upuW w).dp.getUpu 0) (upuW w).dp.mem &&
      ((upuW w).dp.getUpu 0).free ((upOp w).foot 0x13) && !(upuW w).dp.fr.regen && !(gateSet (upuW w).env 0 (upuW w).dp) &&
      gateSet (upuGate .set (upuW w)).env 0 (upuGate .set (upuW w)).dp && !(((twoRuns w).dp.getUpu 0).free ((upOp w).foot 0x13)) &&
      (twoRuns w).dispatches 0x2100 0x13 w.toNat) = true) ∧
    ((upOp updW).stg = false ∧ (upOp updW).wb = false ∧ ((upuW stgW).dp.mem.short 0 (upOp stgW) 0).isSome = true ∧ (upOp backW).wb = true ∧
      (upuOff backW).hp.linkUp = false ∧ (upuW updW).hp.linkUp = true ∧ (upuOff backW).dispatches 0x2100 0x13 backW.toNat = true ∧
      updValid backW ((upuOff backW).dp.getUpu 0) (upuOff backW).dp.mem = true ∧ gateSet (upuOff backW).env 0 (upuOff backW).dp = false ∧
      ((upuOff backW).dp.getUpu 0).free ((upOp backW).foot 0x13) = true ∧ (upOp backW).blocks.all ((upuOff backW).dp.mem.resident 0) = true) ∧
    viewOpen (upuOff backW) 0 (64 * (2 ^ 26 / 64)) (64 * 4) := by
  refine ⟨by decide +kernel, fun _ => clean_of rfl, by decide +kernel, by decide +kernel, viewOpen_of (by decide +kernel) (by decide +kernel)⟩

theorem witness_updDone :
    (updAreas (upOp updW)).Pairwise (fun a b => a.1 + a.2 ≤ b.1 ∨ b.1 + b.2 ≤ a.1) ∧
    (∀ a ∈ updAreas (upOp updW), ∀ o, a.1 ≤ o → o < a.1 + a.2 →
      (upuW updW).dp.mem.inInk (hbmKey 0 ((upuW updW).dp.mem.ilv.toNat * 2 ^ 26 + o)) = false) ∧
    viewOpen (upuW updW) 0 (64 * (0x2000 / 64)) (64 * 4) ∧ (upOp updW).ven = false ∧ (upOp updW).wcen = false ∧ (upOp updW).chunks = 1 ∧
    (opRegs (upuW updW) 0 (((upuW updW).dp.getUpu 0).issue updW) 0).isSome = true :=
  ⟨by decide +kernel, inkClear_of (by decide +kernel), viewOpen_of (by decide +kernel) (by decide +kernel), by decide +kernel⟩

theorem witness_StatTakeAndResidentBlocks :
    ((upuW statW).dispatches 0x2100 0x14 statW.toNat = true ∧ statValid statW ((upuW statW).dp.getUpu 0) = true ∧
      ((upuW statW).dp.getUpu 0).free ((upOp statW).foot 0x14) = true ∧ (twoRuns statW).dispatches 0x2100 0x14 statW.toNat = true ∧
      ((twoRuns statW).dp.getUpu 0).free ((upOp statW).foot 0x14) = false ∧ (upOp statW).elems = 64 ∧
      ((upChunk (upuW statW).env 0 statW false false 0 (upuW statW).dp).1).isSome = true ∧
      (upOp statW).raddr + 64 * ceilDiv (upOp statW).rows 16 ≤ (upOp statW).caddr) ∧
    viewOpen (upuW statW) 0 (64 * (0x4000 / 64)) (64 * 1) ∧ viewOpen (upuW statW) 0 (64 * (0x5000 / 64)) (64 * 4) ∧
    ((upuW takeW).dispatches 0x2100 0x15 takeW.toNat = true ∧ takeValid takeW = true ∧ ((upuW takeW).dp.getUpu 0).free ((upOp takeW).foot 0x15) = true ∧
      (twoRuns takeW).dispatches 0x2100 0x15 takeW.toNat = true ∧ ((twoRuns takeW).dp.getUpu 0).free ((upOp takeW).foot 0x15) = false ∧
      (upuW takeW).dp.mem.inView 0x1000 = true ∧ (upuW takeW).dp.mem.inAcc (.local_ 0 0x1000) = true ∧
      (upuW takeW).env.mayWrite 0x2100 (localAddr 0 0x1000) = true) ∧
    ((void.dp.fr.voided = true) ∧ (parkedUpd.dp.getUpu 0).ops = [stgRun] ∧ stgRun.resumes parkedUpd.dp.mem 0 64 = false ∧
      (staged.dp.getUpu 0).ops = [stgRun] ∧ stgRun.resumes staged.dp.mem 0 64 = true ∧ (upOp stgW).blocks.all (staged.dp.mem.resident 0) = true ∧
      staged.dp.fr.voided = false ∧ staged.dp.fr.jobStop = none ∧ (opRegs staged 0 stgRun 0).isSome = true) ∧ staged.clean ∧
    viewOpen staged 0 (64 * (2 ^ 26 / 64)) (64 * 4) := by
  refine ⟨by decide +kernel, viewOpen_of (by decide +kernel) (by decide +kernel), viewOpen_of (by decide +kernel) (by decide +kernel),
    by decide +kernel, by decide +kernel, clean_of rfl, viewOpen_of (by decide +kernel) (by decide +kernel)⟩

/-- An ember line for slot offset 64 of stack 0, and a tally line of parity 1, from the SRCDIR neighbour. -/
def emberK : Packet := pkt 5 64 0 0 [7]
def tallyK : Packet := pkt 5 128 (BitVec.ofNat 64 (2 ^ 36 + 2 ^ 37)) 0 [7]
def opened : State := { upuW sealW with dp := (upuW sealW).dp.setUpu 0 (fun x => { x with openIssued := true, opened := true }) }
def opening : State := upuW openW

theorem witness_EmberSlotsAreOpenedSealedAndFilled :
    (opening.dispatches (upuUid (0 : Fin 12).val) 0x16 openW.toNat = true ∧ openValid 0 openW opening.dp = true ∧ emberGated opening.env 0 opening.dp = false ∧
      (upuGate .set opening).dispatches 0x2100 0x16 openW.toNat = true ∧ openValid 0 openW (upuGate .set opening).dp = true ∧
      emberGated (upuGate .set opening).env 0 (upuGate .set opening).dp = true ∧
      upu.torus.emberDir < 6 ∧ upu.dp.mem.slotBytes ≠ 0) ∧
    (opened.dispatches (upuUid 0) 0x17 sealW.toNat = true ∧ sealValid 0 sealW opened.dp = true ∧ emberGated opened.env 0 opened.dp = false ∧
      (upuGate .set opened).dispatches 0x2100 0x17 sealW.toNat = true ∧ sealValid 0 sealW (upuGate .set opened).dp = true ∧
      emberGated (upuGate .set opened).env 0 (upuGate .set opened).dp = true) ∧
    ((inbox [emberK] upu).torus.inbox.contains emberK = true ∧ emberK.typ = 5 ∧ upu.torus.hop emberK.spod emberK.spkg ≠ .local_ ∧
      emberK.tag.getLsbD 36 = false ∧ upu.torus.fromSource emberK = true ∧ bits emberK.tag 32 4 = 0 ∧ emberK.lines[0]? = some 7 ∧
      emberK.addr + 64 * 0 < upu.dp.mem.slotBytes) ∧
    (tallyK.typ = 5 ∧ tallyK.tag.getLsbD 36 = true ∧ upu.torus.fromSource tallyK = true ∧ tallyK.lines[0]? = some 7 ∧ tallyK.addr / 64 + 0 < 677 ∧
      upu.torus.inbox = []) := by decide +kernel

/-- Every edge end in a state; end 0 has failed `n` replays of slot 63 of module 15. -/
def edges (st : EdgeState) (n : Nat) : State :=
  { up with edge := { up.edge with ends := (List.range 8).map (fun i => (i, { state := st, fails := if i = 0 then [(1023, n)] else [] })) } }

theorem witness_EdgesTrainRetryAndFail :
    (((edges .down 0).edge.endAt (0 : Fin 8).val).state ≠ .live ∧ ((edges .live 15).edge.endAt 0).state = .live ∧
      ((edges .live 15).edge.endAt 0).fails.get 0 (64 * (15 : Fin 16).val + (63 : Fin 64).val) < 16 ∧
      16 ≤ ((edges .live 16).edge.endAt 0).fails.get 0 (64 * 15 + 63) ∧ (edges .live 16).edge.faulted = false) ∧
    ((Loc.iview 6 0).home = 2 ∧ (Loc.sram 511 0).home = 3) ∧
    (((edges .training 0).edge.endAt 0).state = .training ∧ trainGood (0x210#32 &&& 0xFFFF03FF#32) (0x210#32 &&& 0xFFFF03FF#32) = true ∧
      trainGood (0x210#32 &&& 0xFFFF03FF#32) (0x20F#32 &&& 0xFFFF03FF#32) = false) ∧
    (∃ s : State, s.edge.failed = true ∧ 2 ≤ s.edge.freset.toNat) ∧ up.edge.failed = false :=
  ⟨by decide +kernel, by decide +kernel, by decide +kernel, ⟨{ up with edge := { up.edge with failed := true, freset := 2 } }, by decide +kernel⟩, by decide +kernel⟩

theorem witness_HostLinkFollowsItsPins :
    ((up.dp.fr.hold || up.dp.fr.pendHold) = false ∧ up.dp.fr.voided = false ∧ up.dp.fr.open_ = [] ∧ up.dp.fr.jobStop = none ∧
      (∃ s : State, (s.dp.fr.hold || s.dp.fr.pendHold) = true)) ∧
    (up.hp.linkUp = true ∧ State.reset.hp.linkUp = false ∧ State.reset.bu.ready = false ∧ up.bu.ready = true ∧ up.bu.perst = false) :=
  ⟨⟨by decide +kernel, by decide +kernel, by decide +kernel, by decide +kernel, { up with dp := { up.dp with fr := { up.dp.fr with hold := true } } }, rfl⟩,
    by decide +kernel⟩

/-- A droop of depth `n` in region 0; a region whose supply has not yet risen. -/
def droopAtDepth (n : Nat) : State := { up with pw := { up.pw with droop := [(0, n)] } }
def drooping : State := droopAtDepth 1
def rising : State := { drooping with pw := { drooping.pw with
  mv := [(0, 800)]
  uv := [(0, 700000)]
  uvAt := 1000000 } }

/-- An energy total of 1 µJ since the last trim. -/
def metered : State := { up with pw := { up.pw with trimPj := 1000000 } }

theorem witness_DamperMeasuresTrimsAndForecasts :
    (up.pw.trimPj = 0 ∧ metered.pw.trimPj ≠ 0 ∧ 100 * (0 * 1000000) < 85 * metered.pw.trimPj ∧ 115 * metered.pw.trimPj < 100 * (2 * 1000000) ∧
      85 * metered.pw.trimPj ≤ 100 * (1 * 1000000) ∧ 100 * (1 * 1000000) ≤ 115 * metered.pw.trimPj) ∧
    (State.reset.bu.ready = false ∧ up.bu.ready = true ∧ up.regionIdle (0 : Fin 64).val < 2 ∧ up.pw.droop.get 0 0 = 0 ∧ drooping.pw.droop.get 0 0 ≠ 0 ∧
      drooping.supplyLow 0 < 25 ∧ 25 ≤ rising.supplyLow 0 ∧ max 25 (up.supplyLow 0) = 25 ∧ max 50 ((droopAtDepth 3).supplyLow 0) = 50 ∧
      (droopAtDepth 3).pw.droop.get 0 0 = 3 ∧ (droopAtDepth 3).regionIdle 0 < 2) ∧
    ((∀ r, r < 64 → (List.replicate 64 114).getD r 0 < 115) ∧ 115 ≤ (List.replicate 64 115).getD 63 0 ∧ up.pw.tripped = false ∧
      (List.replicate 64 105).getD 0 0 = 105 ∧ (List.replicate 64 100).getD 0 0 = 100 ∧ up.dp.fr.open_ = [] ∧ up.dp.fr.jobStop = none) := by
  decide +kernel

/-- An idle package whose partition 0 has wake latency 40 µs, in idle state `n`. -/
def idle (n : Nat) : State :=
  let s := { up with
    scr := { up.scr with parts := [(0, { dies := 0xF, qmask := 0xFFFF, lat := 40000 })] }
    pw := { up.pw with
      idle := [(0, n)]
      coldOk := true } }
  { s with edge := (edges .live 0).edge }

theorem witness_IdleStatesDeepenAndWake :
    ((idle 0).mayIdle (0 : Fin 4).val 1 = true ∧ (idle 0).mayIdle 0 2 = false ∧ (idle 1).mayIdle 0 2 = true ∧ (idle 1).mayIdle 0 1 = false) ∧
    (((idle 2).pw.coldOk = true ∧ (idle 2).pw.cold = false ∧ ∀ p, p < 4 → ((idle 2).getPartn p).dies ≠ 0 →
      (idle 2).partIdle p = true ∧ (idle 2).idleOf p = 2 ∧ 40000 ≤ ((idle 2).getPartn p).lat.toNat ∧ (idle 2).pw.waking.get none p = none) ∧
      up.pw.coldOk = false) ∧
    (up.pw.waking.get none (0 : Fin 4).val = none ∧ (up.pw.cold = false)) ∧
    (∃ s : State, s.pw.waking.get none 0 = some 0 ∧ s.pw.cold = true ∧ ∀ i, i < 8 → (s.edge.endAt i).state = .live) ∧
    (∃ s : State, s.pw.waking.get none 0 = some 0 ∧ s.pw.cold = true ∧ ∃ i, i < 8 ∧ (s.edge.endAt i).state ≠ .live) ∧
    ((idle 0).idleOf 0 = 0 ∧ (idle 1).idleOf 0 ≠ 0 ∧ (idle 1).pw.cold = false) ∧ (∃ s : State, s.idleOf 0 ≠ 0 ∧ s.pw.cold = true ∧ s.pw.waking.all (fun x => x.2.isNone) = true) := by
  let c : EdgeState → State := fun st => { edges st 0 with pw := { up.pw with
    cold := true
    idle := [(0, 3)]
    waking := [(0, some 0)] } }
  exact ⟨by decide +kernel, by decide +kernel, by decide +kernel, ⟨c .live, by decide +kernel⟩, ⟨c .training, by decide +kernel⟩, by decide +kernel,
    ⟨{ c .down with pw := { (c .down).pw with waking := [] } }, by decide +kernel⟩⟩

/-! ### Witnesses: recorder, faults, management -/

/-- The package with record 5 held for the host, and an event of stack 0 that waits to be spilt into an inkwell of 64 MiB. -/
def spilling : State := { up with dp := { up.dp with
  mem := { up.dp.mem with ink := 1 }
  log := { up.dp.log with
    spillQ := [(0, [7])]
    held := [1]
    hold := [(1, 0)] } } }

theorem witness_RecorderBucketsHoldsAndTraces :
    up.dp.log.ready = true ∧ 1 ∈ spilling.dp.log.held ∧ spilling.dp.log.held.find? (fun k => recSeq (spilling.dp.log.hold.get 0 k) == 0) = some 1 ∧
      recSeq (spilling.dp.log.hold.get 0 1) ≠ 1 ∧ hasRing ((0x2000#32).toNat % 2 ^ 16) = true ∧ hasRing ((0xFFFF#32).toNat % 2 ^ 16) = false ∧
      up.dp.log.frozen = false ∧ ({ up.dp.log with frozen := true } : Log).frozen = true ∧ up.dp.log.spillQ.get [] 0 = [] ∧
      spilling.dp.log.frozen = false ∧ spilling.dp.log.spillQ.get [] (0 : Fin 12).val = [7] ∧ spilling.dp.mem.ink ≠ 0 ∧
      (up.onMem (fun m => { m with ink := 0 })).dp.mem.ink = 0 := by decide +kernel

/-- A package that asks its holder for lines of stacks 0 and 1. -/
def restores : State := { upu with dp := { upu.dp with fr := { upu.dp.fr with
  restoring := true
  awaited := [(0, 2), (1, 2)]
  rsplit := 1 } } }

/-- A request for two lines of stack 0, one for two lines of the tally, and the two lines answered. -/
def rdK : Packet := pkt 6 64 (BitVec.ofNat 64 (2 * 2 ^ 40)) 0 []
def rdTallyK : Packet := pkt 6 64 (BitVec.ofNat 64 (2 * 2 ^ 40 + 2 ^ 37)) 0 []
def dataK : Packet := pkt 7 64 0 0 [7, 8]
def strangerK : Packet := ⟨mkHdr 6 0 0 0 0 0 0 0 9 7 64 (BitVec.ofNat 64 (2 * 2 ^ 40)) 0, []⟩

theorem witness_VoidedStrokesReplayOrRecover :
    (up.dp.fr.mayReplay = false ∧ void.dp.fr.mayReplay = true ∧ void.pw.tripped = false ∧ void.partOfDie 0 = some 0 ∧
      (void.getPartn 0).launch = some go ∧ go.began = true ∧ (up.getPartn 0).launch = none ∧ up.partOfDie 0 = some 0) ∧
    (up.answers = true ∧ 24 ≤ (pay 24 [(0, 7)]).length ∧ up.launched = false ∧ (run 0).launched = true ∧ (run 0).dp.fr.voided = false ∧ (run 0).answers = true) ∧
    (upu.torus.inbox = [] ∧ strangerK.typ = 6 ∧ (inbox [strangerK] upu).torus.fromSource strangerK = false) ∧
    ((∀ k ∈ [rdK, rdTallyK], k.typ = 6 ∧ (inbox [k] upu).torus.inbox.contains k = true ∧ upu.torus.fromSource k = true ∧
      upu.torus.hop k.spod k.spkg ≠ .local_ ∧ recovStack k < 12 ∧ k.addr % 64 = 0 ∧ 1 ≤ recovLines k ∧ recovLines k ≤ 64 ∧
      (if recovTally k then k.addr / 64 + recovLines k ≤ 677 else k.addr + 64 * recovLines k ≤ upu.dp.mem.slotBytes)) ∧
      recovTally rdK = false ∧ recovTally rdTallyK = true) ∧
    (dataK.typ = 7 ∧ (inbox [dataK] restores).torus.inbox.contains dataK = true ∧ restores.hp.linkUp = true ∧ upu.dp.fr.restoring = false ∧
      recovTally dataK = false ∧ recovStack dataK = 0 ∧ restores.dp.fr.restoring = true ∧ restores.dp.fr.awaited.get 0 0 ≠ 0 ∧
      restores.dp.fr.awaited.get 0 1 ≠ 0 ∧ dataK.lines[1]? = some 8 ∧ dataK.addr % 64 = 0 ∧ dataK.addr + 64 * 1 + 64 ≠ restores.dp.mem.slotBytes ∧
      dataK.addr + 64 * 1 < restores.dp.fr.rsplit.toNat * 2 ^ 26 ∧
      restores.dp.mem.at48 (restores.dp.fr.homeOf 0 (dataK.addr + 64 * 1)) = some (.local_ 0 128)) ∧
    (State.reset.bu.booted = false ∧ up.bu.dark = false ∧ up.bu.booted = true ∧ up.dp.fr.open_ = [] ∧ up.dp.fr.jobStop = none) := by decide +kernel

/-- The package in lifecycle state `n`, with no transition pending. -/
def life (n : BitVec 3) : State := { up with sec := { up.sec with
  lc := n
  pend := 7
  version := some 12 } }

/-- A package without power, and one that has not booted. -/
def dark : State := { up with bu := { up.bu with dark := true } }

theorem witness_ManagementRequestsAreAnswered :
    (dark.bu.dark = true ∧ up.bu.dark = false ∧ State.reset.bu.dark = false ∧ State.reset.bu.booted = false) ∧
    (up.answers = true ∧ (pay 3 []).length < 4 ∧ sealReadOk (pay 6 [(0, 12)]) = false ∧ sealReadOk (pay 6 [(2, 1), (4, 676)]) = true ∧
      plAt (pay 6 [(2, 1), (4, 676)]) 2 1 = 1 ∧ sealReadOk (pay 6 [(0, 11), (1, 1)]) = true ∧ plAt (pay 6 [(0, 11), (1, 1)]) 2 1 = 0 ∧
      upu.answers = true ∧ upu.dp.mem.slotBytes ≠ 0 ∧ 4 ≤ (pay 4 [(0, 5)]).length ∧
      (spilling.dp.log.held.filter (fun k => decide ((recSeq (spilling.dp.log.hold.get 0 k) - BitVec.ofNat 32 0).toNat < 2 ^ 31))).length = 1) ∧
    upu.clean ∧
    (knownCmd 0x3F = false ∧ (∀ n ∈ [1, 2], (life n).launched = false ∧ (life n).sec.pend = 7 ∧ (life n).sec.lc = n) ∧ (run 0).launched = true ∧
      ({ life 1 with sec := { (life 1).sec with pend := 2 } } : State).sec.pend ≠ 7 ∧ 160 ≤ (pay 160 [(4, 2)]).length ∧ (pay 159 []).length < 160 ∧
      plAt (pay 160 [(4, 2)]) 4 1 = 2) ∧
    (up.sec.xfer = none ∧ (∃ s : State, s.bu.dark = false ∧ s.sec.xfer = some ⟨0, 4⟩) ∧ up.launched = false) := by
  refine ⟨by decide +kernel, by decide +kernel, clean_of rfl, by decide +kernel, by decide +kernel,
    ⟨{ up with sec := { up.sec with xfer := some ⟨0, 4⟩ } }, by decide +kernel⟩, by decide +kernel⟩

/-- The package in Deployed with four sessions, the first secured over DOE. -/
def sessions : State := { life 1 with sec := { (life 1).sec with sessions := [⟨1, true, true, 0⟩, ⟨2, true, false, 0⟩, ⟨3, false, true, 0⟩, ⟨4, false, false, 0⟩] } }

theorem witness_AttestationFollowsTheSession :
    (dark.bu.dark = true ∧ State.reset.bu.booted = false ∧ up.bu.dark = false ∧ up.bu.booted = true ∧ up.sec.version = none) ∧
    ((life 1).bu.dark = false ∧ (life 1).bu.booted = true ∧ (life 1).sec.version = some 12 ∧ (life 1).sec.lc = 1 ∧ (life 2).sec.lc = 2 ∧
      (life 3).sec.lc ≠ 1 ∧ (life 3).sec.lc ≠ 2 ∧ (life 1).sec.sess 1 = none ∧ (life 1).sec.sessions = []) ∧
    ((sessions.sec.sess 1).map (fun x => (x.secured, x.doe)) = some (true, true) ∧ (sessions.sec.sess 2).map (fun x => (x.secured, x.doe)) = some (true, false) ∧
      (sessions.sec.sess 3).map (fun x => x.secured) = some false ∧ sessions.sec.ideKeys = [] ∧
      ∀ i, 1 ≤ i → i ≤ 4 → ∃ x ∈ sessions.sec.sessions, x.id = i) ∧
    (((life 1).measure 3).isSome = true) := by
  refine ⟨by decide +kernel, by decide +kernel, ⟨by decide +kernel, by decide +kernel, by decide +kernel, by decide +kernel, ?_⟩, rfl⟩
  intro i h0 h4
  have : i = 1 ∨ i = 2 ∨ i = 3 ∨ i = 4 := by omega
  rcases this with rfl | rfl | rfl | rfl <;> decide +kernel
/-! ### Witnesses: self-tests, board, invariants -/

/-- A service stroke that names region 0, of 400 µs, and the power budget of one test. -/
def svc : State :=
  let s := run 8
  { s with
    scr := { s.scr with slots := [(0, some { img 8 with data := (img 8).data + packBytes [(0xC2, 1), (0xC8, 1)] })] }
    clk := { s.clk with
      sstart := 1000000
      period := 400 }
    st := { s.st with budget := 1000 } }

/-- The same, under way for 20 µs. -/
def svc20 : State := { svc with clk := { svc.clk with tb := 1020000 } }

/-- A self-test of unit `u` in a descriptor, and the package with it as the first of queue 0. -/
def testD (code u : Nat) : BitVec 512 := desc [(0, 0x34), (8, u), (10, code)]
def test (u code : Nat) : Test := ⟨0, 0, u, code, 0, false, testNs code, false, none⟩
def tested (l : List Test) (s : State) : State := { s with st := { s.st with tests := l } }

/-- The package in manufacturing test, where SCANDUMP runs. -/
def inTest : State := { up with sec := { up.sec with lc := 0 } }

theorem witness_SelfTestsRunWhenSafe :
    ([(1, 0x2500), (2, 0x2501), (3, 0x250F), (4, 0x2500), (16, 0x2200), (17, 0x2202), (32, 0x2305), (48, 0x2500)].all (fun x =>
      startsB (enq 80 (testD x.1 x.2) inTest) 80 0x34 (testD x.1 x.2) && headerOk (testD x.1 x.2) && unitExists x.2 && testSuits x.1 x.2 &&
      bits (testD x.1 x.2) 88 424 == 0 && bits (testD x.1 x.2) 80 8 == x.1 && bits (testD x.1 x.2) 64 16 == x.2 &&
      (enq 80 (testD x.1 x.2) inTest).st.undecided.isEmpty && !(testWaits (enq 80 (testD x.1 x.2) inTest) x.2) &&
      ((enq 80 (testD x.1 x.2) inTest).testRefusal x.2 x.1).isNone) = true) ∧
    (unitExists 0x2701 = false ∧ testSuits 1 0x2200 = false ∧ (enq 80 (testD 16 0x2200) (placed up)).testRefusal 0x2200 16 = some 5 ∧
      testWaits (enq 0 (testD 1 0x2500) svc) 0x2500 = true ∧ startsB (enq 80 (testD 1 0x2500) svc) 80 0x34 (testD 1 0x2500) = true ∧
      (up.getQ 80).fetched = [] ∧ up.testLaunched 0x2500 = false) ∧
    (svc20.servicedRegion (0 : Fin 64).val = true ∧ svc20.testLaunched (regionUid 0) = true ∧ regionUid 0 = 0x2500 ∧ testNs 1 ≠ 0 ∧
      svc20.dp.fr.voided = false ∧ svc20.passFits 1 = true ∧ up.servicedRegion 0 = false ∧
      (tested [{ test 0x2500 1 with underLaunch := true }] svc20).st.tests.find? (fun y => y.unit == regionUid 0 && y.underLaunch) =
        some { test 0x2500 1 with underLaunch := true }) ∧
    ((tested [{ test 0x2200 0x10 with powered := true }] up).st.tests.find? (fun t => t.unit == (0x2200#16).toNat) =
        some { test 0x2200 0x10 with powered := true } ∧ up.st.tests = []) ∧
    (svc.st.undecided = [] ∧ (tested [test 0x2500 1] svc).st.tests.find? (fun t => !t.powered && !(t.underLaunch && svc.testLaunched t.unit)) =
        some (test 0x2500 1) ∧ (tested [test 0x2500 1] svc).budgetOk 1 = true ∧ svc.clk.running = true ∧ (tested [test 0x2500 1] svc).upAt 1 < 2 ^ 64) ∧
    (({ svc with st := { svc.st with undecided := [⟨0, 0, 0x2500, 1⟩] } } : State).st.undecided.find? (fun x => x.unit == (0x2500#16).toNat) =
        some ⟨0, 0, 0x2500, 1⟩ ∧ (svc.advance (svc.clk.sstart.toNat + 10000)).testRefusal 0x2500 0x10 ≠ none) := by decide +kernel

/-- A package whose rails may rise, and one whose edges have trained. -/
def rails : State := { State.reset with bu := { State.reset.bu with
  stage := .waitEn
  refOk := true
  pwrEn := true } }
def trained : State := { edges .live 0 with bu := { up.bu with stage := .train } }

theorem witness_BoardEventsAndResets :
    (dark.bu.dark = true ∧ up.bu.dark = false ∧ (4399 : BitVec 16).toNat < 4400 ∧ 6400 < (6401 : BitVec 16).toNat ∧
      ¬ ((5399 : BitVec 16).toNat < 4400 ∨ (6400 < (5399 : BitVec 16).toNat ∧ 1 ≤ 10000) ∨
        (5000 ≤ (5399 : BitVec 16).toNat ∧ (5399 : BitVec 16).toNat < 5400 ∧ 10000 < 10000)) ∧
      (4400 : BitVec 16).toNat < 5000 ∧ up.bu.mainOn = true ∧ State.reset.bu.mainOn = false ∧ railsMayRise rails ∧ rails.bu.pwrEn = true ∧
      ¬ (railsMayRise up ∧ up.bu.pwrEn = true) ∧ 8000 < (8001 : BitVec 16).toNat ∧ (6800 : BitVec 16).toNat ≤ 6800) ∧
    (trained.bu.stage = .train ∧ (∀ i, i < 8 → (trained.edge.endAt i).state = .live) ∧ up.edge.faulted = false ∧
      up.sec.fwSvn.toNat ≤ up.sec.svn.toNat ∧ (∃ s : State, s.sec.svn.toNat < s.sec.fwSvn.toNat ∧ s.sec.fwSvn.toNat ≤ 64)) ∧
    (State.reset.bu.booted = false ∧ up.bu.booted = true ∧ up.bu.ready = true ∧ trained.bu.ready = false ∧ trained.bu.stage ≠ .defect ∧
      plAt (pay 1 [(0, 2)]) 0 1 = 2 ∧ plAt (pay 1 [(0, 3)]) 0 1 = 3 ∧ (pay 1 [(0, 1)]) ≠ []) ∧
    (up.pw.cold = false ∧ ∃ s : State, s.bu.dark = false ∧ s.pw.cold = true) :=
  ⟨by unfold railsMayRise; decide +kernel, ⟨by decide +kernel, by decide +kernel, by decide +kernel, by decide +kernel,
    ⟨{ up with sec := { up.sec with fwSvn := 64 } }, by decide +kernel⟩⟩, by decide +kernel, by decide +kernel,
    { up with pw := { up.pw with cold := true } }, by decide +kernel⟩

theorem witness_EveryStepKeepsTheLifecycleLegal :
    (∃ t, step { up with pending := [.rateBucketEnd] } = .next t) ∧ up.sec.legal = true ∧ State.reset.sec.legal = true ∧ Memory.wf up.dp.mem = true :=
  ⟨⟨_, rfl⟩, by decide +kernel⟩

/-! ### The spec's worked examples, one step or one computation each -/

/-- R202, R267: a group with one active lane that holds a NaN with a payload gives the canonical NaN. -/
theorem test_red_of_one_nan : redResult { tiles := [(9, 0xFFA00001#8192 <<< 64)], pvl := 18 } 0 1 9 2 = 0x7FC00000#32 := by decide +kernel

/-- R66, R67 (03_determinism_contract.md, six ranks in BF16): 260. -/
theorem test_canonical_tree_of_six : canonicalReduce (combine .bf16) 6 [0x4380, 0x3F80, 0x3F80, 0x3F80, 0x3F80, 0] = 0x4382 := by decide +kernel

/-- R88, R89 (04_memory_and_addresses.md, Corvel-22): address 0x0123_4000 is served by stack 8 at offset 0x0018_4000. -/
theorem test_interleaved_address : up.dp.mem.at48 0x1234000 = some (.iview 8 0x184000) := by decide +kernel

/-- R86 (the same example): the local view of stack 5 starts at 0x0110_0000_0000. -/
theorem test_local_view_address : localAddr 5 0 = 0x11000000000 := by decide +kernel

/-- R239 (09_slant_dma_and_format_engine.md, one E2M1 block): 7.5, 3.2 and −0.3 under FLOOR and FIT. -/
theorem test_e2m1_block : [false, true].map (fun fit => let r := mxBlock .e2m1 ⟨.rne, false⟩ fit (fun _ => 0) 0 [Fmt.fp32.decode 0x40F00000,
    Fmt.fp32.decode 0x404CCCCD, Fmt.fp32.decode 0xBE99999A]; (r.1, r.2.map (·.1.bits))) = [(127, [0x7, 0x5, 0x9]), (128, [0x6, 0x3, 0x8])] := by
  decide +kernel

/-- R297, R298 (12_update_unit.md, Linnet-9): master 1.0, moment 0.5 and gradient 0.75 give the master 0x3F7F_DD80. -/
theorem test_linnet_update : (runUops [0x000048C2#32, 0x00614443#32, 0x000140E2#32, 0x0070CD03#32, 0x00040421#32]
    ([0x3F400000#32, 0x3F800000#32, 0x3F000000#32] ++ List.replicate 13 0 ++ [0x3A800000#32, 0x3F600000#32, 0x3E000000#32, 0x37000000#32] ++
      List.replicate 12 0)).getD 1 0 = 0x3F7FDD80#32 := by decide +kernel

/-- R288 (the same example): its BF16 working copy is 1.0. -/
theorem test_linnet_copy : (Fmt.bf16.conv ⟨.rne, false⟩ 0 (Fmt.fp32.decode 0x3F7FDD80)).bits = 0x3F80 := by decide +kernel

/-- R353 (14_collectives.md, eight ranks, shard 5): member 1 takes passes 1, 2 from ranks 0 and 3 and sends to rank 5. -/
theorem test_scatter_plan : (flPlan 8 5 1).length = 3 ∧ (recvSteps (flPlan 8 5 1)).length = 2 ∧ (sendStep (flPlan 8 5 1)).map (·.peer) = some 5 ∧
    (recvSteps (flPlan 8 5 1)).map (·.peer) = [0, 3] ∧ (recvSteps (flPlan 8 5 7)).map (·.peer) = [6] ∧
    (recvSteps (flPlan 8 5 5)).map (·.peer) = [4, 7, 1] := by decide +kernel

/-- R57 (02_strokes_and_time.md, Hesper-12): P′ at STRETCH 2 is 450,000 ns. -/
theorem test_stretched_period : stretched 400 2 = 450000 := by decide

/-- R98, R147 (POST and WAIT): one step of unit 0 adds to a counter of unit 7 of its cluster. -/
theorem test_post_counts : (match step { runW 0 postW.toNat with pending := [decodeUnit 0 postW] } with
    | .next t => ((t.dp.getUnit 0).idx, ((t.dp.getUnit (cuid 0 3 7)).cnt.get 0 0).toNat, t.pending.length)
    | _ => (9, 9, 9)) = (1, 65535, 0) := by decide +kernel

/-- R16, R152: the same command changes nothing where another word stands in the segment. -/
theorem test_post_of_another_word : (match exec (.post 0 postW) (run 0) with
    | .next t => ((t.dp.getUnit 0).idx, ((t.dp.getUnit (cuid 0 3 7)).cnt.get 0 0).toNat)
    | _ => (9, 9)) = (0, 0) := by decide +kernel

/-- R178, R220, R234, R251, R295, R349, R420: a word's low byte picks its command; a reserved opcode is a NOP. -/
theorem test_opcodes : decodeUnit 0 0x11#512 = .mma 0 0x11#128 ∧ decodeUnit 0x4049 0x1F20#512 = .fop 129 0x1F20#64 ∧
    decodeUnit 0x10 0x12#512 = .qmx 0 0x12#256 ∧ decodeUnit 0x1F 0x14#512 = .put 0 7 0x14#256 ∧ decodeUnit 0x20 0x11#512 = .dfeed 0 0x11#256 ∧
    decodeUnit 0x6000 0x16#512 = .vote 1 0x16#512 ∧ decodeUnit 0x6102 0x17#512 = .seal 5 0x17#512 ∧ decodeUnit 8 0x302#512 = .post 8 0x302#512 ∧
    decodeUnit 0x18 0x40#512 = .nop 0x18 0x40#512 := by decide +kernel

/-- R372: between opposite dies address bit 12 picks edge end 0's way or edge end 1's; what has no address goes out of end 0. -/
theorem test_routes : edgeRoute 0 2 (some 0x0FFF) = [0, 2] ∧ edgeRoute 0 2 (some 0x1000) = [1, 7] ∧ edgeRoute 3 1 none = [6, 0] ∧
    edgeRoute 3 2 (some 0) = [7] := by decide
end Sys2Proof.Tests
end

section
/-! Reads of setup-space registers (R13, R36): what a read clears, what it latches, and what it leaves as it is. -/

namespace Sys2Proof.Machine

/-! ### What a read clears -/

/-- R445: the RC registers of the fault block. -/
def rcFault : List Nat := [0x44C, 0x464, 0x468, 0x46C]
/-- R470: those of the self-test block. -/
def rcTest : List Nat := [0x4DC, 0x4E0, 0x4E4]
/-- R403: those of the power block. -/
def rcPower : List Nat := [0x830, 0x834, 0x838]
/-- R423, R424: those of the Scroll and trace blocks. -/
def rcRecorder : List Nat := [0xA1C, 0xA20, 0xA24, 0xA54]
/-- R60: those of the time and stroke block. -/
def rcTime : List Nat := [0x1030, 0x1034, 0x103C]
/-- R83: those of the contract block. -/
def rcContract : List Nat := [0x1044, 0x104C]
/-- R111: those of the memory block. -/
def rcMemory : List Nat := [0x1098, 0x109C, 0x10A8]
/-- R344: those of the torus block. -/
def rcTorus : List Nat := [0x128C, 0x1290, 0x1294, 0x1298, 0x129C, 0x12A0]
/-- R381: those of the die-to-die block. -/
def rcEdge : List Nat := [0x13D0, 0x13D4, 0x13D8, 0x13DC]

/-- The RC registers that are neither a unit's measuring counter nor a code count (R427, from 0xC00 on). -/
def rcBlocks : List Nat := rcFault ++ rcTest ++ rcPower ++ rcRecorder ++ rcTime ++ rcContract ++ rcMemory ++ rcTorus ++ rcEdge

/-- Offsets of the measuring counters of the unit blocks (`State.perfAt`, and the digest unit's at 0xA90). -/
def rcUnits : List Nat :=
  [0xA90, 0x1118, 0x111C, 0x1120, 0x1150, 0x1154, 0x1158, 0x115C, 0x1198, 0x119C, 0x11A0, 0x11E4, 0x11E8, 0x1258, 0x125C, 0x126C, 0x1270,
   0x1274, 0x12E4, 0x12E8, 0x12EC, 0x12F0, 0x12F4]

theorem State.perfAt_eq_none (s : State) {o : Nat} (h : o ∉ rcUnits) : s.perfAt o = none := by
  simp only [rcUnits, List.mem_cons, List.not_mem_nil, or_false, not_or] at h
  simp [State.perfAt, h]

theorem State.clearRc_eq (s : State) {o : Nat} (h : o ∉ rcUnits) :
    s.clearRc o = if o < 0x1000 then s.clearLow o else s.clearMid o := by
  rw [State.clearRc, s.perfAt_eq_none h]

theorem State.clearLow_eq_self (s : State) {o : Nat} (hu : o ∉ rcUnits) (hb : o ∉ rcBlocks) (hc : o < 0xC00) : s.clearLow o = s := by
  unfold State.clearLow
  split
  case h_15 => exact absurd (by decide) hu
  case h_16 => exact if_neg (by omega)
  all_goals exact absurd (by decide) hb

theorem State.clearMid_eq_self (s : State) {o : Nat} (hb : o ∉ rcBlocks) : s.clearMid o = s := by
  unfold State.clearMid
  split
  case h_19 => rfl
  all_goals exact absurd (by decide) hb

/-- R13: reading a register that is not RC clears nothing. -/
theorem State.clearRc_eq_self (s : State) {o : Nat} (hu : o ∉ rcUnits) (hb : o ∉ rcBlocks) (hc : o < 0xC00 ∨ 0x1000 ≤ o) :
    s.clearRc o = s := by
  rw [s.clearRc_eq hu]
  split
  · exact s.clearLow_eq_self hu hb (by omega)
  · exact s.clearMid_eq_self hb

/-! ### What a read leaves as it is -/

/-- Memory contents, launches, queues, units, the time base and the waiting commands are the same. -/
def State.sameWork (s t : State) : Prop :=
  t.dp.mem.cells = s.dp.mem.cells ∧ t.scr = s.scr ∧ t.hp.queues = s.hp.queues ∧ t.dp.units = s.dp.units ∧ t.clk.tb = s.clk.tb ∧
    t.pending = s.pending

theorem State.clearLow_sameWork (s : State) {o : Nat} (h : o ∉ rcUnits) : s.sameWork (s.clearLow o) := by
  unfold State.clearLow
  split
  case h_15 => exact absurd (by decide) h
  case h_16 => split <;> exact ⟨rfl, rfl, rfl, rfl, rfl, rfl⟩
  all_goals exact ⟨rfl, rfl, rfl, rfl, rfl, rfl⟩

theorem State.clearMid_sameWork (s : State) (o : Nat) : s.sameWork (s.clearMid o) := by
  unfold State.clearMid
  split <;> exact ⟨rfl, rfl, rfl, rfl, rfl, rfl⟩

/-- Clearing a counter that is no unit's leaves the work of the package alone. -/
theorem State.clearRc_sameWork (s : State) {o : Nat} (h : o ∉ rcUnits) : s.sameWork (s.clearRc o) := by
  rw [s.clearRc_eq h]
  split
  · exact s.clearLow_sameWork h
  · exact s.clearMid_sameWork o

/-! ### A cleared register reads 0, block by block -/

/-- An update of the selected port is seen at the selected port. -/
theorem State.selectedPort_onPort (s : State) (f : Port → Port) :
    (s.onPort f).torus.port (s.onPort f).torus.sel.toNat = f (s.torus.port s.torus.sel.toNat) :=
  (Torus.port_setPort ..).trans (if_pos rfl)

theorem reg_clearRc_fault (s : State) : ∀ o ∈ rcFault, (s.clearRc o).reg o = 0 := by
  simp [rcFault, State.clearRc, State.perfAt, State.clearLow, State.reg, State.regLow, Fr.reg]

theorem reg_clearRc_test (s : State) : ∀ o ∈ rcTest, (s.clearRc o).reg o = 0 := by
  simp [rcTest, State.clearRc, State.perfAt, State.clearLow, State.reg, State.regLow, State.stReg]

theorem reg_clearRc_power (s : State) : ∀ o ∈ rcPower, (s.clearRc o).reg o = 0 := by
  simp [rcPower, State.clearRc, State.perfAt, State.clearLow, State.reg, State.regLow, State.pwReg]

theorem reg_clearRc_recorder (s : State) : ∀ o ∈ rcRecorder, (s.clearRc o).reg o = 0 := by
  simp [rcRecorder, State.clearRc, State.perfAt, State.clearLow, State.reg, State.regLow, Log.evReg, Log.trReg]

theorem reg_clearRc_time (s : State) : ∀ o ∈ rcTime, (s.clearRc o).reg o = 0 := by
  simp [rcTime, State.clearRc, State.perfAt, State.clearMid, State.reg, State.regMid, Clk.reg]

theorem reg_clearRc_contract (s : State) : ∀ o ∈ rcContract, (s.clearRc o).reg o = 0 := by
  simp [rcContract, State.clearRc, State.perfAt, State.clearMid, State.reg, State.regMid, State.ctReg, State.onPart]

theorem reg_clearRc_memory (s : State) : ∀ o ∈ rcMemory, (s.clearRc o).reg o = 0 := by
  simp [rcMemory, State.clearRc, State.perfAt, State.clearMid, State.reg, State.regMid, Mem.reg]

theorem reg_clearRc_torus (s : State) : ∀ o ∈ rcTorus, (s.clearRc o).reg o = 0 := by
  simp [rcTorus, State.clearRc, State.perfAt, State.clearMid, State.reg, State.regMid, State.lkReg, State.selectedPort_onPort]

theorem reg_clearRc_edge (s : State) : ∀ o ∈ rcEdge, (s.clearRc o).reg o = 0 := by
  simp [rcEdge, State.clearRc, State.perfAt, State.clearMid, State.reg, State.regMid, State.ddReg, State.onEnd]

/-- R13: an RC register that is no unit's measuring counter reads 0 once it has been cleared. -/
theorem reg_clearRc (s : State) {o : Nat} (h : o ∈ rcBlocks) : (s.clearRc o).reg o = 0 := by
  simp only [rcBlocks, List.mem_append] at h
  obtain (((((((h | h) | h) | h) | h) | h) | h) | h) | h := h
  · exact reg_clearRc_fault s o h
  · exact reg_clearRc_test s o h
  · exact reg_clearRc_power s o h
  · exact reg_clearRc_recorder s o h
  · exact reg_clearRc_time s o h
  · exact reg_clearRc_contract s o h
  · exact reg_clearRc_memory s o h
  · exact reg_clearRc_torus s o h
  · exact reg_clearRc_edge s o h

/-! ### Pairs -/

/-- A register that is no upper half reads as it stands. -/
theorem State.regRead_eq_reg (s : State) {o : Nat} (h : pairLow (o - 4) = false) : s.regRead o = s.reg o := by
  rw [State.regRead, h, Bool.and_false, if_neg Bool.false_ne_true]

/-- The upper half of a pair reads as it was latched. -/
theorem State.regRead_latched (s : State) {o : Nat} (h : pairLow o = true) : s.regRead (o + 4) = (s.hp.latch.get 0 o).toNat := by
  simp [State.regRead, h]

theorem State.reg_lt (s : State) (o : Nat) : s.reg o < 2 ^ 32 := Nat.mod_lt _ (by decide)

theorem State.latchPair_eq_self (s : State) {o : Nat} (h : pairLow o = false) : s.latchPair o = s := by
  rw [State.latchPair, h, if_neg Bool.false_ne_true]

/-- R36: the read of a low word latches the upper half as it stands, for the read of the high word. -/
theorem State.regRead_latchPair (s : State) {t : State} {o : Nat} (h : pairLow o = true) (ht : t.hp = (s.latchPair o).hp) :
    t.regRead (o + 4) = s.reg (o + 4) := by
  rw [State.regRead_latched _ h, ht, State.latchPair, if_pos h, State.onHp_hp, Tab.get_put, if_pos rfl, BitVec.toNat_ofNat,
    Nat.mod_eq_of_lt (s.reg_lt _)]

/-! ### The command -/

/-- R13: the answer of a read is given. -/
def State.answerRead (t : State) (v : BitVec 64) : State := { t with out := { t.out with rdata := v } }

theorem State.answerRead_clearLow (s : State) (v : BitVec 64) (o : Nat) : (s.clearLow o).answerRead v = (s.answerRead v).clearLow o := by
  unfold State.clearLow
  split
  case h_16 => split <;> rfl
  all_goals rfl

theorem State.answerRead_clearMid (s : State) (v : BitVec 64) (o : Nat) : (s.clearMid o).answerRead v = (s.answerRead v).clearMid o := by
  unfold State.clearMid
  split <;> rfl

/-- Clearing a counter that is no unit's and answering are independent. -/
theorem State.answerRead_clearRc (s : State) (v : BitVec 64) {o : Nat} (h : o ∉ rcUnits) :
    (s.clearRc o).answerRead v = (s.answerRead v).clearRc o := by
  rw [s.clearRc_eq h, State.clearRc_eq _ h]
  split
  · exact s.answerRead_clearLow v o
  · exact s.answerRead_clearMid v o

/-- R13, R36: an aligned 32-bit read. -/
theorem exec_read32 (s : State) {o : BitVec 16} (ha : o.toNat % 4 = 0) :
    exec (.readClearRegister ⟨o, false⟩) s = .next (((s.latchPair o.toNat).clearRc o.toNat).answerRead (.ofNat 64 (s.regRead o.toNat))) := by
  have e : o.toNat / 4 * 4 = o.toNat := Nat.div_mul_cancel (Nat.dvd_of_mod_eq_zero ha)
  change execReadClearRegister ⟨o, false⟩ s = _
  simp only [execReadClearRegister, e, Bool.false_eq_true, if_false]
  rfl

/-- R36: an aligned 64-bit read of a pair. -/
theorem exec_read64 (s : State) {o : BitVec 16} (ha : o.toNat % 8 = 0) (hp : pairLow o.toNat = true) :
    exec (.readClearRegister ⟨o, true⟩) s =
      .next (((s.clearRc o.toNat).clearRc (o.toNat + 4)).answerRead (.ofNat 64 (s.regRead o.toNat + 2 ^ 32 * s.reg (o.toNat + 4)))) := by
  have e : o.toNat / 8 * 8 = o.toNat := Nat.div_mul_cancel (Nat.dvd_of_mod_eq_zero ha)
  change execReadClearRegister ⟨o, true⟩ s = _
  simp only [execReadClearRegister, e, hp, if_true]
  rfl

/-! ### The lists of the statement -/

theorem rcOffsets_spec : ∀ k ∈ rcOffsets.map BitVec.toNat, k % 4 = 0 ∧ k ∈ rcBlocks ∧ k ∉ rcUnits ∧ pairLow k = false ∧
    pairLow (k - 4) = false := by decide

theorem plainOffsets_spec : ∀ k ∈ plainOffsets.map BitVec.toNat, k % 4 = 0 ∧ k ∉ rcUnits ∧ k ∉ rcBlocks ∧ (k < 0xC00 ∨ 0x1000 ≤ k) ∧
    pairLow k = false := by decide

theorem pairOffsets_spec : ∀ k ∈ pairOffsets.map BitVec.toNat, k % 8 = 0 ∧ pairLow k = true ∧ pairLow (k - 4) = false ∧
    ∀ i ∈ [k, k + 4], i ∉ rcUnits ∧ i ∉ rcBlocks ∧ (i < 0xC00 ∨ 0x1000 ≤ i) := by decide

/-- R13: a read of an RC register answers it, leaves it 0 and leaves the work of the package alone. -/
theorem readClear_rc (s : State) {o : BitVec 16} (h : o ∈ rcOffsets) :
    exec (.readClearRegister ⟨o, false⟩) s = .next ((s.clearRc o.toNat).answerRead (.ofNat 64 (s.regRead o.toNat))) ∧
      ((s.clearRc o.toNat).answerRead (.ofNat 64 (s.regRead o.toNat))).regRead o.toNat = 0 ∧
      s.sameWork ((s.clearRc o.toNat).answerRead (.ofNat 64 (s.regRead o.toNat))) := by
  obtain ⟨ha, hb, hu, hp, hq⟩ := rcOffsets_spec _ (List.mem_map_of_mem h)
  refine ⟨?_, ?_, s.clearRc_sameWork hu⟩
  · rw [exec_read32 s ha, s.latchPair_eq_self hp]
  · rw [State.regRead_eq_reg _ hq, s.answerRead_clearRc _ hu, reg_clearRc _ hb]

/-- A read of a register that is neither RC nor a low word changes nothing but the answer. -/
theorem readClear_plain (s : State) {o : BitVec 16} (h : o ∈ plainOffsets) :
    exec (.readClearRegister ⟨o, false⟩) s = .next (s.answerRead (.ofNat 64 (s.regRead o.toNat))) := by
  obtain ⟨ha, hu, hb, hc, hp⟩ := plainOffsets_spec _ (List.mem_map_of_mem h)
  rw [exec_read32 s ha, s.latchPair_eq_self hp, s.clearRc_eq_self hu hb hc]

/-- R36: a 32-bit read of a low word answers it and latches the upper half. -/
theorem readClear_pairLow (s : State) {o : BitVec 16} (h : o ∈ pairOffsets) :
    exec (.readClearRegister ⟨o, false⟩) s = .next ((s.latchPair o.toNat).answerRead (.ofNat 64 (s.reg o.toNat))) := by
  obtain ⟨ha, hp, hq, hk⟩ := pairOffsets_spec _ (List.mem_map_of_mem h)
  obtain ⟨hu, hb, hc⟩ := hk o.toNat (by simp)
  rw [exec_read32 s (by omega), State.clearRc_eq_self _ hu hb hc, s.regRead_eq_reg hq]

/-- R36: a 64-bit read of a pair answers both halves and latches nothing. -/
theorem readClear_pair64 (s : State) {o : BitVec 16} (h : o ∈ pairOffsets) :
    exec (.readClearRegister ⟨o, true⟩) s = .next (s.answerRead (.ofNat 64 (s.reg o.toNat + 2 ^ 32 * s.reg (o.toNat + 4)))) := by
  obtain ⟨ha, hp, hq, hk⟩ := pairOffsets_spec _ (List.mem_map_of_mem h)
  obtain ⟨hu, hb, hc⟩ := hk o.toNat (by simp)
  obtain ⟨hu', hb', hc'⟩ := hk (o.toNat + 4) (by simp)
  rw [exec_read64 s ha hp, State.clearRc_eq_self _ hu hb hc, State.clearRc_eq_self _ hu' hb' hc', s.regRead_eq_reg hq]

/-- Settles O16: each list's clause is the lemma on the reads of its registers. -/
theorem registerReadsAnswerAndClear : Obligations.RegisterReadsAnswerAndClear := by
  unfold Obligations.RegisterReadsAnswerAndClear
  refine ⟨fun o s h => ?_, fun o s h => readClear_plain s h, fun o s h => ⟨?_, readClear_pair64 s h⟩⟩
  · obtain ⟨hx, hz, hw⟩ := readClear_rc s h
    exact ⟨_, hx, rfl, hz, hw⟩
  · obtain ⟨-, hp, -, -⟩ := pairOffsets_spec _ (List.mem_map_of_mem h)
    refine ⟨_, readClear_pairLow s h, rfl, s.regRead_latchPair hp rfl, ?_⟩
    rw [State.latchPair, if_pos hp]
    rfl

end Sys2Proof.Machine
end

section
/-! A package declared suspect while an earlier fault is still open (R428, R8): the stroke is voided, and the VOID event of a working unit
may complete a line of the inkwell area (R415, R417), so that package memory does change. -/

namespace Sys2Proof.Machine

/-- An image with one stream, of unit 0, whose segment in entry 0 is 64 bytes long. -/
def oneStreamImage : Image where
  len := 512
  data := packBytes [(0x52, 1), (0x54, 1), (0x7C, 0x100), (0x104, 0x140), (0x144, 64)]

/-- A launch of it on partition 0 that has begun. -/
def oneStreamLaunch : Launch where
  slot := 0
  q := 0
  seq := 0
  step0 := 0
  steps := 1
  start := 0
  began := true
  entry := 0
  stops := []
  zeroing := false

/-- A booted package that runs it, with a class 3 fault whose recovery is not complete, spill of matrix-array events on, an inkwell area of
64 MiB in every stack, and the event 7 queued for stack 0. -/
def spillingSuspect : State :=
  let s := State.reset
  { s with
    bu := { s.bu with booted := true }
    scr := { s.scr with
      slots := [(0, some oneStreamImage)]
      parts := [(0, { dies := 1, launch := some oneStreamLaunch })] }
    dp := { s.dp with
      mem := { s.dp.mem with ink := 1 }
      log := { s.dp.log with spill := true, classes := 1, spillQ := [(0, [7])] }
      fr := { s.dp.fr with open_ := [⟨3, 0, 0⟩] } } }

/-- The first byte of stack 0's inkwell area. -/
def spillingSuspectInk : Nat := hbmKey 0 spillingSuspect.dp.mem.inkBase

/-- Unit 0 works, the stroke is not voided, and the inkwell area holds nothing. -/
theorem spillingSuspect_works : spillingSuspect.env.working = [0] ∧ spillingSuspect.dp.fr.voided = false ∧
    spillingSuspect.bu.dark = false ∧ spillingSuspect.bu.booted = true ∧ spillingSuspect.dp.mem.byte spillingSuspectInk = 0 := by decide +kernel

/-- The second fault voids the stroke (R8); unit 0's VOID event and the queued one make a line, whose first byte is the queued event's. -/
theorem suspectDeclaration_spills {t : State} (h : exec .suspectDeclaration spillingSuspect = .next t) :
    t.dp.mem.byte spillingSuspectInk = 7 := by
  have e : execSuspectDeclaration spillingSuspect = .next t := h
  cases e
  decide +kernel

/-- Refutes O52: its last clause says that a declaration of a suspect package leaves every byte of package memory as it is. A package with
a fault still open takes the declaration for a multiple fault, which voids the stroke: the VOID event of a unit that works is spilled, and
`spillingSuspect`'s inkwell area changes. (The clause on REPLAY exempts that area, by `State.keeps`.) -/
theorem not_voidedStrokesReplayOrRecover : ¬ Obligations.VoidedStrokesReplayOrRecover := by
  unfold Obligations.VoidedStrokesReplayOrRecover
  intro h
  obtain ⟨-, -, -, -, hsuspect⟩ := h
  obtain ⟨-, -, hdark, hbooted, hzero⟩ := spillingSuspect_works
  obtain ⟨t, ht, -, -, hcells, -⟩ := (hsuspect spillingSuspect).2 hdark hbooted
  have hsame : t.dp.mem.byte spillingSuspectInk = spillingSuspect.dp.mem.byte spillingSuspectInk := by rw [Mem.byte, hcells, Mem.byte]
  rw [suspectDeclaration_spills ht, hzero] at hsame
  exact absurd hsame (by decide)

end Sys2Proof.Machine
end

section
/-! Reset, reads of the time base and STROKE_CFG (R34, R36, R46): registers after reset, the latch behind TB_HI, and requests of a package
that answers. -/

namespace Sys2Proof.Machine

/-- The registers of `resetMap` read what their maps give. -/
theorem reset_regRead : ∀ x ∈ resetMap, State.reset.regRead x.1 = x.2 := by decide +kernel

/-- Settles O2: memory after reset is in canonical form by `reset_wf`, the registers are `reset_regRead`, and the rest are fields of
`State.reset`. -/
theorem resetLeavesSpecValues : Obligations.ResetLeavesSpecValues := by
  unfold Obligations.ResetLeavesSpecValues
  exact ⟨rfl, rfl, rfl, rfl, reset_wf, rfl, rfl, rfl, rfl, rfl, rfl, by decide, reset_regRead⟩

/-- R36: TB_LO is a low word, so a 32-bit read of TB_HI, in any state, answers what was latched, and clears nothing. -/
theorem exec_readTbHi (s : State) :
    exec (.readClearRegister ⟨0x1004, false⟩) s = .next (s.answerRead (.ofNat 64 (s.hp.latch.get 0 0x1000).toNat)) := by
  have h := exec_read32 s (o := 0x1004) (by decide)
  rw [s.latchPair_eq_self (by decide), s.clearRc_eq_self (by decide) (by decide) (by decide)] at h
  rwa [show (0x1004 : BitVec 16).toNat = 0x1000 + 4 from rfl, s.regRead_latched (by decide)] at h

/-- The low half of a 64-bit word as a mask. -/
theorem and_low32 (x : BitVec 64) : x &&& 0xFFFFFFFF#64 = (x.extractLsb' 0 32).zeroExtend 64 := by
  have h : x.toNat &&& (2 ^ 32 - 1) = x.toNat % 2 ^ 32 := Nat.and_two_pow_sub_one_eq_mod ..
  apply BitVec.eq_of_toNat_eq
  simp only [BitVec.toNat_and, BitVec.toNat_setWidth, BitVec.extractLsb'_toNat, Nat.shiftRight_zero]
  exact h.trans (Nat.mod_eq_of_lt (by omega)).symm

/-- Settles O3: the 32-bit read latches bits [63:32] at TB_LO, which `exec_readTbHi` answers. -/
theorem timeBaseReadLatchesUpperHalf : Obligations.TimeBaseReadLatchesUpperHalf := by
  unfold Obligations.TimeBaseReadLatchesUpperHalf
  intro s
  refine ⟨rfl, _, rfl, and_low32 _, fun s' h => ⟨_, exec_readTbHi s', ?_⟩, rfl⟩
  rw [h]
  simp only [State.answerRead, Bool.false_eq_true, if_false, Tab.get_put, if_true, BitVec.ofNat_toNat]

/-- R480, R482: a request of a package that answers, with a payload long enough, reaches its command. -/
theorem State.request_answers (s : State) (cmd need : Nat) (tag : BitVec 16) (pl : List Byte) (f : State → State)
    (h : s.answers = true) (hn : need ≤ pl.length) : s.request cmd need tag pl f = f s := by
  simp only [State.answers, Bool.and_eq_true, Bool.not_eq_true'] at h
  obtain ⟨⟨hd, hb⟩, hr⟩ := h
  simp [State.request, hd, hb, hr, Nat.not_lt.mpr hn]

/-- R46: a request whose stroke has come is used up at S+0, and CLOSE_WIN takes its values. -/
theorem Clk.begin_due (c : Clk) (r : StrokeReq) (m : BitVec 128) (hr : c.req = some r)
    (hn : r.stroke.toNat ≤ (c.begin m).stroke.toNat) :
    (c.begin m).downNs = r.down ∧ (c.begin m).cwNs = r.cw ∧ (c.begin m).req = none := by
  change r.stroke.toNat ≤ (if c.joined then c.stroke + 1 else BitVec.ofNat 64 (goStroke m)).toNat at hn
  simp only [Clk.begin, hr, if_pos hn, Option.map_some, Option.getD_some, Option.isSome_some, if_true, and_self]

/-- Settles O9: the request passes `State.request`, its period is in range, and `launched` decides between BUSY and OK. -/
theorem strokeCfgIsRefusedWhileLaunched : Obligations.StrokeCfgIsRefusedWhileLaunched := by
  unfold Obligations.StrokeCfgIsRefusedWhileLaunched
  intro tag pl s ha hl hlo hhi
  have hrange : ¬ (plAt pl 8 2 < 25 ∨ plAt pl 8 2 > 4000) := by omega
  have hexec : exec (.strokeCfg tag pl) s = execStrokeCfg tag pl s := rfl
  rw [hexec, execStrokeCfg, s.request_answers _ _ _ _ _ ha hl]
  refine ⟨fun h => ?_, fun h => ?_, Clk.begin_due⟩ <;> simp [h, hrange]

end Sys2Proof.Machine
end

section
/-! Ports that send (R322–R331) and the records and units beside them: what each operation of a port leaves as it is. -/

namespace Sys2Proof.Machine

/-- What a loop keeps when every round keeps it. -/
theorem foldl_keeps {σ α β : Type} (g : σ → β) {f : σ → α → σ} (h : ∀ s x, g (f s x) = g s) (l : List α) (s : σ) :
    g (l.foldl f s) = g s := by
  induction l generalizing s with
  | nil => rfl
  | cons x r ih => exact (ih _).trans (h s x)

/-! ### Records -/

/-- R406–R412: a record of any block changes the event recorder and interrupts only. -/
theorem State.note_frame (s : State) (u c : Nat) (pay : List (Nat × Nat)) :
    s.note u c pay = { s with dp := { s.dp with log := (s.note u c pay).dp.log, irq := (s.note u c pay).dp.irq } } :=
  congrArg (fun d => ({ s with dp := d } : State)) (record_frame ..)

@[simp] theorem State.note_clk (s : State) (u c : Nat) (pay : List (Nat × Nat)) : (s.note u c pay).clk = s.clk := rfl
@[simp] theorem State.note_torus (s : State) (u c : Nat) (pay : List (Nat × Nat)) : (s.note u c pay).torus = s.torus := rfl
@[simp] theorem State.note_mem (s : State) (u c : Nat) (pay : List (Nat × Nat)) : (s.note u c pay).dp.mem = s.dp.mem := record_mem ..
@[simp] theorem State.note_units (s : State) (u c : Nat) (pay : List (Nat × Nat)) : (s.note u c pay).dp.units = s.dp.units :=
  record_units ..

/-! ### A port that sends -/

/-- What follows when port `x` has gone on to `y` by sending flits and taking slots: nothing it holds unacknowledged is lost, and its
receiver's SEQ and its counters of bad flits and replays stand. -/
structure Port.GoesOn (x y : Port) : Prop where
  unacked : ∃ more, y.unacked = x.unacked ++ more
  rxSeq : y.rxSeq = x.rxSeq
  badflit : y.badflit = x.badflit
  retry : y.retry = x.retry
  replays : y.replays = x.replays

theorem Port.GoesOn.refl (x : Port) : x.GoesOn x := ⟨⟨[], by simp⟩, rfl, rfl, rfl, rfl⟩

theorem Port.GoesOn.trans {x y z : Port} (h : x.GoesOn y) (g : y.GoesOn z) : x.GoesOn z := by
  obtain ⟨m, hm⟩ := h.unacked
  obtain ⟨n, hn⟩ := g.unacked
  exact ⟨⟨m ++ n, by rw [hn, hm, List.append_assoc]⟩, g.rxSeq.trans h.rxSeq, g.badflit.trans h.badflit, g.retry.trans h.retry,
    g.replays.trans h.replays⟩

theorem Port.goesOn_sendFlit (x : Port) (l : Link) (time : Option (BitVec 512)) : x.GoesOn (x.sendFlit l time) :=
  ⟨⟨_, rfl⟩, rfl, rfl, rfl, rfl⟩

theorem Port.goesOn_pump (l : Link) (n : Nat) (x : Port) : x.GoesOn (Port.pump l n x) := by
  induction n generalizing x with
  | zero => exact .refl x
  | succ n ih =>
    rw [Port.pump]
    split
    · exact (x.goesOn_sendFlit l none).trans (ih _)
    · exact .refl x

/-- R323: a slot is taken into the buffers of the receiver. -/
theorem Port.goesOn_slot (x : Port) (desc : Nat) (l : BitVec 512) : x.GoesOn (x.slot desc l) := by
  unfold Port.slot
  dsimp only
  have same : ∀ y : Port, y.unacked = x.unacked → y.rxSeq = x.rxSeq → y.badflit = x.badflit → y.retry = x.retry → y.replays = x.replays →
      x.GoesOn y := fun y hu h1 h2 h3 h4 => ⟨⟨[], by simp [hu]⟩, h1, h2, h3, h4⟩
  repeat' split
  all_goals exact same _ rfl rfl rfl rfl rfl

/-! ### The package's ports -/

/-- Sending and receiving at the ports of direction `d`: every port has gone on, those of another direction stand as they were, and neither the
package's inbox nor its memory has changed. -/
structure State.PortsGoOn (d : Nat) (s t : State) : Prop where
  port : ∀ q, (s.torus.port q).GoesOn (t.torus.port q)
  others : ∀ q, q % 6 ≠ d → t.torus.port q = s.torus.port q
  inbox : t.torus.inbox = s.torus.inbox
  mem : t.dp.mem = s.dp.mem

theorem State.PortsGoOn.trans {d : Nat} {s t u : State} (h : s.PortsGoOn d t) (g : t.PortsGoOn d u) : s.PortsGoOn d u :=
  ⟨fun q => (h.port q).trans (g.port q), fun q hq => (g.others q hq).trans (h.others q hq), g.inbox.trans h.inbox, g.mem.trans h.mem⟩

/-- What leaves the torus and memory alone leaves every port as it is. -/
theorem State.PortsGoOn.of_torus (d : Nat) {s t : State} (ht : t.torus = s.torus) (hm : t.dp.mem = s.dp.mem) : s.PortsGoOn d t :=
  ⟨fun _ => ht ▸ .refl _, fun _ _ => ht ▸ rfl, ht ▸ rfl, hm⟩

theorem State.PortsGoOn.foldl {α : Type} {d : Nat} {f : State → α → State} {l : List α}
    (h : ∀ s : State, ∀ x ∈ l, s.PortsGoOn d (f s x))
    (s : State) : s.PortsGoOn d (l.foldl f s) := by
  induction l generalizing s with
  | nil => exact .of_torus d rfl rfl
  | cons x r ih =>
    exact (h s x List.mem_cons_self).trans (ih (fun s y hy => h s y (List.mem_cons_of_mem x hy)) (f s x))

/-- An update of one port by which it goes on. -/
theorem State.portsGoOn_setPort (s : State) {p d : Nat} {f : Port → Port} (hp : p % 6 = d) (hf : (s.torus.port p).GoesOn (f (s.torus.port p))) :
    s.PortsGoOn d (s.setPort p f) := by
  refine ⟨fun q => ?_, fun q hq => ?_, rfl, rfl⟩
  · rw [State.setPort, Torus.port_setPort]
    split
    · next h => exact h ▸ hf
    · exact .refl _
  · rw [State.setPort, Torus.port_setPort, if_neg (by rintro rfl; exact hq hp)]

theorem State.portsGoOn_pumpPort (s : State) {p d : Nat} (hp : p % 6 = d) : s.PortsGoOn d (s.pumpPort p) :=
  s.portsGoOn_setPort hp (Port.goesOn_pump _ _ _)

theorem State.portsGoOn_pumpDir (s : State) {d : Nat} (hd : d < 6) : s.PortsGoOn d (s.pumpDir d) := by
  refine .foldl (fun s p hp => s.portsGoOn_pumpPort ?_) s
  simp only [List.mem_cons, List.not_mem_nil, or_false] at hp
  omega

/-- R323: one slot, and the record of a dropped one. -/
theorem State.portsGoOn_takeSlot (s : State) (p desc : Nat) (l : BitVec 512) : s.PortsGoOn (p % 6) (s.takeSlot p desc l) := by
  have h := s.portsGoOn_setPort (f := fun x => x.slot desc l) rfl ((s.torus.port p).goesOn_slot desc l)
  unfold State.takeSlot
  extract_lets t
  split
  · exact h
  · exact h.trans (.of_torus _ rfl (State.note_mem ..))

theorem State.portsGoOn_takeSlots (s : State) (p : Nat) (f : Flit) : s.PortsGoOn (p % 6) (s.takeSlots p f) :=
  .foldl (fun s _ _ => s.portsGoOn_takeSlot _ _ _) s

/-- R53: CAUSE REPLAY is entered in units; the torus and memory stand. -/
theorem State.causeReplay_mem (s : State) (l : List Packet) : (s.causeReplay l).dp.mem = s.dp.mem :=
  foldl_keeps Dp.mem (fun (d : Dp) u => (rfl : (d.setUnit u (fun x => { x with cause := x.cause ||| 0x10#6 })).mem = d.mem)) _ s.dp

theorem State.portsGoOn_replayed (s : State) (d p : Nat) (was : Port) : s.PortsGoOn d (s.replayed p was) := by
  unfold State.replayed
  split
  · exact .of_torus d rfl rfl
  · exact .of_torus d rfl (s.causeReplay_mem _)

/-- R429: a completed recovery changes reports and interrupts only. -/
@[simp] theorem completeRecov_mem (e : Env) (cls : Nat) (d : Dp) : (completeRecov e cls d).mem = d.mem := by
  unfold completeRecov
  split <;> rfl

theorem State.portsGoOn_portRecovered (s : State) (d : Nat) : s.PortsGoOn d s.portRecovered := by
  unfold State.portRecovered
  split
  · exact .of_torus d rfl rfl
  · exact .of_torus d rfl (completeRecov_mem ..)

/-- What follows a flit's acknowledgement: CAUSE REPLAY, what goes out behind it, and the end of a class 3 recovery. -/
theorem State.portsGoOn_afterAck (s : State) (p : Nat) (was : Port) :
    s.PortsGoOn (p % 6) ((s.replayed p was).pumpDir (p % 6)).portRecovered :=
  ((s.portsGoOn_replayed _ p was).trans (State.portsGoOn_pumpDir _ (Nat.mod_lt _ (by decide)))).trans (State.portsGoOn_portRecovered _ _)

end Sys2Proof.Machine
end

section
/-! Go-back-N (R322–R325): a flit received, and a NAK. -/

namespace Sys2Proof.Machine

/-- A port after a change: the changed port, every other as it was. -/
theorem State.port_setPort (s : State) (p q : Nat) (f : Port → Port) :
    (s.setPort p f).torus.port q = if q = p then f (s.torus.port p) else s.torus.port q := Torus.port_setPort ..

/-- R55, R322, R324: a flit is good when nothing the spec names is wrong with it. -/
theorem Port.good_iff (x : Port) (fecOk : Bool) (f : Flit) :
    x.good fecOk f = true ↔ fecOk = true ∧ bits f.ctl 448 64 = f.crc ∧ f.slots.length = 32 ∧ f.seq = x.rxSeq := by
  simp [Port.good, and_assoc]

/-- R324: a flit that is refused is counted and owes a NAK. -/
theorem exec_flitReceive_bad (p : Fin 24) (fecOk : Bool) (fixed : Nat) (f : Flit) (s : State) (hc : s.torus.carries p.val = true)
    (h : ((s.torus.port p.val).good fecOk f && !(s.goCorrupt p.val f)) = false) :
    exec (.flitReceive p fecOk fixed f) s = .next (s.setPort p.val (fun x =>
      { x with fecce := satAdd x.fecce fixed, badflit := satAdd x.badflit 1, nakOwed := true })) := by
  change execFlitReceive p fecOk fixed f s = _
  rw [Torus.carries] at hc
  simp only [execFlitReceive, hc, Bool.true_or, if_true, h, Bool.false_eq_true, if_false]

/-- R324, R331: a good flit is taken: its acknowledgement and credits; then its slots, and what that frees. -/
theorem exec_flitReceive_good (p : Fin 24) (fecOk : Bool) (fixed : Nat) (f : Flit) (s : State) (hc : s.torus.carries p.val = true)
    (h : ((s.torus.port p.val).good fecOk f && !(s.goCorrupt p.val f)) = true) :
    ∃ t, exec (.flitReceive p fecOk fixed f) s = .next t ∧
      (s.setPort p.val (fun x => { x.takeFlit f with fecce := satAdd x.fecce fixed })).PortsGoOn (p.val % 6) t := by
  rw [Torus.carries] at hc
  refine ⟨_, ?_, (State.portsGoOn_takeSlots _ p.val f).trans (State.portsGoOn_afterAck _ p.val (s.torus.port p.val))⟩
  change execFlitReceive p fecOk fixed f s = _
  simp only [execFlitReceive, hc, Bool.true_or, if_true, h]

/-- R324: a NAK replays, and what it frees goes out. -/
theorem exec_nakReceive (p : Fin 24) (ack : BitVec 12) (s : State) :
    ∃ t, exec (.nakReceive p ack) s = .next t ∧ (s.setPort p.val (fun x => x.nakked ack)).PortsGoOn (p.val % 6) t :=
  ⟨_, rfl, State.portsGoOn_afterAck _ p.val (s.torus.port p.val)⟩

/-- R324: an acknowledgement leaves the receiver's SEQ and the counters of bad flits and replays alone. -/
theorem Port.acked_counts (x : Port) (a : BitVec 12) :
    (x.acked a).rxSeq = x.rxSeq ∧ (x.acked a).badflit = x.badflit ∧ (x.acked a).retry = x.retry := by
  unfold Port.acked
  extract_lets oldest n got
  split <;> exact ⟨rfl, rfl, rfl⟩

theorem Port.nakked_counts (x : Port) (a : BitVec 12) : (x.nakked a).rxSeq = x.rxSeq ∧ (x.nakked a).badflit = x.badflit := by
  obtain ⟨h, g, -⟩ := x.acked_counts a
  unfold Port.nakked
  extract_lets y
  split <;> exact ⟨h, g⟩

/-- R324: a good flit moves the expected SEQ on by one. -/
theorem Port.takeFlit_counts (x : Port) (f : Flit) : (x.takeFlit f).rxSeq = x.rxSeq + 1 ∧ (x.takeFlit f).badflit = x.badflit := by
  unfold Port.takeFlit
  extract_lets y
  split
  · exact y.nakked_counts _
  · exact ⟨(y.acked_counts _).1, (y.acked_counts _).2.1⟩

/-- How many flits an ACK of `a` acknowledges. -/
def Port.ackCount (x : Port) (a : BitVec 12) : Nat := (a - (x.txSeq - BitVec.ofNat 12 x.unacked.length) + 1).toNat

/-- R324: an ACK drops the flits it acknowledges, the oldest. -/
theorem Port.acked_drops (x : Port) (a : BitVec 12) (h1 : 1 ≤ x.ackCount a) (h2 : x.ackCount a ≤ x.unacked.length) :
    (x.acked a).unacked = x.unacked.drop (x.ackCount a) ∧ (x.acked a).replays = 0 := by
  unfold Port.acked
  extract_lets oldest n got
  have hn : n = x.ackCount a := rfl
  rw [if_neg (by simp only [hn, Bool.or_eq_true, decide_eq_true_eq]; omega)]
  exact ⟨rfl, rfl⟩

/-- R324: a NAK drops what its ACK acknowledges, and replays the rest. -/
theorem Port.nakked_drops (x : Port) (a : BitVec 12) (h1 : 1 ≤ x.ackCount a) (h2 : x.ackCount a ≤ x.unacked.length) :
    (x.nakked a).unacked = x.unacked.drop (x.ackCount a) ∧
      (x.ackCount a < x.unacked.length → (x.nakked a).retry = satAdd x.retry 1 ∧ (x.nakked a).replays = 1) := by
  obtain ⟨hu, hr⟩ := x.acked_drops a h1 h2
  obtain ⟨-, -, ht⟩ := x.acked_counts a
  unfold Port.nakked
  extract_lets y
  split
  · next he =>
    refine ⟨hu, fun hlt => ?_⟩
    rw [show y.unacked = _ from hu, List.isEmpty_iff, List.drop_eq_nil_iff] at he
    omega
  · exact ⟨hu, fun _ => ⟨congrArg (satAdd · 1) ht, congrArg (· + 1) hr⟩⟩

/-- Settles O12: a refused flit is `exec_flitReceive_bad`; a good one and a NAK change the port itself, by `takeFlit_counts` and `nakked_drops`,
and everything after goes on from there (`PortsGoOn`). -/
theorem flitsAreTakenInOrderOrRefused : Obligations.FlitsAreTakenInOrderOrRefused := by
  unfold Obligations.FlitsAreTakenInOrderOrRefused
  refine ⟨fun p fecOk fixed f s hc => ⟨fun hbad => ?_, fun hfec hcrc hlen hseq hgo => ?_⟩, fun p ack s n hn h1 h2 => ?_⟩
  · have h : ((s.torus.port p.val).good fecOk f && !(s.goCorrupt p.val f)) = false := by
      rw [← Bool.not_eq_true, Bool.and_eq_true, Port.good_iff, Bool.not_eq_true']
      rintro ⟨⟨a, b, c, d⟩, e⟩
      simp [a, b, c, d, e] at hbad
    refine ⟨_, exec_flitReceive_bad p fecOk fixed f s hc h, ?_, fun q hq => ?_, rfl⟩
    · rw [State.port_setPort, if_pos rfl]
    · rw [State.port_setPort, if_neg hq]
  · have h : ((s.torus.port p.val).good fecOk f && !(s.goCorrupt p.val f)) = true := by
      rw [Bool.and_eq_true, Port.good_iff]
      exact ⟨⟨hfec, hcrc, hlen, hseq⟩, by simp [hgo]⟩
    obtain ⟨t, ht, on⟩ := exec_flitReceive_good p fecOk fixed f s hc h
    obtain ⟨hrx, hbf⟩ := (s.torus.port p.val).takeFlit_counts f
    refine ⟨t, ht, ?_, ?_, fun q hq => ?_, on.inbox, on.mem⟩
    · rw [(on.port p.val).rxSeq, State.port_setPort, if_pos rfl, hrx]
    · rw [(on.port p.val).badflit, State.port_setPort, if_pos rfl, hbf]
    · rw [on.others q hq, State.port_setPort, if_neg (by rintro rfl; exact hq rfl)]
  · subst hn
    obtain ⟨t, ht, on⟩ := exec_nakReceive p ack s
    obtain ⟨hu, hlt⟩ := (s.torus.port p.val).nakked_drops ack h1 h2
    have hp : (s.setPort p.val (fun x => x.nakked ack)).torus.port p.val = (s.torus.port p.val).nakked ack := by
      rw [State.port_setPort, if_pos rfl]
    refine ⟨t, ht, ?_, fun h => ?_, fun q hq => ?_, on.inbox, on.mem⟩
    · obtain ⟨more, hm⟩ := (on.port p.val).unacked
      exact ⟨more, by rw [hm, hp, hu]; rfl⟩
    · rw [(on.port p.val).retry, (on.port p.val).replays, hp]
      exact hlt h
    · rw [on.others q hq, State.port_setPort, if_neg (by rintro rfl; exact hq rfl)]

end Sys2Proof.Machine
end

section
/-! Fields of assembled payloads, symbols and headers (R325, R327): each is read back where it was placed. -/

namespace Sys2Proof.Machine

/-- A bit of a payload is a bit of one of its fields. -/
theorem testBit_packBytes (l : List (Nat × Nat)) (i : Nat) :
    (packBytes l).testBit i = l.any (fun x => decide (8 * x.1 ≤ i) && x.2.testBit (i - 8 * x.1)) := by
  induction l with
  | nil => simp [packBytes]
  | cons x r ih => simp [packBytes, Nat.testBit_or, Nat.testBit_mul_two_pow, ih]

/-- A field of `n` bits at byte `o` that no other field reaches is read back from there. -/
theorem packBytes_field {l : List (Nat × Nat)} {o v n : Nat} (hm : (o, v) ∈ l) (hv : v < 2 ^ n)
    (h : ∀ x ∈ l, x = (o, v) ∨ (x.1 ≤ o ∧ x.2 < 2 ^ (8 * (o - x.1))) ∨ 8 * o + n ≤ 8 * x.1) : packBytes l >>> (8 * o) % 2 ^ n = v := by
  apply Nat.eq_of_testBit_eq
  intro i
  rw [Nat.testBit_mod_two_pow, Nat.testBit_shiftRight, testBit_packBytes]
  by_cases hi : i < n
  · rw [decide_eq_true hi, Bool.true_and, Bool.eq_iff_iff, List.any_eq_true]
    constructor
    · rintro ⟨x, hx, hb⟩
      simp only [Bool.and_eq_true, decide_eq_true_eq] at hb
      obtain rfl | ⟨hle, hlt⟩ | hge := h x hx
      · simpa using hb.2
      · rw [Nat.testBit_lt_two_pow (hlt.trans_le (Nat.pow_le_pow_right (by decide) (by omega)))] at hb
        exact absurd hb.2 (by decide)
      · omega
    · exact fun hb => ⟨(o, v), hm, by simpa using hb⟩
  · rw [decide_eq_false hi, Bool.false_and, Nat.testBit_lt_two_pow (hv.trans_le (Nat.pow_le_pow_right (by decide) (by omega)))]

/-- A field of a word that is assembled as a number. -/
theorem bits_ofNat {w lo len : Nat} (h : lo + len ≤ w) (v : Nat) : bits (BitVec.ofNat w v) lo len = v >>> lo % 2 ^ len := by
  apply Nat.eq_of_testBit_eq
  intro i
  simp only [bits, BitVec.toNat_ofNat, Nat.testBit_mod_two_pow, Nat.testBit_shiftRight]
  by_cases hi : i < len
  · rw [decide_eq_true (show lo + i < w by omega), Bool.true_and]
  · rw [decide_eq_false hi, Bool.false_and, Bool.false_and]

theorem extractLsb'_eq_bits {w : Nat} (x : BitVec w) (lo len : Nat) : x.extractLsb' lo len = BitVec.ofNat len (bits x lo len) := by
  apply BitVec.eq_of_toNat_eq
  simp [bits]

/-- R325: the type of a TIME symbol, and its TX_T. -/
theorem timeSymbol_fields (t m : BitVec 64) (hold : Nat) :
    (mkSymbol 1 [(16, t.toNat), (24, m.toNat), (32, hold)]).extractLsb' 0 8 = 1#8 ∧
      (mkSymbol 1 [(16, t.toNat), (24, m.toNat), (32, hold)]).extractLsb' 128 64 = t := by
  have htype : packBytes [(0, 1), (16, t.toNat), (24, m.toNat), (32, hold)] >>> (8 * 0) % 2 ^ 8 = 1 :=
    packBytes_field (by simp) (by decide) (by simp)
  have htime : packBytes [(0, 1), (16, t.toNat), (24, m.toNat), (32, hold)] >>> (8 * 16) % 2 ^ 64 = t.toNat :=
    packBytes_field (by simp) t.isLt (by simp)
  rw [extractLsb'_eq_bits, extractLsb'_eq_bits, mkSymbol, bits_ofNat (by decide), bits_ofNat (by decide)]
  exact ⟨congrArg _ htype, by rw [htime, BitVec.ofNat_toNat, BitVec.setWidth_eq]⟩

end Sys2Proof.Machine
end

section
/-! Time marks (R35–R37, R40): what a mark does to the time base, the lock and the rate. -/

namespace Sys2Proof.Machine

/-- Nothing but the time block and the event recorder with its interrupts has changed. -/
def State.onlyClkLog (s t : State) : Prop := t = { s with clk := t.clk, dp := { s.dp with log := t.dp.log, irq := t.dp.irq } }

theorem State.onlyClkLog.torus {s t : State} (h : s.onlyClkLog t) : t.torus = s.torus := by rw [h]

theorem State.onlyClkLog.refl (s : State) : s.onlyClkLog s := rfl

theorem State.onlyClkLog.trans {s t u : State} (h : s.onlyClkLog t) (g : t.onlyClkLog u) : s.onlyClkLog u := by
  unfold State.onlyClkLog at *
  rw [g, h]

theorem State.onlyClkLog_clk (s : State) (c : Clk) : s.onlyClkLog { s with clk := c } := rfl

theorem State.onlyClkLog_note (s : State) (u c : Nat) (pay : List (Nat × Nat)) : s.onlyClkLog (s.note u c pay) := s.note_frame u c pay

/-- R407: a change of the lock. -/
theorem State.setLock_keeps (s : State) (l : Lock) :
    s.onlyClkLog (s.setLock l) ∧ (s.setLock l).clk = { s.clk with lock := l, holdAt := (s.setLock l).clk.holdAt } := by
  unfold State.setLock
  split
  · next h => exact ⟨.refl s, by rw [← h]⟩
  · exact ⟨(s.onlyClkLog_clk _).trans (State.onlyClkLog_note _ _ _ _), rfl⟩

/-- R37: the lock that follows a mark leaves time base and rate alone. -/
theorem State.lockAt_keeps (s : State) (err : Int) :
    s.onlyClkLog (s.lockAt err) ∧ (s.lockAt err).clk.tb = s.clk.tb ∧ (s.lockAt err).clk.stepped = s.clk.stepped ∧
      (s.lockAt err).clk.trim = s.clk.trim := by
  unfold State.lockAt
  split
  · obtain ⟨hf, hc⟩ := State.setLock_keeps { s with clk := { s.clk with acquired := true } } .locked
    exact ⟨(s.onlyClkLog_clk _).trans hf, by rw [hc], by rw [hc], by rw [hc]⟩
  · obtain ⟨hf, hc⟩ := s.setLock_keeps .acquire
    exact ⟨hf, by rw [hc], by rw [hc], by rw [hc]⟩

/-- R35: a rate trim within ±50 ppm. -/
def trimBound (t : BitVec 32) : Prop := -50000 ≤ t.toInt ∧ t.toInt ≤ 50000

theorem clampTrim_bound (t : BitVec 32) : trimBound (clampTrim 50000 t) := by
  have h : (clampTrim 50000 t).toInt = max (-50000) (min 50000 t.toInt) := by
    rw [clampTrim, BitVec.toInt_ofInt, Int.bmod_eq_of_le] <;> omega
  unfold trimBound
  omega

/-- R35, R60: the loop trims the rate, within ±50 ppm while a script is launched, and steps nothing. -/
theorem State.steer_keeps (s : State) (err : Int) :
    s.onlyClkLog (s.steer err) ∧ (s.steer err).clk.tb = s.clk.tb ∧ (s.steer err).clk.stepped = s.clk.stepped ∧
      (s.launched = true → trimBound (s.steer err).clk.trim) := by
  refine ⟨rfl, rfl, rfl, fun h => ?_⟩
  simp only [State.steer, h, if_true]
  exact clampTrim_bound _

/-- R35: what a mark that is taken may do: the time base stands, and so does the rate or, with a script launched, the rate comes within ±50 ppm;
or it is the one step, with no script launched. -/
structure State.Timed (s t : State) : Prop where
  only : s.onlyClkLog t
  time : (t.clk.tb = s.clk.tb ∧ (s.launched = true → t.clk.trim = s.clk.trim ∨ trimBound t.clk.trim)) ∨
    (s.launched = false ∧ s.clk.stepped = false ∧ t.clk.stepped = true)

theorem State.timed_refl (s : State) : s.Timed s := ⟨rfl, .inl ⟨rfl, fun _ => .inl rfl⟩⟩

theorem State.timed_steer (s : State) (err : Int) : s.Timed (s.steer err) :=
  have ⟨ho, ht, _, hb⟩ := s.steer_keeps err
  ⟨ho, .inl ⟨ht, fun h => .inr (hb h)⟩⟩

theorem State.mayStep_iff (s : State) : s.mayStep = true ↔ s.clk.acquired = false ∧ s.clk.stepped = false ∧ s.launched = false := by
  simp [State.mayStep, and_assoc]

/-- The lock may follow a mark in any way: it changes neither time base nor rate. -/
theorem State.Timed.lockAt {s t : State} (h : s.Timed t) (err : Int) : s.Timed (t.lockAt err) := by
  obtain ⟨ho, ht, hs, htr⟩ := t.lockAt_keeps err
  refine ⟨h.only.trans ho, ?_⟩
  rw [ht, hs, htr]
  exact h.time

/-- R35: the one step, of a package that may step. -/
theorem State.timed_stepBase (s : State) (err : Int) (h : s.mayStep = true) : s.Timed (s.stepBase err) :=
  have ⟨_, hst, hl⟩ := s.mayStep_iff.mp h
  ⟨rfl, .inr ⟨hl, hst, rfl⟩⟩

/-- R35, R37: the parent's mark. -/
theorem State.timed_takeMark (s : State) (err : Int) : s.Timed (s.takeMark err) := by
  unfold State.takeMark
  split
  · exact s.timed_refl
  · exact s.timed_steer err
  · split
    · next h => exact (s.timed_stepBase err (Bool.and_eq_true _ _ ▸ h).2).lockAt _
    · exact (s.timed_steer err).lockAt _
  · exact (s.timed_steer err).lockAt _

/-- R35, R40: the mark of a pod upstream. -/
theorem State.timed_takePodMark (s : State) (err : Int) : s.Timed (s.takePodMark err) := by
  unfold State.takePodMark
  split
  · next h =>
    obtain ⟨ho, hc⟩ := s.timed_stepBase err h
    exact ⟨ho.trans (State.onlyClkLog_clk _ _), hc⟩
  · exact s.timed_steer err

/-- R36: a mark is kept at the port it came to. -/
def State.keepMark (s : State) (p : Nat) (txT : BitVec 64) : State :=
  s.setPort p (fun x => { x with markTx := txT, markAt := s.clk.tb, marked := true })

/-- R36, R40: a mark on a port that carries flits is kept, and then it is the parent's, a pod upstream's, or only an echo. -/
theorem exec_timeSymbolReceive (p : Fin 24) (txT echoT : BitVec 64) (holdPs : BitVec 32) (s : State) (hc : s.torus.carries p.val = true) :
    ∃ t, exec (.timeSymbolReceive p txT echoT holdPs) s = .next t ∧ (s.keepMark p.val txT).Timed t := by
  have hexec : exec (.timeSymbolReceive p txT echoT holdPs) s = execTimeSymbolReceive p txT echoT holdPs s := rfl
  rw [Torus.carries] at hc
  rw [hexec, execTimeSymbolReceive, if_pos hc]
  refine ⟨_, rfl, ?_⟩
  dsimp only
  split
  · exact State.timed_refl _
  · split
    · split
      · exact State.timed_takePodMark _ _
      · exact State.timed_refl _
    · split
      · exact State.timed_takeMark _ _
      · exact State.timed_refl _

/-- A mark on a port that carries no flits is not taken. -/
theorem exec_timeSymbolReceive_idle (p : Fin 24) (txT echoT : BitVec 64) (holdPs : BitVec 32) (s : State)
    (hc : ¬ s.torus.carries p.val = true) : exec (.timeSymbolReceive p txT echoT holdPs) s = .next s := by
  have hexec : exec (.timeSymbolReceive p txT echoT holdPs) s = execTimeSymbolReceive p txT echoT holdPs s := rfl
  rw [Torus.carries] at hc
  rw [hexec, execTimeSymbolReceive, if_neg hc]

theorem Torus.carries_iff (t : Torus) (p : Nat) : t.carries p = true ↔ (t.port p).state = .live ∨ (t.port p).state = .lock := by
  simp [Torus.carries]

/-- R36: the mark that is kept, and the frame, of a mark on a port that carries flits. -/
theorem State.keepMark_timed {s t : State} {p : Nat} {txT : BitVec 64} (h : (s.keepMark p txT).Timed t) :
    ((t.torus.port p).markTx = txT ∧ (t.torus.port p).markAt = s.clk.tb ∧ (t.torus.port p).marked = true) ∧
      t = { s with clk := t.clk, torus := { s.torus with ports := t.torus.ports }, dp := { s.dp with log := t.dp.log, irq := t.dp.irq } } := by
  have hport : t.torus.port p = { s.torus.port p with markTx := txT, markAt := s.clk.tb, marked := true } := by
    rw [h.only.torus, State.keepMark, State.port_setPort, if_pos rfl]
  refine ⟨by rw [hport]; exact ⟨rfl, rfl, rfl⟩, ?_⟩
  rw [h.only.torus]
  exact h.only

/-- R325: a TIME symbol leaves a port that carries flits, with the time base of that moment. -/
theorem exec_timeSymbolSend (p : Fin 24) (s : State) (hc : s.torus.carries p.val = true) (hl : (s.torus.port p.val).unacked.length < 255) :
    ∃ m : BitVec 64, ∃ hold : Nat, exec (.timeSymbolSend p) s =
      .next (s.setPort p.val (fun x => x.sendFlit (s.torus.link p.val) (some (mkSymbol 1 [(16, s.clk.tb.toNat), (24, m.toNat), (32, hold)])))) := by
  refine ⟨(s.torus.port p.val).markTx,
    (if (s.torus.port p.val).marked then (s.clk.tb - (s.torus.port p.val).markAt).toNat * 1000 else 0) % 2 ^ 32, ?_⟩
  have hexec : exec (.timeSymbolSend p) s = execTimeSymbolSend p s := rfl
  rw [hexec, execTimeSymbolSend, if_pos (by simp [hc, hl])]

/-- Settles O5: a mark's effect on time base and rate is `State.Timed`, with what it keeps at its port (`keepMark_timed`); a symbol that leaves
holds the time base (`timeSymbol_fields`). -/
theorem timeMarksNeverStepALaunchedPackage : Obligations.TimeMarksNeverStepALaunchedPackage := by
  unfold Obligations.TimeMarksNeverStepALaunchedPackage
  refine ⟨fun p txT echoT holdPs s => ?_, fun p s hst hlen => ?_⟩
  · by_cases hc : s.torus.carries p.val = true
    · obtain ⟨t, ht, h⟩ := exec_timeSymbolReceive p txT echoT holdPs s hc
      obtain ⟨hmark, hframe⟩ := State.keepMark_timed h
      obtain ⟨htb, htrim⟩ | ⟨hnl, hns, hst⟩ := h.time
      · exact ⟨t, ht, fun _ => htb, fun hne => absurd htb hne, htrim, fun _ => hmark, hframe⟩
      · have hl : s.launched = false := hnl
        have hs : s.clk.stepped = false := hns
        exact ⟨t, ht, fun hor => absurd hor (by simp [hl, hs]), fun _ => hst, fun h => absurd h (by simp [hl]), fun _ => hmark, hframe⟩
    · exact ⟨s, exec_timeSymbolReceive_idle p txT echoT holdPs s hc, fun _ => rfl, fun h => absurd rfl h, fun _ => .inl rfl,
        fun h => absurd ((s.torus.carries_iff p.val).mpr h) hc, rfl⟩
  · obtain ⟨m, hold, ht⟩ := exec_timeSymbolSend p s ((s.torus.carries_iff p.val).mpr hst) hlen
    obtain ⟨htype, htime⟩ := timeSymbol_fields s.clk.tb m hold
    refine ⟨_, ht, ?_, ?_, ?_, fun q hq => ?_, rfl⟩
    · rw [State.port_setPort, if_pos rfl]
      rfl
    · rw [State.port_setPort, if_pos rfl]
      exact htype
    · rw [State.port_setPort, if_pos rfl]
      exact htime
    · rw [State.port_setPort, if_neg hq]

end Sys2Proof.Machine
end

section
/-! What the operations of a stroke boundary leave of the stroke's own numbers (R48–R57): stroke, start, stretch, period, and the waiting
commands. Only the go marker's start sets them. -/

namespace Sys2Proof.Machine

/-- The stroke in progress, its start, stretch and period, whether the package has joined, and the waiting commands. -/
def State.strokeOf (s : State) : BitVec 64 × BitVec 64 × BitVec 6 × BitVec 12 × Bool × List Instr :=
  (s.clk.stroke, s.clk.sstart, s.clk.k, s.clk.period, s.clk.joined, s.pending)

/-- The data path holds no number of the stroke. -/
theorem State.strokeOf_dp (s : State) (d : Dp) : ({ s with dp := d } : State).strokeOf = s.strokeOf := rfl

/-- Either branch of a choice keeps them. -/
theorem State.strokeOf_ite {c : Prop} [Decidable c] {s a b : State} (ha : a.strokeOf = s.strokeOf) (hb : b.strokeOf = s.strokeOf) :
    (if c then a else b).strokeOf = s.strokeOf := by
  split
  · exact ha
  · exact hb

/-! ### The torus -/

theorem State.strokeOf_symbolTo (s : State) (dir : Nat) (sym : BitVec 512) : (s.symbolTo dir sym).strokeOf = s.strokeOf := by
  unfold State.symbolTo
  split <;> rfl

theorem State.strokeOf_sendGo (s : State) (m : BitVec 128) : (s.sendGo m).strokeOf = s.strokeOf :=
  foldl_keeps State.strokeOf (fun s dir => s.strokeOf_symbolTo dir (mkSymbol 3 [(16, m.toNat)])) _ s

theorem State.strokeOf_routePacket (s : State) (d : Nat) (arrived : Option (Nat × Nat)) (k : Packet) :
    (s.routePacket d arrived k).strokeOf = s.strokeOf := by
  unfold State.routePacket
  split <;> rfl

theorem State.strokeOf_originate (s : State) (d unit typ vc dpkg dpod addr : Nat) (tag : BitVec 64) (args : BitVec 256)
    (lines : List (BitVec 512)) : (s.originate d unit typ vc dpkg dpod addr tag args lines).strokeOf = s.strokeOf := by
  unfold State.originate
  extract_lets k s₁
  refine (State.strokeOf_routePacket s₁ ..).trans ?_
  change (if lines.isEmpty then s else _).strokeOf = s.strokeOf
  split <;> rfl

theorem State.strokeOf_releaseWaiting (s : State) : s.releaseWaiting.strokeOf = s.strokeOf := by
  unfold State.releaseWaiting
  refine foldl_keeps State.strokeOf (fun s x => ?_) _ _
  exact foldl_keeps State.strokeOf (fun s k => s.strokeOf_routePacket _ _ k) _ s

theorem State.strokeOf_sendRecovRd (s : State) (j addr n : Nat) (parity tally : Bool) :
    (s.sendRecovRd j addr n parity tally).strokeOf = s.strokeOf := s.strokeOf_originate ..

theorem State.strokeOf_sendTally (s : State) (t : Tally) (parity : Bool) : (s.sendTally t parity).strokeOf = s.strokeOf := by
  unfold State.sendTally
  extract_lets dir
  split
  · rfl
  · refine foldl_keeps State.strokeOf (fun s i => ?_) _ _
    exact (State.strokeOf_originate ..).trans rfl

/-! ### Queues, launches and controls -/

theorem State.strokeOf_endLaunch (s : State) (p st detail : Nat) (stopEnded torn : Bool) :
    (s.endLaunch p st detail stopEnded torn).strokeOf = s.strokeOf := by
  unfold State.endLaunch
  split
  · rfl
  · exact foldl_keeps State.strokeOf (fun _ _ => by rfl) _ _

theorem State.strokeOf_stopNow (s : State) (p : Nat) : (s.stopNow p).strokeOf = s.strokeOf := by
  unfold State.stopNow
  split
  · rfl
  · split
    · exact s.strokeOf_endLaunch ..
    · rfl

theorem State.strokeOf_finishAll (s : State) (l : List (Nat × Nat)) (st det : Nat) : (s.finishAll l st det).strokeOf = s.strokeOf := by
  refine foldl_keeps State.strokeOf (fun s x => ?_) _ _
  rfl

theorem State.strokeOf_disableDesc (s : State) (q : Nat) (y : Desc) : (s.disableDesc q y).strokeOf = s.strokeOf := by
  unfold State.disableDesc State.abandon
  dsimp only
  split
  · split
    · rfl
    · exact State.strokeOf_finishAll ..
  · rfl

theorem State.strokeOf_applyQctl (s : State) (c : Ctl) : (s.applyQctl c).strokeOf = s.strokeOf := by
  unfold State.applyQctl
  split
  · rfl
  · refine (foldl_keeps State.strokeOf (fun s y => ?_) _ _).trans rfl
    exact s.strokeOf_disableDesc ..

theorem State.strokeOf_queueCtls (s : State) : s.queueCtls.strokeOf = s.strokeOf := by
  unfold State.queueCtls
  refine (foldl_keeps State.strokeOf (fun s c => ?_) _ _).trans (foldl_keeps State.strokeOf (fun s c => ?_) _ _)
  · rfl
  · exact s.strokeOf_applyQctl c

theorem State.strokeOf_engineCtls (s : State) : s.engineCtls.strokeOf = s.strokeOf := by
  unfold State.engineCtls
  refine (foldl_keeps State.strokeOf (fun s c => ?_) _ _).trans (foldl_keeps State.strokeOf (fun s c => ?_) _ _)
  · rfl
  · rfl

theorem State.strokeOf_stepLaunch (s : State) (n p : Nat) : (s.stepLaunch n p).strokeOf = s.strokeOf := by
  unfold State.stepLaunch
  repeat' split
  all_goals rfl

/-! ### Rollback -/

theorem State.strokeOf_onLaunches (s : State) (f : Nat → Launch → Launch) : (s.onLaunches f).strokeOf = s.strokeOf := by
  refine foldl_keeps State.strokeOf (fun s p => ?_) _ s
  rfl

theorem State.strokeOf_takeTally (s : State) (p : Nat) : (s.takeTally p).strokeOf = s.strokeOf := by
  unfold State.takeTally
  extract_lets t dies
  split
  · rfl
  · exact s.strokeOf_dp _

theorem State.strokeOf_beginRestore (s : State) (dies : Nat) (withTally : Bool) : (s.beginRestore dies withTally).strokeOf = s.strokeOf := by
  have asked : ∀ (l : List Nat) (m : List Nat) (f g : Nat → Nat) (b : Bool) (t : State),
      (l.foldl (fun s j => m.foldl (fun s i => s.sendRecovRd j (f i) (g i) b false) s) t).strokeOf = t.strokeOf := by
    intro l m f g b t
    refine foldl_keeps State.strokeOf (fun s j => ?_) _ _
    refine foldl_keeps State.strokeOf (fun s i => ?_) _ _
    exact s.strokeOf_sendRecovRd ..
  unfold State.beginRestore
  refine (State.strokeOf_dp _ _).trans ?_
  dsimp only
  split
  · rfl
  · split
    · refine (foldl_keeps State.strokeOf (fun s i => ?_) _ _).trans (asked ..)
      exact s.strokeOf_sendRecovRd ..
    · exact asked ..

/-- R435: the partitions of a held job. -/
theorem State.strokeOf_takeHeld (l : List Nat) (t : State) : (l.foldl (fun (s : State) p =>
    (s.takeTally p).onMem (fun m => m.clear (fun a => m.accAddrOf (s.getPartn p).dies.toNat a))) t).strokeOf = t.strokeOf := by
  refine foldl_keeps State.strokeOf (fun s p => ?_) _ _
  exact (State.strokeOf_dp _ _).trans (s.strokeOf_takeTally p)

theorem State.strokeOf_beginHold (s : State) : s.beginHold.strokeOf = s.strokeOf := by
  unfold State.beginHold
  extract_lets need s₁ ps back dies s₂ d f d' τ s₃
  have held : s₂.strokeOf = s.strokeOf := (State.strokeOf_takeHeld _ _).trans (s.strokeOf_onLaunches _)
  clear_value s₂
  have h : s₃.strokeOf = s.strokeOf := (show s₃.strokeOf = s₂.strokeOf from rfl).trans held
  split
  · exact h
  · exact (State.strokeOf_beginRestore _ _ _).trans h

/-- The step state of every partition that runs a launch comes from the tally. -/
theorem State.strokeOf_takeTallies (s : State) :
    ([0, 1, 2, 3].foldl (fun (s : State) p => if (s.getPartn p).launch.isSome then s.takeTally p else s) s).strokeOf = s.strokeOf := by
  refine foldl_keeps State.strokeOf (fun s p => ?_) _ s
  split
  · exact s.strokeOf_takeTally p
  · rfl

theorem State.strokeOf_resumeBody (s : State) : s.resumeBody.strokeOf = s.strokeOf := by
  unfold State.resumeBody State.passUndone
  refine (State.strokeOf_dp _ _).trans ((State.strokeOf_dp _ _).trans ?_)
  exact (State.strokeOf_onLaunches _ _).trans s.strokeOf_takeTallies

theorem State.strokeOf_regenNext (s : State) : s.regenNext.strokeOf = s.strokeOf := by
  unfold State.regenNext
  exact (State.strokeOf_dp _ _).trans (s.strokeOf_onLaunches _)

theorem State.strokeOf_recoverMove (s : State) : s.recoverMove.strokeOf = s.strokeOf := by
  have dropped : (if s.dp.fr.regen then s.onLaunches (fun _ l => { l with regen := l.regen.drop 1 }) else s).strokeOf = s.strokeOf :=
    State.strokeOf_ite (s.strokeOf_onLaunches _) rfl
  unfold State.recoverMove
  refine State.strokeOf_ite rfl ?_
  extract_lets s₁
  have h : s₁.strokeOf = s.strokeOf := dropped
  clear_value s₁
  rw [← h]
  exact State.strokeOf_ite s₁.strokeOf_regenNext (State.strokeOf_ite s₁.strokeOf_resumeBody (s₁.strokeOf_dp _))

theorem State.strokeOf_stepLaunches (s : State) (n : Nat) : (s.stepLaunches n).strokeOf = s.strokeOf := by
  unfold State.stepLaunches
  split
  · exact s.strokeOf_beginHold
  · split
    · exact s.strokeOf_recoverMove
    · refine foldl_keeps State.strokeOf (fun s p => ?_) _ s
      exact s.strokeOf_stepLaunch n p

/-- Trace events of a list of units. -/
theorem State.strokeOf_onDps {α : Type} (f : α → Env → Dp → Dp) (l : List α) (s : State) :
    (l.foldl (fun (s : State) x => s.onDp (f x)) s).strokeOf = s.strokeOf := by
  refine foldl_keeps State.strokeOf (fun s x => ?_) _ s
  rfl

theorem State.strokeOf_startUnits (s : State) : s.startUnits.strokeOf = s.strokeOf := by
  unfold State.startUnits
  exact (State.strokeOf_onDps (fun u e d => trace e u { kind := 1, a0 := e.stroke.toNat } d) _ _).trans (State.strokeOf_dp _ _)

theorem State.strokeOf_recoverNow (s : State) : s.recoverNow.strokeOf = s.strokeOf := by
  unfold State.recoverNow
  split
  · exact (State.strokeOf_dp _ _).trans ((State.strokeOf_startUnits _).trans s.strokeOf_recoverMove)
  · rfl

/-! ### Closing a stroke -/

theorem State.strokeOf_countLate (s : State) (t : Nat) : (s.countLate t).strokeOf = s.strokeOf := by
  unfold State.countLate
  extract_lets late c₀ c
  change ({ s with clk := c } : State).strokeOf = s.strokeOf
  by_cases h : late = 0
  · rw [show c = s.clk from if_pos h]
  · rw [show c = _ from if_neg h]
    rfl

theorem State.strokeOf_chooseFor (s : State) (ks : List Nat) : (s.chooseFor ks).strokeOf = s.strokeOf := by
  unfold State.chooseFor
  extract_lets sl r
  split <;> rfl

theorem State.strokeOf_choosePower (s : State) : s.choosePower.strokeOf = s.strokeOf := by
  unfold State.choosePower
  exact Eq.trans rfl (s.strokeOf_chooseFor _)

theorem State.strokeOf_rootClose (s : State) (m : BitVec 128) : (s.rootClose m).strokeOf = s.strokeOf := by
  unfold State.rootClose
  extract_lets n1 t k p g late c s₁ s₂
  have h : s₂.strokeOf = s.strokeOf := (State.strokeOf_sendGo _ _).trans ((State.strokeOf_countLate _ _).trans rfl)
  split
  · exact h
  · exact Eq.trans rfl h

theorem State.strokeOf_enterOwn (s : State) (v : BitVec 128) :
    (if s.clk.own = 0 then { s with clk := { s.clk with own := v } } else s).strokeOf = s.strokeOf :=
  State.strokeOf_ite rfl rfl

/-- R48–R53: the close of a stroke changes none of its numbers. -/
theorem State.strokeOf_tryClose (s : State) : s.tryClose.strokeOf = s.strokeOf := by
  unfold State.tryClose
  extract_lets s₁ c s₂ s₃ m c'
  have late : s₁.strokeOf = s.strokeOf := State.strokeOf_ite s.strokeOf_recoverNow rfl
  have own : s₂.strokeOf = s₁.strokeOf := s₁.strokeOf_enterOwn _
  have chosen : s₃.strokeOf = s₂.strokeOf := s₂.strokeOf_choosePower
  clear_value s₁ s₂ s₃ m
  rw [← late]
  refine State.strokeOf_ite rfl ?_
  rw [← own, ← chosen]
  exact State.strokeOf_ite (s₃.strokeOf_rootClose m) ((State.strokeOf_symbolTo _ _ _).trans rfl)

end Sys2Proof.Machine
end

section
/-! STROKE_START (R48–R57): the end of a stroke and the begin of the next keep the numbers of the stroke; the go marker's start sets them. -/

namespace Sys2Proof.Machine

/-! ### The end of a stroke -/

theorem State.strokeOf_note (s : State) (u typ : Nat) (p : List (Nat × Nat)) : (s.note u typ p).strokeOf = s.strokeOf := rfl

theorem State.strokeOf_onDp (s : State) (f : Env → Dp → Dp) : (s.onDp f).strokeOf = s.strokeOf := rfl

theorem State.strokeOf_setPartn (s : State) (p : Nat) (f : Partition → Partition) : (s.setPartn p f).strokeOf = s.strokeOf := rfl

theorem State.strokeOf_closeStep (s : State) (p : Nat) : (s.closeStep p).strokeOf = s.strokeOf := by
  unfold State.closeStep
  split
  · rfl
  · rename_i l _
    extract_lets d q send d₁ d₂ d₃ s₁ q' par t f f' d₄ s₂ s₃ s₄ s₅
    have h₁ : s₁.strokeOf = s.strokeOf := s.strokeOf_dp d₃
    have h₂ : s₂.strokeOf = s₁.strokeOf := State.strokeOf_ite ((State.strokeOf_sendTally _ t par).trans (s₁.strokeOf_dp _)) rfl
    have h₃ : s₃.strokeOf = s₂.strokeOf := s₂.strokeOf_dp _
    have h₄ : s₄.strokeOf = s₃.strokeOf := foldl_keeps State.strokeOf (fun s r => State.strokeOf_ite rfl (s.strokeOf_onDp _)) _ s₃
    have h₅ : s₅.strokeOf = s₄.strokeOf := s₄.strokeOf_setPartn p _
    clear_value s₁ s₂ s₃ s₄ s₅ q'
    rw [← h₁, ← h₂, ← h₃, ← h₄, ← h₅]
    exact State.strokeOf_ite (s₅.strokeOf_endLaunch ..) (State.strokeOf_ite (s₅.strokeOf_endLaunch ..) rfl)

theorem State.strokeOf_settlePower (s : State) (t : Nat) : (s.settlePower t).strokeOf = s.strokeOf := rfl

theorem State.strokeOf_latchGates (s : State) : s.latchGates.strokeOf = s.strokeOf := s.strokeOf_dp _

theorem State.strokeOf_sampleEnd (s : State) : s.sampleEnd.strokeOf = s.strokeOf := by
  unfold State.sampleEnd
  extract_lets used s₁ live s₂
  have h₁ : s₁.strokeOf = s.strokeOf := s.strokeOf_onDp _
  have h₂ : s₂.strokeOf = s₁.strokeOf := foldl_keeps State.strokeOf (fun s p => s.strokeOf_onDp _) _ s₁
  clear_value s₁ s₂
  rw [← h₁, ← h₂]
  rfl

theorem State.strokeOf_histRecords (s : State) (q : Nat) : (s.histRecords q).strokeOf = s.strokeOf := by
  unfold State.histRecords
  extract_lets h s₁ s₂
  exact State.strokeOf_ite rfl ((State.strokeOf_dp _ _).trans ((s₁.strokeOf_note ..).trans (s.strokeOf_note ..)))

theorem State.strokeOf_histEnd (s : State) : s.histEnd.strokeOf = s.strokeOf :=
  State.strokeOf_ite rfl (foldl_keeps State.strokeOf (fun s q => s.strokeOf_histRecords q) _ s)

theorem State.strokeOf_replayEnd (s : State) : s.replayEnd.strokeOf = s.strokeOf :=
  State.strokeOf_ite rfl (State.strokeOf_dp _ _)

theorem State.strokeOf_setTests (s : State) (t : St) : (s.setTests t).strokeOf = s.strokeOf := rfl

theorem State.strokeOf_passesEnd (s : State) : s.passesEnd.strokeOf = s.strokeOf :=
  (State.strokeOf_setTests _ _).trans (s.strokeOf_dp _)

theorem State.strokeOf_stopsNow (s : State) (l : List Nat) : (l.foldl State.stopNow s).strokeOf = s.strokeOf :=
  foldl_keeps State.strokeOf (fun s p => s.strokeOf_stopNow p) l s

theorem State.strokeOf_endStroke (s : State) (t : Nat) : (s.endStroke t).strokeOf = s.strokeOf := by
  unfold State.endStroke
  extract_lets s₁ s₂ s₃
  have h₁ : s₁.strokeOf = s.strokeOf :=
    (State.strokeOf_sampleEnd _).trans ((State.strokeOf_latchGates _).trans (s.strokeOf_settlePower t))
  have h₂ : s₂.strokeOf = s₁.strokeOf :=
    foldl_keeps State.strokeOf (fun s p => State.strokeOf_ite (s.strokeOf_closeStep p) rfl) _ s₁
  have h₃ : s₃.strokeOf = s₂.strokeOf := s₂.strokeOf_stopsNow _
  rw [State.strokeOf_passesEnd, State.strokeOf_histEnd, State.strokeOf_replayEnd, h₃, h₂, h₁]

/-! ### The begin of a stroke -/

theorem State.strokeOf_swapBanks (s : State) : s.swapBanks.strokeOf = s.strokeOf := by
  unfold State.swapBanks
  extract_lets tables s₁
  have h₁ : s₁.strokeOf = s.strokeOf := (State.strokeOf_releaseWaiting _).trans rfl
  clear_value s₁
  rw [← h₁]
  exact State.strokeOf_ite (s₁.strokeOf_onDp _) rfl

theorem State.strokeOf_bankSwap (s : State) : s.bankSwap.strokeOf = s.strokeOf := by
  unfold State.bankSwap
  split
  · rfl
  · exact State.strokeOf_ite s.strokeOf_swapBanks rfl

theorem State.strokeOf_portsReturn (s : State) : s.portsReturn.strokeOf = s.strokeOf := by
  unfold State.portsReturn
  refine State.strokeOf_ite rfl ((State.strokeOf_releaseWaiting _).trans ?_)
  refine foldl_keeps State.strokeOf (fun s p => ?_) _ s
  rfl

theorem State.strokeOf_serviceRecords (s : State) (was : List Nat) : (s.serviceRecords was).strokeOf = s.strokeOf := by
  unfold State.serviceRecords
  exact (foldl_keeps State.strokeOf (fun s r => s.strokeOf_note ..) _ _).trans
    (foldl_keeps State.strokeOf (fun s r => s.strokeOf_note ..) _ _)

theorem State.strokeOf_powerTests (s : State) : s.powerTests.strokeOf = s.strokeOf := by
  unfold State.powerTests
  split
  · rfl
  · exact State.strokeOf_ite (s.strokeOf_setTests _) rfl

theorem State.strokeOf_blotStart (s : State) : s.blotStart.strokeOf = s.strokeOf := s.strokeOf_dp _

theorem State.strokeOf_callVolts (s : State) (mv : Tab (BitVec 12)) : (s.callVolts mv).strokeOf = s.strokeOf := rfl

theorem State.strokeOf_beginPower (s : State) : s.beginPower.strokeOf = s.strokeOf := by
  unfold State.beginPower
  extract_lets sl k own c opp opp' f nx fl s₁
  have h₁ : s₁.strokeOf = s.strokeOf := s.strokeOf_callVolts _
  clear_value s₁
  rw [← h₁]
  rfl

theorem State.strokeOf_causeRegion (s : State) (r b : Nat) : (s.causeRegion r b).strokeOf = s.strokeOf := s.strokeOf_onDp _

theorem State.strokeOf_droopAt (s : State) (r below : Nat) : (s.droopAt r below).strokeOf = s.strokeOf := by
  unfold State.droopAt
  extract_lets was lv s₁
  have h₁ : s₁.strokeOf = s.strokeOf := rfl
  clear_value s₁
  refine State.strokeOf_ite rfl ?_
  rw [← h₁]
  exact State.strokeOf_ite ((State.strokeOf_note ..).trans (s₁.strokeOf_causeRegion r 2)) rfl

theorem State.strokeOf_carryCauses (s : State) : s.carryCauses.strokeOf = s.strokeOf := by
  refine foldl_keeps State.strokeOf (fun s r => ?_) _ s
  extract_lets was s₁ s₂
  have h₁ : s₁.strokeOf = s.strokeOf := s.strokeOf_droopAt r _
  have h₂ : s₂.strokeOf = s₁.strokeOf := State.strokeOf_ite (s₁.strokeOf_causeRegion r 2) rfl
  clear_value s₁ s₂
  rw [← h₁, ← h₂]
  exact State.strokeOf_ite (s₂.strokeOf_causeRegion r 0) rfl

theorem State.strokeOf_stretchRecord (s : State) (was : Nat) : (s.stretchRecord was).strokeOf = s.strokeOf :=
  State.strokeOf_ite rfl (s.strokeOf_note ..)

/-- R48–R57: what a stroke takes over as it begins leaves its numbers as the go marker set them. -/
theorem State.strokeOf_newStroke (s : State) (m : BitVec 128) :
    (s.newStroke m).strokeOf = ({ s with clk := s.clk.begin m } : State).strokeOf := by
  unfold State.newStroke
  extract_lets k served s₁ s₂ s₃ s₄ s₅
  have h₁ : s₁.strokeOf = ({ s with clk := s.clk.begin m } : State).strokeOf := State.strokeOf_stretchRecord _ k
  have h₂ : s₂.strokeOf = s₁.strokeOf := (State.strokeOf_engineCtls _).trans s₁.strokeOf_queueCtls
  have h₃ : s₃.strokeOf = s₂.strokeOf := (State.strokeOf_portsReturn _).trans s₂.strokeOf_bankSwap
  have h₄ : s₄.strokeOf = s₃.strokeOf := s₃.strokeOf_stepLaunches _
  have h₅ : s₅.strokeOf = s₄.strokeOf := s₄.strokeOf_stopsNow _
  rw [State.strokeOf_carryCauses, State.strokeOf_startUnits, State.strokeOf_beginPower, State.strokeOf_blotStart, State.strokeOf_powerTests,
    State.strokeOf_serviceRecords, h₅, h₄, h₃, h₂, h₁]

/-- R54: what the go marker sets. -/
theorem Clk.begin_fields (c : Clk) (m : BitVec 128) :
    (c.begin m).stroke = (if c.joined then c.stroke + 1 else BitVec.ofNat 64 (goStroke m)) ∧ (c.begin m).sstart = goT m ∧
      (c.begin m).k.toNat = goK m ∧ (c.begin m).period.toNat = goPeriod m ∧ (c.begin m).joined = true :=
  ⟨rfl, rfl, Nat.mod_eq_of_lt (Nat.mod_lt _ (by decide)), Nat.mod_eq_of_lt (Nat.mod_lt _ (by decide)), rfl⟩

theorem State.strokeOf_advance (s : State) (t : Nat) : (s.advance t).strokeOf = s.strokeOf := by
  unfold State.advance Clk.advance
  split <;> rfl

/-- R50: a stroke that starts has the numbers of its go marker, counted from the stroke before. -/
theorem State.strokeOf_startStroke (s : State) (m : BitVec 128) :
    (s.startStroke m).strokeOf = ({ s with clk := s.clk.begin m } : State).strokeOf := by
  unfold State.startStroke
  extract_lets s₁ s₂
  have h : s₂.strokeOf = s.strokeOf := (State.strokeOf_ite (s₁.strokeOf_endStroke _) rfl).trans (s.strokeOf_advance _)
  rw [State.strokeOf_tryClose, State.strokeOf_newStroke]
  clear_value s₂
  simp only [State.strokeOf, Prod.mk.injEq] at h
  obtain ⟨hn, -, -, -, hj, hp⟩ := h
  simp only [State.strokeOf, Clk.begin, hn, hj, hp]

/-- Settles O8: `State.strokeOf` follows the stroke's numbers through `State.startStroke`, and they are those of `Clk.begin`. -/
theorem strokeStartsAtItsGoMarker : Obligations.StrokeStartsAtItsGoMarker := by
  unfold Obligations.StrokeStartsAtItsGoMarker
  have hexec (s : State) : exec .strokeStart s = execStrokeStart s := rfl
  refine ⟨fun s m hgo hf ht hv hd hc => ⟨s.startStroke m, ?_, ?_⟩, fun s h => ?_⟩
  · rw [hexec, execStrokeStart]
    simp only [hgo, hf, ht, hv, hd, hc, Bool.or_false, Bool.false_eq_true, if_false]
  · have h := s.strokeOf_startStroke m
    simp only [State.strokeOf, Prod.mk.injEq] at h
    obtain ⟨hn, hs, hk, hp, hj, hw⟩ := h
    rw [hn, hs, hk, hp, hj]
    obtain ⟨bn, bs, bk, bp, bj⟩ := s.clk.begin_fields m
    exact ⟨bn, bs, bk, bp, bj, hw⟩
  · rw [hexec, execStrokeStart]
    split
    · rfl
    · rename_i m hgo
      rw [if_pos]
      simpa [hgo, or_assoc] using h

end Sys2Proof.Machine
end

section
/-! GO_MARKER_RECEIVE (R51, R54, R55). -/

namespace Sys2Proof.Machine

/-- A symbol sent leaves the time block and the data path alone. -/
theorem State.symbolTo_keeps (s : State) (dir : Nat) (sym : BitVec 512) :
    ((s.symbolTo dir sym).clk, (s.symbolTo dir sym).dp) = (s.clk, s.dp) := by
  unfold State.symbolTo
  split <;> rfl

theorem State.sendGo_keeps (s : State) (m : BitVec 128) : ((s.sendGo m).clk, (s.sendGo m).dp) = (s.clk, s.dp) :=
  foldl_keeps (fun t : State => (t.clk, t.dp)) (fun s dir => s.symbolTo_keeps dir (mkSymbol 3 [(16, m.toNat)])) _ s

/-- A sample of a histogram leaves memory and units alone. -/
theorem sample_keeps (e : Env) (qty shift unit v : Nat) (d : Dp) :
    ((sample e qty shift unit v d).mem, (sample e qty shift unit v d).units) = (d.mem, d.units) := by
  unfold sample
  split <;> rfl

/-- R56: the count of lateness leaves the time base, the stroke, memory and units. -/
theorem State.countLate_keeps (s : State) (t : Nat) :
    ((s.countLate t).clk.tb, (s.countLate t).clk.stroke, (s.countLate t).dp.mem, (s.countLate t).dp.units) =
      (s.clk.tb, s.clk.stroke, s.dp.mem, s.dp.units) := by
  have hd : ((s.countLate t).dp.mem, (s.countLate t).dp.units) = (s.dp.mem, s.dp.units) := sample_keeps ..
  have hc : ((s.countLate t).clk.tb, (s.countLate t).clk.stroke) = (s.clk.tb, s.clk.stroke) := by
    unfold State.countLate
    extract_lets late c₀ c
    change (c.tb, c.stroke) = _
    by_cases h : late = 0
    · rw [show c = s.clk from if_pos h]
    · rw [show c = _ from if_neg h]
  simp only [Prod.mk.injEq] at hd hc ⊢
  exact ⟨hc.1, hc.2, hd.1, hd.2⟩

/-- R54: a marker taken is the one scheduled, with the time of its coming. -/
theorem State.acceptGo_schedules (s : State) (m : BitVec 128) :
    (s.acceptGo m).clk.go = some m ∧ (s.acceptGo m).clk.goAt = s.clk.tb ∧ (s.acceptGo m).clk.stroke = s.clk.stroke ∧
      (s.acceptGo m).dp.mem = s.dp.mem ∧ (s.acceptGo m).dp.units = s.dp.units := by
  unfold State.acceptGo
  extract_lets late s₁ c s₂
  have counted : (s₁.clk.tb, s₁.clk.stroke, s₁.dp.mem, s₁.dp.units) = (s.clk.tb, s.clk.stroke, s.dp.mem, s.dp.units) := by
    by_cases h : s.clk.joined = true
    · rw [show s₁ = _ from if_pos h]
      exact s.countLate_keeps _
    · rw [show s₁ = s from if_neg h]
  obtain ⟨hclk, hdp⟩ : s₂.clk = { s₁.clk with go := some m, goAt := s₁.clk.tb } ∧ s₂.dp = s₁.dp := Prod.mk.inj (State.sendGo_keeps _ m)
  clear_value s₁ s₂
  simp only [Prod.mk.injEq] at counted
  obtain ⟨htb, hstroke, hmem, hunits⟩ := counted
  have h : s₂.clk.go = some m ∧ s₂.clk.goAt = s.clk.tb ∧ s₂.clk.stroke = s.clk.stroke ∧ s₂.dp.mem = s.dp.mem ∧
      s₂.dp.units = s.dp.units := by
    rw [hclk, hdp]
    exact ⟨rfl, htb, hstroke, hmem, hunits⟩
  split
  · rw [State.note_clk, State.note_mem, State.note_units]
    exact h
  · exact h

theorem goOld_iff (c : Clk) (m : BitVec 128) :
    goOld c m = true ↔ c.joined = true ∧ (c.stroke.toNat + 2 ^ 40 - goStroke m) % 2 ^ 40 < 2 ^ 39 := by
  simp [goOld]

theorem goBad_iff (c : Clk) (m : BitVec 128) : goBad c m = true ↔ goK m > 48 ∨ goPeriod m < 25 ∨ goPeriod m > 4000 ∨
    (c.joined = true ∧ goStroke m ≠ (c.stroke.toNat + 1) % 2 ^ 40) := by
  simp [goBad, or_assoc]

/-- R55: the marker of the next stroke is none of a stroke already started. -/
theorem goOld_next (c : Clk) (m : BitVec 128) (h : c.joined = true → goStroke m = (c.stroke.toNat + 1) % 2 ^ 40) : goOld c m = false := by
  rw [← Bool.not_eq_true, goOld_iff]
  rintro ⟨hj, hlt⟩
  have hn := h hj
  omega

/-- Settles O7: the branches of GO_MARKER_RECEIVE on a member are those of `goOld`, `goBad` and `State.acceptGo`. -/
theorem goMarkersScheduleTheStroke : Obligations.GoMarkersScheduleTheStroke := by
  unfold Obligations.GoMarkersScheduleTheStroke
  intro p m s hroot hplaced hinter
  have hexec : exec (.goMarkerReceive p m) s = .next (if goOld s.clk m then s
      else if goBad s.clk m then s.setPort p.val (fun x => { x with nakOwed := true })
      else if s.clk.go.isSome then s else s.acceptGo m) := by
    change execGoMarkerReceive p m s = _
    simp [execGoMarkerReceive, hroot, hplaced, hinter]
  rw [hexec]
  refine ⟨fun hold => ?_, fun hnew hbad => ?_, fun hk hmin hmax hnext hgo => ⟨s.acceptGo m, ?_, s.acceptGo_schedules m⟩⟩
  · rw [if_pos ((goOld_iff _ _).2 hold)]
  · rw [if_neg (mt (goOld_iff _ _).1 hnew), if_pos ((goBad_iff _ _).2 hbad)]
  · have hgood : ¬ goBad s.clk m = true := by
      rw [goBad_iff]
      rintro (h | h | h | ⟨hj, h⟩)
      · omega
      · omega
      · omega
      · exact h (hnext hj)
    rw [goOld_next _ _ hnext, if_neg Bool.false_ne_true, if_neg hgood, hgo]
    rfl

end Sys2Proof.Machine
end

section
/-! What work of the data path stores: which bytes of package memory it may change, and that records, trace events, voids and faults change
none outside the inkwell area (R417). -/

namespace Sys2Proof.Machine

/-! ### Bytes stored -/

/-- What the address map depends on (R87, R89, R463). -/
def Mem.addrMap (m : Mem) : BitVec 16 × BitVec 8 × BitVec 5 × BitVec 64 × BitVec 12 := (m.ilv, m.localGib, m.ink, m.isoRegions, m.isoStacks)

theorem Mem.inInk_of_addrMap {m n : Mem} (h : n.addrMap = m.addrMap) : n.inInk = m.inInk := by
  simp only [Mem.addrMap, Prod.mk.injEq] at h
  obtain ⟨-, -, hink, -, -⟩ := h
  funext k
  unfold Mem.inInk Mem.inkBase
  rw [hink]

theorem Mem.key_of_addrMap {m n : Mem} (h : n.addrMap = m.addrMap) : n.key = m.key := by
  simp only [Mem.addrMap, Prod.mk.injEq] at h
  obtain ⟨hilv, -, -, -, -⟩ := h
  funext l
  cases l <;> simp only [Mem.key, hilv]

theorem Mem.at48_of_addrMap {m n : Mem} (h : n.addrMap = m.addrMap) : n.at48 = m.at48 := by
  simp only [Mem.addrMap, Prod.mk.injEq] at h
  obtain ⟨hilv, hgib, hink, hregions, hstacks⟩ := h
  have hmap : n.resolveMap = m.resolveMap := by
    funext a
    simp only [Mem.resolveMap, hilv, hgib]
  have hiso : n.isolated = m.isolated := by
    funext l
    cases l <;> simp only [Mem.isolated, hregions, hstacks]
  have hin : n.inkLoc = m.inkLoc := by
    funext l
    unfold Mem.inkLoc Mem.inkBase
    rw [hink, hilv]
  funext a
  simp only [Mem.at48, Mem.resolve, hmap, hiso, hin]

/-- Byte `k` belongs to no mapped line at an address `p` names. -/
def Mem.outside (m : Mem) (p : Nat → Prop) (k : Nat) : Prop :=
  ∀ a l, p a → m.at48 a = some l → lineBytes (m.key l) k = false

theorem Mem.outside_of_addrMap {m n : Mem} (h : n.addrMap = m.addrMap) (p : Nat → Prop) (k : Nat) : n.outside p k ↔ m.outside p k := by
  simp only [Mem.outside, Mem.at48_of_addrMap h, Mem.key_of_addrMap h]

/-- What follows when work has stored at no line but those at the addresses `p`: the address map stands, and so does every byte outside those
lines and the inkwell area. -/
structure Dp.Stores (p : Nat → Prop) (d t : Dp) : Prop where
  addrMap : t.mem.addrMap = d.mem.addrMap
  bytes : ∀ k, d.mem.outside p k → d.mem.inInk k = false → t.mem.byte k = d.mem.byte k

/-- Work that stores nothing. -/
def Dp.StoresNothing (d t : Dp) : Prop := d.Stores (fun _ => False) t

variable {p : Nat → Prop} {d t u : Dp}

theorem Dp.Stores.of_cells (hm : t.mem.addrMap = d.mem.addrMap) (hc : t.mem.cells = d.mem.cells) : d.Stores p t :=
  ⟨hm, fun k _ _ => by rw [Mem.byte, hc, ← Mem.byte]⟩

theorem Dp.Stores.of_mem (h : t.mem = d.mem) : d.Stores p t := .of_cells (by rw [h]) (by rw [h])

theorem Dp.Stores.refl (d : Dp) : d.Stores p d := .of_mem rfl

theorem Dp.Stores.trans (h : d.Stores p t) (g : t.Stores p u) : d.Stores p u :=
  ⟨g.addrMap.trans h.addrMap, fun k ho hi =>
    (g.bytes k ((Mem.outside_of_addrMap h.addrMap p k).2 ho) (by rw [Mem.inInk_of_addrMap h.addrMap, hi])).trans (h.bytes k ho hi)⟩

theorem Dp.Stores.foldl {α : Type} {f : Dp → α → Dp} (l : List α) (h : ∀ x ∈ l, ∀ d : Dp, d.Stores p (f d x)) (d : Dp) :
    d.Stores p (l.foldl f d) := by
  induction l generalizing d with
  | nil => exact .refl d
  | cons x r ih => exact (h x (by simp) d).trans (ih (fun y hy => h y (by simp [hy])) _)

theorem Dp.Stores.keepsAddrs {s v : State} (h : s.dp.Stores p v.dp) : s.keepsAddrs v p := h.bytes

theorem Dp.StoresNothing.keeps {s v : State} (h : s.dp.StoresNothing v.dp) : s.keeps v noByte :=
  fun k _ hi => h.bytes k (fun _ _ hf => hf.elim) hi

/-! ### Records, events, reports -/

theorem trace_stores (e : Env) (u : Nat) (v : Ev) (d : Dp) : d.Stores p (trace e u v d) :=
  ⟨by rw [trace_frame]; rfl, fun k _ hi => trace_byte e u v d k hi⟩

theorem traces_stores (e : Env) (v : Ev) (l : List Nat) (d : Dp) : d.Stores p (l.foldl (fun d u => trace e u v d) d) :=
  .foldl l (fun u _ d => trace_stores e u v d) d

theorem voidStroke_stores (e : Env) (cause : Nat) (d : Dp) : d.Stores p (voidStroke e cause d) := by
  unfold voidStroke
  split
  · exact .refl d
  · exact (traces_stores e _ _ d).trans (.of_mem (record_mem ..))

theorem raiseFault_stores (e : Env) (cls action unit detail : Nat) (d : Dp) : d.Stores p (raiseFault e cls action unit detail d) := by
  unfold raiseFault
  extract_lets entry d'
  split
  · exact (voidStroke_stores e 3 d).trans (.of_mem (record_mem ..))
  · exact .of_mem (record_mem ..)

/-! ### The fault state -/

/-- R444: a report counts, and nothing else of the fault state that decides what follows changes. -/
theorem writeReport_fr (e : Env) (cls action unit detail : Nat) (d : Dp) :
    (writeReport e cls action unit detail d).fr = { d.fr with
      last := d.fr.last + 1, count := satAdd d.fr.count 1, newRep := true,
      reports := d.fr.reports.put 0 ((d.fr.last + 1).toNat % 12) (mkReport (d.fr.last + 1) cls action unit e detail 0 0 0),
      toMgmt := mkReport (d.fr.last + 1) cls action unit e detail 0 0 0 :: d.fr.toMgmt } := record_fr ..

theorem traces_fr (e : Env) (v : Ev) (l : List Nat) (d : Dp) : (l.foldl (fun d u => trace e u v d) d).fr = d.fr :=
  foldl_keeps (fun d : Dp => d.fr) (fun d u => trace_fr e u v d) l d

/-- R430: a void marks the stroke void and leaves the rest of the fault state. -/
theorem voidStroke_fr (e : Env) (cause : Nat) (d : Dp) :
    (voidStroke e cause d).fr = if d.fr.voided then d.fr else { d.fr with voided := true, voidCause := cause } := by
  unfold voidStroke
  split
  · rfl
  · refine (record_fr ..).trans ?_
    simp only [uncount, traces_fr]

theorem voidStroke_last (e : Env) (cause : Nat) (d : Dp) : (voidStroke e cause d).fr.last = d.fr.last := by
  rw [voidStroke_fr]
  split <;> rfl

/-- R428, R444: a fault writes one report, whether it is alone or not. -/
theorem raiseFault_last (e : Env) (cls action unit detail : Nat) (d : Dp) :
    (raiseFault e cls action unit detail d).fr.last = d.fr.last + 1 := by
  unfold raiseFault
  extract_lets entry d'
  split
  · change (writeReport e 11 4 unit 0 (voidStroke e 3 d)).fr.last = _
    rw [writeReport_fr, voidStroke_last]
  · change (writeReport e cls action unit detail d).fr.last = _
    rw [writeReport_fr]

/-! ### The end of a job (R8) -/

/-- What the end of a launch leaves of memory, faults, recorder, torus and time. -/
theorem State.endLaunch_keeps (s : State) (p st detail : Nat) (stopEnded torn : Bool) :
    (fun t : State => (t.dp.mem.addrMap, t.dp.mem.cells, t.dp.fr, t.dp.log, t.torus, t.clk)) (s.endLaunch p st detail stopEnded torn) =
      (s.dp.mem.addrMap, s.dp.mem.cells, s.dp.fr, s.dp.log, s.torus, s.clk) := by
  unfold State.endLaunch
  split
  · rfl
  · refine (foldl_keeps (fun t : State => (t.dp.mem.addrMap, t.dp.mem.cells, t.dp.fr, t.dp.log, t.torus, t.clk)) (fun s x => ?_) _ _).trans ?_
    · rfl
    · rfl

/-- R8, R444: what is settled after a fault leaves the reports, the fence, memory, recorder, torus and time. -/
theorem State.settleStop_keeps (s : State) :
    (fun t : State => (t.dp.mem.addrMap, t.dp.mem.cells, t.dp.fr.fenced, t.dp.fr.last, t.dp.log, t.torus, t.clk)) s.settleStop =
      (s.dp.mem.addrMap, s.dp.mem.cells, s.dp.fr.fenced, s.dp.fr.last, s.dp.log, s.torus, s.clk) := by
  unfold State.settleStop
  split
  · rfl
  · rename_i n _
    have h := foldl_keeps (fun t : State => (t.dp.mem.addrMap, t.dp.mem.cells, t.dp.fr, t.dp.log, t.torus, t.clk))
      (fun s p => s.endLaunch_keeps p stFault n.toNat false true) [0, 1, 2, 3] s
    extract_lets s₁ d₁ fr₁
    change (s₁.dp.mem.addrMap, s₁.dp.mem.cells, s₁.dp.fr, s₁.dp.log, s₁.torus, s₁.clk) = _ at h
    clear_value s₁
    simp only [Prod.mk.injEq] at h ⊢
    obtain ⟨hm, hc, hfr, hlog, htorus, hclk⟩ := h
    exact ⟨hm, hc, congrArg Fr.fenced hfr, congrArg Fr.last hfr, hlog, htorus, hclk⟩

end Sys2Proof.Machine
end

section
/-! TIME_BASE_START, HOLDOVER_TIMEOUT, POD_OFFSET_MEASURE (R34, R38, R39, R41). -/

namespace Sys2Proof.Machine

/-- R376, R485: the rails change board and edge state. -/
theorem State.raiseRails_frame (s : State) : s.raiseRails = { s with bu := s.raiseRails.bu, edge := s.raiseRails.edge } := by
  unfold State.raiseRails
  split <;> rfl

theorem State.raiseRails_refIn (s : State) : s.raiseRails.bu.refIn = s.bu.refIn := by
  unfold State.raiseRails
  split <;> rfl

/-- R34: the time base counts: from 0 where it stood still, on where it ran. -/
def Clk.started (c : Clk) : Clk := { c with running := true, tb := if c.running then c.tb else 0 }

theorem Clk.started_running (c : Clk) (h : c.running = true) : c.started = c := by
  cases c
  simp_all [Clk.started]

theorem Clk.started_still (c : Clk) (h : c.running = false) : c.started = { c with running := true, tb := 0 } := by
  simp [Clk.started, h]

/-- The state in which a stable reference is taken over. -/
def State.refStable (s : State) : State :=
  { s with bu := { s.bu with refIn := true, refOk := s.bu.refOk || !s.clk.running }, clk := s.clk.started }

theorem exec_timeBaseStart (s : State) (h : s.bu.dark = false) : exec .timeBaseStart s =
    .next (if s.refStable.bu.booted || s.refStable.edge.defect then s.refStable else s.refStable.bootFirmware).raiseRails := by
  have hexec : exec .timeBaseStart s = execTimeBaseStart s := rfl
  rw [hexec, execTimeBaseStart, if_neg (by simp [h])]
  cases hr : s.clk.running
  · simp only [State.refStable, s.clk.started_still hr, hr, Bool.false_eq_true, if_false]
  · simp only [State.refStable, s.clk.started_running hr, hr, if_true]

/-- R39: POD_SKEW reads the offset last published. -/
theorem State.regRead_podSkew (s : State) : s.regRead 0x1038 = s.clk.podSkew.toNat := by
  have h : s.reg 0x1038 = s.clk.podSkew.toNat % 2 ^ 32 := rfl
  rw [s.regRead_eq_reg (by decide), h, Nat.mod_eq_of_lt s.clk.podSkew.isLt]

theorem exec_podOffsetMeasure (p : Fin 24) (skew : BitVec 32) (s : State) (hi : s.torus.interPod (p.val % 6) = true)
    (hc : s.torus.carries p.val = true) : exec (.podOffsetMeasure p skew) s =
      .next (({ s with clk := { s.clk with podSkew := skew } }).note (portUid p.val) 0x17 [(24, skew.toNat), (28, p.val)]) := by
  have hexec : exec (.podOffsetMeasure p skew) s = execPodOffsetMeasure p skew s := rfl
  rw [hexec, execPodOffsetMeasure, hi, hc]
  rfl

/-- The state in which HOLDOVER has timed out: the lock reads FAULT. -/
def State.holdoverOut (s : State) : State := (s.advance (s.clk.holdAt.toNat + 10000000)).setLock .fault

theorem State.holdoverOut_keeps (s : State) : s.holdoverOut.clk.lock = .fault ∧ s.holdoverOut.dp.mem = s.dp.mem ∧
    s.holdoverOut.dp.fr = s.dp.fr ∧ s.holdoverOut.torus = s.torus := by
  obtain ⟨hframe, hclk⟩ := (s.advance (s.clk.holdAt.toNat + 10000000)).setLock_keeps .fault
  refine ⟨congrArg Clk.lock hclk, ?_⟩
  rw [State.holdoverOut, hframe]
  exact ⟨rfl, rfl, rfl⟩

/-- R38, R428: the fault that follows: the package is fenced, one report is written, and nothing is stored. -/
theorem State.fenceFault_keeps (s : State) (cls action unit detail : Nat) :
    (fun t : State => t.clk = s.clk ∧ t.torus = s.torus ∧ t.dp.fr.fenced = true ∧ t.dp.fr.last = s.dp.fr.last + 1 ∧ s.dp.StoresNothing t.dp)
      (s.onDp (fun e d => fence (raiseFault e cls action unit detail d))).settleStop := by
  have hstores : s.dp.StoresNothing (fence (raiseFault s.env cls action unit detail s.dp)) :=
    (raiseFault_stores s.env cls action unit detail s.dp).trans (.of_mem rfl)
  have hlast : (fence (raiseFault s.env cls action unit detail s.dp)).fr.last = s.dp.fr.last + 1 := raiseFault_last ..
  have h := (s.onDp (fun e d => fence (raiseFault e cls action unit detail d))).settleStop_keeps
  simp only [Prod.mk.injEq] at h ⊢
  obtain ⟨hm, hc, hf, hl, -, htorus, hclk⟩ := h
  exact ⟨hclk, htorus, hf, hl.trans hlast, hstores.trans (.of_cells hm hc)⟩

theorem exec_holdoverTimeout (s : State) (h : s.clk.lock = .holdover) :
    exec .holdoverTimeout s = .next (s.holdoverOut.onDp (fun e d => fence (raiseFault e 5 3 pmcUid 0 d))).settleStop := by
  have hexec : exec .holdoverTimeout s = execHoldoverTimeout s := rfl
  rw [hexec, execHoldoverTimeout, if_pos h]
  rfl

/-- Settles O4: the time base starts in `State.refStable`, a HOLDOVER that times out raises one fault, an offset is published as it is. -/
theorem timeBaseStartsHoldsAndIsCompared : Obligations.TimeBaseStartsHoldsAndIsCompared := by
  unfold Obligations.TimeBaseStartsHoldsAndIsCompared
  refine ⟨fun s hdark => ?_, fun s hlock => ?_, fun p skew s hinter hcarries => ?_⟩
  · have booted : ∃ t, t = (if s.refStable.bu.booted || s.refStable.edge.defect then s.refStable else s.refStable.bootFirmware) ∧
        t.bu.refIn = true ∧ t = { s.refStable with sec := t.sec, bu := t.bu, dp := { s.dp with log := t.dp.log } } := by
      refine ⟨_, rfl, ?_⟩
      split
      · exact ⟨rfl, rfl⟩
      · exact ⟨rfl, rfl⟩
    obtain ⟨t, ht, href, hframe⟩ := booted
    refine ⟨t.raiseRails, ?_, ?_, ?_, ?_, ?_⟩
    · rw [exec_timeBaseStart s hdark, ht]
    · rw [t.raiseRails_frame, hframe]
      rfl
    · rw [t.raiseRails_refIn, href]
    · rw [t.raiseRails_frame, hframe]
    · rw [t.raiseRails_frame, hframe]
      rfl
  · obtain ⟨hl, hm, hfr, ht⟩ := s.holdoverOut_keeps
    obtain ⟨hclk, htorus, hfenced, hlast, hstores⟩ := s.holdoverOut.fenceFault_keeps 5 3 pmcUid 0
    refine ⟨_, exec_holdoverTimeout s hlock, ?_, hfenced, ?_, ?_, htorus.trans ht⟩
    · rw [hclk, hl]
    · rw [hlast, hfr]
    · exact Dp.StoresNothing.keeps ((Dp.Stores.of_mem hm).trans hstores)
  · refine ⟨_, exec_podOffsetMeasure p skew s hinter hcarries, rfl, ?_, ?_⟩
    · rw [State.regRead_podSkew, State.note_clk]
    · exact State.note_frame ..

end Sys2Proof.Machine
end

section
/-! STALLED_UNIT_TIMEOUT (R416, R428): the trace rings freeze, the stroke is void, the package is fenced and one fault reported. -/

namespace Sys2Proof.Machine

/-! ### The freeze of the trace rings (R416) -/

theorem Log.keep_frozen (l : Log) (r : BitVec 512) : (l.keep r).1.frozen = l.frozen := by
  unfold Log.keep
  repeat' split
  all_goals rfl

theorem Log.enter_frozen (l : Log) (ts stroke : BitVec 64) (unit code : Nat) (cov : Bool) (pay : List (Nat × Nat)) :
    (l.enter ts stroke unit code cov pay).1.frozen = l.frozen := by
  unfold Log.enter
  split
  · rfl
  · extract_lets l₁ rate r l₂ hk l₃ fill
    split
    · rfl
    · change hk.1.frozen = l.frozen
      by_cases h : sevOf code ≥ l₂.holdSev.toNat
      · rw [show hk = _ from if_pos h]
        exact l₂.keep_frozen r
      · rw [show hk = _ from if_neg h]

/-- A record neither freezes the rings nor resumes them. -/
theorem record_frozen (e : Env) (u code : Nat) (cov : Bool) (pay : List (Nat × Nat)) (d : Dp) :
    (record e u code cov pay d).log.frozen = d.log.frozen := by
  have h := d.log.enter_frozen e.tb e.stroke u code cov pay
  unfold record fireEvents
  generalize d.log.enter e.tb e.stroke u code cov pay = r at *
  dsimp only
  repeat' split
  all_goals exact h

/-- An event neither freezes the rings nor resumes them. -/
theorem trace_frozen (e : Env) (u : Nat) (v : Ev) (d : Dp) : (trace e u v d).log.frozen = d.log.frozen := by
  unfold trace spillEvent spillLine
  dsimp only
  repeat' split
  all_goals rfl

theorem writeReport_frozen (e : Env) (cls action unit detail : Nat) (d : Dp) :
    (writeReport e cls action unit detail d).log.frozen = d.log.frozen := record_frozen ..

theorem voidStroke_frozen (e : Env) (cause : Nat) (d : Dp) : (voidStroke e cause d).log.frozen = d.log.frozen := by
  unfold voidStroke
  split
  · rfl
  · exact (record_frozen ..).trans (foldl_keeps (fun d : Dp => d.log.frozen) (fun d u => trace_frozen e u _ d) _ d)

theorem raiseFault_frozen (e : Env) (cls action unit detail : Nat) (d : Dp) :
    (raiseFault e cls action unit detail d).log.frozen = d.log.frozen := by
  unfold raiseFault
  extract_lets entry d'
  split
  · exact (writeReport_frozen ..).trans (voidStroke_frozen e 3 d)
  · exact writeReport_frozen ..

theorem autoFreeze_frozen (e : Env) (reason : Nat) (d : Dp) : (autoFreeze e reason d).log.frozen = true := by
  unfold autoFreeze
  extract_lets was d'
  split
  · rfl
  · rw [record_frozen]

theorem autoFreeze_fr (e : Env) (reason : Nat) (d : Dp) : (autoFreeze e reason d).fr = d.fr := by
  unfold autoFreeze
  extract_lets was d'
  split
  · rfl
  · rw [record_fr]

theorem autoFreeze_mem (e : Env) (reason : Nat) (d : Dp) : (autoFreeze e reason d).mem = d.mem := by
  unfold autoFreeze
  extract_lets was d'
  split
  · rfl
  · rw [record_mem]

/-! ### The fault -/

/-- R428, R429: a fault of class 8 that is alone, at an entry no stalled unit has been recovered at, stands open with its report. -/
theorem raiseFault_alone (e : Env) (action unit detail : Nat) (d : Dp) (ho : d.fr.open_ = []) (hs : e.entryOf unit ∉ d.fr.stalls) :
    (raiseFault e 8 action unit detail d).fr.open_ = [⟨8, (d.fr.last + 1).toNat, e.entryOf unit⟩] ∧
      (raiseFault e 8 action unit detail d).fr.voided = d.fr.voided ∧ (raiseFault e 8 action unit detail d).fr.jobStop = d.fr.jobStop := by
  unfold raiseFault
  extract_lets entry d'
  have halone : ¬ ((!d.fr.open_.isEmpty && !((8 : Nat) == 3 && d.fr.restoring)) || ((8 : Nat) == 8 && d.fr.stalls.contains entry) ||
      (8 : Nat) == 11) = true := by
    simp [ho, entry, hs]
  have hd := writeReport_fr e 8 action unit detail d
  rw [if_neg halone]
  refine ⟨?_, (congrArg Fr.voided hd :), (congrArg Fr.jobStop hd :)⟩
  change _ :: d'.fr.open_ = _
  rw [show d'.fr.open_ = [] from (congrArg Fr.open_ hd).trans ho, show d'.fr.last = d.fr.last + 1 from congrArg Fr.last hd]

/-- What the data path is when a unit has stalled: frozen, void, and with the fault raised. -/
def Dp.stalled (e : Env) (u : Nat) (d : Dp) : Dp := raiseFault e 8 3 u 0 (voidStroke e 3 (autoFreeze e 1 d))

theorem Dp.stalled_keeps (e : Env) (u : Nat) (d : Dp) :
    (d.stalled e u).log.frozen = true ∧ (d.stalled e u).fr.last = d.fr.last + 1 ∧ d.StoresNothing (d.stalled e u) := by
  refine ⟨?_, ?_, ?_⟩
  · rw [Dp.stalled, raiseFault_frozen, voidStroke_frozen, autoFreeze_frozen]
  · rw [Dp.stalled, raiseFault_last, voidStroke_last, autoFreeze_fr]
  · exact ((Dp.Stores.of_mem (autoFreeze_mem e 1 d)).trans (voidStroke_stores e 3 _)).trans (raiseFault_stores ..)

/-- R428: a stalled unit that is the only fault. -/
theorem Dp.stalled_alone (e : Env) (u : Nat) (d : Dp) (ho : d.fr.open_ = []) (hs : e.entryOf u ∉ d.fr.stalls) :
    (d.stalled e u).fr.voided = true ∧ (d.stalled e u).fr.open_ = [⟨8, (d.fr.last + 1).toNat, e.entryOf u⟩] ∧
      (d.stalled e u).fr.jobStop = d.fr.jobStop := by
  have hv : (voidStroke e 3 (autoFreeze e 1 d)).fr.voided = true ∧ (voidStroke e 3 (autoFreeze e 1 d)).fr.open_ = d.fr.open_ ∧
      (voidStroke e 3 (autoFreeze e 1 d)).fr.stalls = d.fr.stalls ∧ (voidStroke e 3 (autoFreeze e 1 d)).fr.last = d.fr.last ∧
      (voidStroke e 3 (autoFreeze e 1 d)).fr.jobStop = d.fr.jobStop := by
    rw [voidStroke_fr, autoFreeze_fr]
    split
    · next h => exact ⟨h, rfl, rfl, rfl, rfl⟩
    · exact ⟨rfl, rfl, rfl, rfl, rfl⟩
  obtain ⟨hvoid, hopen, hstalls, hlast, hjob⟩ := hv
  obtain ⟨ro, rv, rj⟩ := raiseFault_alone e 3 u 0 _ (hopen.trans ho) (by rwa [hstalls])
  rw [hlast] at ro
  exact ⟨rv.trans hvoid, ro, rj.trans hjob⟩

/-! ### The command -/

theorem exec_stalledUnitTimeout_idle (u : BitVec 16) (s : State) (h : s.waits u.toNat = false) :
    exec (.stalledUnitTimeout u) s = .next s := by
  have hexec : exec (.stalledUnitTimeout u) s = execStalledUnitTimeout u s := rfl
  rw [hexec, execStalledUnitTimeout, h, Bool.and_false, if_neg Bool.false_ne_true]

theorem exec_stalledUnitTimeout (u : BitVec 16) (s : State) (hu : isStreamUnit u.toNat = true) (h : s.waits u.toNat = true) :
    exec (.stalledUnitTimeout u) s = .next (s.onDp (fun e d => fence (d.stalled e u.toNat))).settleStop := by
  have hexec : exec (.stalledUnitTimeout u) s = execStalledUnitTimeout u s := rfl
  rw [hexec, execStalledUnitTimeout, h, hu]
  rfl

/-- R428: what a unit that has stalled leads to. -/
theorem State.stalled_keeps (s : State) (u : Nat) :
    (fun t : State => t.dp.fr.fenced = true ∧ t.dp.log.frozen = true ∧ t.dp.fr.last = s.dp.fr.last + 1 ∧ s.keeps t noByte)
      (s.onDp (fun e d => fence (d.stalled e u))).settleStop := by
  obtain ⟨hfrozen, hlast, hstores⟩ := Dp.stalled_keeps s.env u s.dp
  have h := (s.onDp (fun e d => fence (d.stalled e u))).settleStop_keeps
  simp only [Prod.mk.injEq] at h ⊢
  obtain ⟨hm, hc, hf, hl, hlog, -, -⟩ := h
  refine ⟨hf, (congrArg Log.frozen hlog).trans hfrozen, hl.trans hlast, Dp.StoresNothing.keeps ?_⟩
  exact hstores.trans (.of_cells hm hc)

/-- R428: a stalled unit that is the only fault ends no launch. -/
theorem State.stalled_alone (s : State) (u : Nat) (ho : s.dp.fr.open_ = []) (hs : s.env.entryOf u ∉ s.dp.fr.stalls)
    (hj : s.dp.fr.jobStop = none) :
    (fun t : State => t.dp.fr.voided = true ∧ t.dp.fr.open_ = [⟨8, (s.dp.fr.last + 1).toNat, s.env.entryOf u⟩] ∧ t.scr = s.scr)
      (s.onDp (fun e d => fence (d.stalled e u))).settleStop := by
  obtain ⟨hvoid, hopen, hjob⟩ := Dp.stalled_alone s.env u s.dp ho hs
  rw [State.settleStop_none (s.onDp (fun e d => fence (d.stalled e u))) (hjob.trans hj)]
  exact ⟨hvoid, hopen, rfl⟩

end Sys2Proof.Machine
end

section
/-! What a line access of a Slant channel stores (R77, R85, R103, R218, R227). -/

namespace Sys2Proof.Machine

variable {p : Nat → Prop} {d t u : Dp}

/-! ### Accesses that store nothing -/

theorem perf_stores (d : Dp) (u off n : Nat) : d.Stores p (d.perf u off n) := .of_mem rfl

/-- Flags and counters of memory, with a record. -/
theorem recorded_stores (e : Env) (u code : Nat) (cov : Bool) (pay : List (Nat × Nat)) (d : Dp) (m : Mem) (hm : m.addrMap = d.mem.addrMap)
    (hc : m.cells = d.mem.cells) : d.Stores p (record e u code cov pay { d with mem := m }) :=
  .of_cells (by rw [record_mem]; exact hm) (by rw [record_mem]; exact hc)

theorem unmapped_stores (e : Env) (u access a : Nat) (d : Dp) : d.Stores p (unmapped e u access a d) :=
  recorded_stores _ _ _ _ _ d _ rfl rfl

theorem windowViolation_stores (e : Env) (u a : Nat) (d : Dp) : d.Stores p (windowViolation e u a d) := by
  unfold windowViolation
  refine .of_mem ((record_mem ..).trans ?_)
  split <;> rfl

theorem rowError_mem (e : Env) (key : Nat) (ue : Bool) (d : Dp) : (rowError e key ue d).mem = d.mem := by
  unfold rowError
  dsimp only
  repeat' split
  all_goals rfl

theorem correct_stores (e : Env) (unit a key : Nat) (l : Loc) (d : Dp) : d.Stores p (correct e unit a key l d) := by
  unfold correct
  extract_lets m₀ m d'
  have h : d.Stores p d' := recorded_stores _ _ _ _ _ d m rfl rfl
  split
  · exact h.trans (.of_mem (rowError_mem ..))
  · exact h

theorem ueFound_stores (e : Env) (unit path a mc : Nat) (d : Dp) : d.Stores p (ueFound e unit path a mc d) := by
  unfold ueFound
  extract_lets m₀ m d'
  have h : d.Stores p d' := recorded_stores _ _ _ _ _ d m rfl rfl
  repeat' split
  · exact h.trans (.of_mem (rowError_mem ..))
  · exact h.trans (.of_mem (rowError_mem ..))
  · exact h
  · exact h

theorem voidFault_stores (e : Env) (cls cause unit detail : Nat) (d : Dp) : d.Stores p (voidFault e cls cause unit detail d) := by
  unfold voidFault
  split
  · exact voidStroke_stores e cause d
  · exact (voidStroke_stores e cause d).trans (raiseFault_stores ..)

theorem ueVoid_stores (e : Env) (unit a mc : Nat) (d : Dp) : d.Stores p (ueVoid e unit a mc d) := by
  unfold ueVoid
  extract_lets d'
  split
  · exact ueFound_stores ..
  · exact (ueFound_stores ..).trans (voidFault_stores ..)

theorem readHome_stores (e : Env) (u a : Nat) (l : Loc) (d : Dp) : d.Stores p (readHome e u a l d).2 := by
  unfold readHome
  dsimp only
  split
  · exact .refl d
  · exact correct_stores ..
  · exact ueVoid_stores ..

/-- R102, R103: a read stores nothing, whatever its line holds. -/
theorem readLoc_stores (e : Env) (u a : Nat) (l : Loc) (d : Dp) : d.Stores p (readLoc e u a l d).2 := by
  unfold readLoc
  dsimp only
  split
  · exact (readHome_stores e u a l d).trans (.of_mem rfl)
  · exact readHome_stores e u a l d

/-! ### Lines stored -/

/-- R105: a line stored at a mapped address. -/
theorem storeLoc_stores (a : Nat) (l : Loc) (v : BitVec 512) (d : Dp) (hl : d.mem.at48 a = some l) (hp : p a) :
    d.Stores p (storeLoc a l v d) := by
  refine ⟨rfl, fun k ho _ => ?_⟩
  have hk : ¬ (d.mem.key l ≤ k ∧ k < d.mem.key l + 64) := by
    have := ho a l hp hl
    simpa [lineBytes] using this
  change Tab.get 0#8 (writeBytes d.mem.cells (d.mem.key l) 64 v.toNat) k = _
  rw [get_writeBytes, if_neg hk]
  rfl

/-- A word of `n` bytes. -/
theorem toNat_lt_256_pow (n : Nat) (v : BitVec (8 * n)) : v.toNat < 256 ^ n :=
  lt_of_lt_of_eq v.isLt (pow_mul 2 8 n)

theorem readBytes_storeLoc (a : Nat) (l : Loc) (v : BitVec 512) (d : Dp) :
    readBytes (storeLoc a l v d).mem.cells (d.mem.key l) 64 = v.toNat :=
  (readBytes_writeBytes ..).trans (Nat.mod_eq_of_lt (toNat_lt_256_pow 64 v))

/-- R77, R154: a write that a receiving channel performs or suppresses stores at its line only. -/
theorem chanWrite_stores (e : Env) (via n : Nat) (from_ : Bool) (a : Nat) (l : Loc) (acc : Bool) (off : Nat) (v : BitVec 512) (d : Dp)
    (hl : d.mem.at48 a = some l) (hp : p a) : d.Stores p (chanWrite e via n from_ a l acc off v d).2 := by
  unfold chanWrite
  split
  · exact unmapped_stores ..
  · split
    · exact windowViolation_stores ..
    · cases from_
      · exact storeLoc_stores a l v d hl hp
      · exact (perf_stores d via 0x18 1).trans (storeLoc_stores a l v _ hl hp)

/-- A write that claims its bank and lies in its window is performed (R77, R154). -/
theorem chanWrite_performed (e : Env) (via n : Nat) (a : Nat) (l : Loc) (acc : Bool) (off : Nat) (v : BitVec 512) (d : Dp)
    (hc : e.claimsAt via n acc off = true) (hw : e.mayWriteAt via n a = true) :
    (chanWrite e via n true a l acc off v d).2 = storeLoc a l v (d.perf via 0x18 1) := by
  simp [chanWrite, hc, hw]

/-- R227: a line of a PUT stores at its address only. -/
theorem putLine_stores (e : Env) (ch n a : Nat) (v : BitVec 512) (d : Dp) (hp : p a) : d.Stores p (putLine e ch n a v d).2 := by
  unfold putLine
  split
  · exact unmapped_stores ..
  · next l hl =>
    split
    · exact unmapped_stores ..
    · split
      · exact unmapped_stores ..
      · exact chanWrite_stores _ _ _ _ _ _ _ _ _ _ hl hp

/-! ### INBOUND_ACCESS (R218) -/

/-- The mapped location of a cluster that the line of an access lies at, with its cluster, bank and offset. -/
def State.inboundAt (s : State) (a : Nat) : Option (Loc × Nat × Bool × Nat) :=
  match s.dp.mem.at48 (a / 64 * 64) with
  | none => none
  | some l => (l.cluster?).map (fun x => (l, x))

theorem State.inboundAt_some {s : State} {a : Nat} {l : Loc} {x : Nat × Bool × Nat} (h : s.inboundAt a = some (l, x)) :
    s.dp.mem.at48 (a / 64 * 64) = some l := by
  unfold State.inboundAt at h
  split at h
  · exact absurd h (by simp)
  · next l' hl =>
    rw [hl]
    obtain ⟨y, -, hy⟩ := Option.map_eq_some_iff.mp h
    exact congrArg some (congrArg Prod.fst hy)

/-- R218: a read that reaches a cluster from outside. -/
def State.inboundRead (c ch src a : Nat) (s : State) : State :=
  match s.inboundAt a with
  | none => { s with dp := unmapped s.env src 0 a s.dp, out := { s.out with line := 0 } }
  | some (l, i, ac, off) =>
    if i ≠ c || !(s.env.claims (sdUid c ch) ac off) then
      { s with dp := unmapped s.env (sdUid c ch) 0 a s.dp, out := { s.out with line := 0 } }
    else
      ({ s with dp := (readLoc s.env src (a / 64 * 64) l (s.dp.perf (sdUid c ch) 0x18 1)).2,
                out := { s.out with line := (readLoc s.env src (a / 64 * 64) l (s.dp.perf (sdUid c ch) 0x18 1)).1.getD s.out.line } }).settleStop

/-- R218: a write that reaches a cluster from outside. -/
def State.inboundWrite (c ch src a : Nat) (v : BitVec 512) (s : State) : State :=
  match s.inboundAt a with
  | none => { s with dp := unmapped s.env src 1 a s.dp }
  | some (l, i, ac, off) =>
    if i ≠ c then { s with dp := unmapped s.env (sdUid c ch) 1 a s.dp }
    else { s with dp := (chanWrite s.env (sdUid c ch) (s.env.entryOf (sdUid c ch)) true (a / 64 * 64) l ac off v s.dp).2 }

theorem exec_inboundRead (c : Fin 512) (ch : Fin 8) (src : BitVec 16) (a : BitVec 48) (s : State) :
    exec (.inboundAccess c ch src (.read a)) s =
      .next (if s.env.comesIn c.val ch.val src.toNat false then s.inboundRead c.val ch.val src.toNat a.toNat else s) := by
  have hexec : exec (.inboundAccess c ch src (.read a)) s = execInboundAccess c ch src (.read a) s := rfl
  rw [hexec, execInboundAccess, State.inboundRead, State.inboundAt]
  cases s.env.comesIn c.val ch.val src.toNat false <;> rfl

theorem exec_inboundWrite (c : Fin 512) (ch : Fin 8) (src : BitVec 16) (a : BitVec 48) (v : BitVec 512) (s : State) :
    exec (.inboundAccess c ch src (.write a v)) s =
      .next (if s.env.comesIn c.val ch.val src.toNat true then s.inboundWrite c.val ch.val src.toNat a.toNat v else s) := by
  have hexec : exec (.inboundAccess c ch src (.write a v)) s = execInboundAccess c ch src (.write a v) s := rfl
  rw [hexec, execInboundAccess, State.inboundWrite, State.inboundAt]
  cases s.env.comesIn c.val ch.val src.toNat true <;> rfl

theorem State.settleStop_stores (s : State) : s.dp.Stores p s.settleStop.dp := by
  have h := s.settleStop_keeps
  simp only [Prod.mk.injEq] at h
  obtain ⟨hm, hc, -⟩ := h
  exact .of_cells hm hc

theorem State.inboundRead_stores (c ch src a : Nat) (s : State) : s.dp.Stores p (s.inboundRead c ch src a).dp := by
  unfold State.inboundRead
  split
  · exact unmapped_stores ..
  · split
    · exact unmapped_stores ..
    · refine Dp.Stores.trans ?_ (State.settleStop_stores _)
      exact (perf_stores ..).trans (readLoc_stores ..)

/-- Without an error in memory a read raises no fault, so it ends no launch. -/
theorem State.inboundRead_scr (c ch src a : Nat) (s : State) (hc : s.clean) (hj : s.dp.fr.jobStop = none) :
    (s.inboundRead c ch src a).scr = s.scr := by
  unfold State.inboundRead
  split
  · rfl
  · next l i ac off _ =>
    split
    · rfl
    · rw [readLoc_good s.env src _ l (s.dp.perf (sdUid c ch) 0x18 1) (hc _), State.settleStop_none]
      exact hj

theorem State.inboundWrite_onlyDp (c ch src a : Nat) (v : BitVec 512) (s : State) : s.onlyDp (s.inboundWrite c ch src a v) := by
  unfold State.onlyDp State.inboundWrite
  repeat' split
  all_goals rfl

theorem State.inboundWrite_stores (c ch src a : Nat) (v : BitVec 512) (s : State) (hp : p (a / 64 * 64)) :
    s.dp.Stores p (s.inboundWrite c ch src a v).dp := by
  unfold State.inboundWrite
  split
  · exact unmapped_stores ..
  · next hat =>
    split
    · exact unmapped_stores ..
    · exact chanWrite_stores _ _ _ _ _ _ _ _ _ _ (State.inboundAt_some hat) hp

/-- A write to SRAM of the cluster that its channel claims and may write is performed. -/
theorem State.inboundWrite_value (c ch src a : Nat) (v : BitVec 512) (s : State) (l : Loc) (off : Nat)
    (hl : s.dp.mem.at48 (a / 64 * 64) = some l) (hcl : l.cluster? = some (c, false, off))
    (hc : s.env.claimsAt (sdUid c ch) (s.env.entryOf (sdUid c ch)) false off = true)
    (hw : s.env.mayWrite (sdUid c ch) (a / 64 * 64) = true) :
    readBytes (s.inboundWrite c ch src a v).dp.mem.cells (s.dp.mem.key l) 64 = v.toNat := by
  have hat : s.inboundAt a = some (l, c, false, off) := by
    simp only [State.inboundAt, hl, hcl, Option.map_some]
  unfold State.inboundWrite
  simp only [hat, ne_eq, not_true_eq_false, if_false, chanWrite_performed s.env _ _ _ l false off v s.dp hc hw]
  exact readBytes_storeLoc (a / 64 * 64) l v (s.dp.perf (sdUid c ch) 0x18 1)

end Sys2Proof.Machine
end

section
/-! PUT (R223, R227, R328): what the work of a Slant channel leaves while no line of memory holds an error. -/

namespace Sys2Proof.Machine

/-- No line of package memory holds an error. -/
def Dp.clean (d : Dp) : Prop := ∀ l, d.mem.marks.get .none l = .none

/-- What follows, of a memory without errors, when work has stored at the addresses `p` only: there is still no error, no unit has moved on, and
no job is to stop. -/
structure Dp.Worked (p : Nat → Prop) (d t : Dp) : Prop extends d.Stores p t where
  clean : t.clean
  unit : ∀ v, (t.getUnit v).idx = (d.getUnit v).idx
  job : t.fr.jobStop = d.fr.jobStop

/-- Work that stores at the addresses `p` only, where it meets no error. -/
structure Dp.Works (p : Nat → Prop) (d t : Dp) : Prop where
  worked : d.clean → d.Worked p t

variable {p : Nat → Prop} {d t u : Dp}

theorem Dp.Works.refl (d : Dp) : d.Works p d := ⟨fun hc => ⟨.refl d, hc, fun _ => rfl, rfl⟩⟩

theorem Dp.Works.trans (h : d.Works p t) (g : t.Works p u) : d.Works p u := by
  refine ⟨fun hc => ?_⟩
  have ht := h.worked hc
  have hu := g.worked ht.clean
  exact ⟨ht.toStores.trans hu.toStores, hu.clean, fun v => (hu.unit v).trans (ht.unit v), hu.job.trans ht.job⟩

/-- Work outside memory. -/
theorem Dp.Works.of_mem (hm : t.mem = d.mem) (hu : t.units = d.units) (hf : t.fr.jobStop = d.fr.jobStop) : d.Works p t :=
  ⟨fun hc => ⟨.of_mem hm, by rwa [Dp.clean, hm], fun v => by rw [Dp.getUnit, hu, ← Dp.getUnit], hf⟩⟩

/-- Flags and counters of memory. -/
theorem Dp.Works.of_marks (hs : d.Stores p t) (hm : t.mem.marks = d.mem.marks) (hu : t.units = d.units)
    (hf : t.fr.jobStop = d.fr.jobStop) : d.Works p t :=
  ⟨fun hc => ⟨hs, by rwa [Dp.clean, hm], fun v => by rw [Dp.getUnit, hu, ← Dp.getUnit], hf⟩⟩

theorem Dp.works_setUnit (d : Dp) (v : Nat) (f : Unit → Unit) (hf : ∀ x, (f x).idx = x.idx) : d.Works p (d.setUnit v f) := by
  refine ⟨fun hc => ⟨.of_mem rfl, hc, fun w => ?_, rfl⟩⟩
  rw [Dp.getUnit_setUnit]
  split
  · next h => rw [hf, h]
  · rfl

theorem Dp.works_foldl {α : Type} {f : Dp → α → Dp} (l : List α) (h : ∀ x ∈ l, ∀ d : Dp, d.Works p (f d x)) (d : Dp) :
    d.Works p (l.foldl f d) := by
  induction l generalizing d with
  | nil => exact .refl d
  | cons x r ih => exact (h x (by simp) d).trans (ih (fun y hy => h y (by simp [hy])) _)

/-! ### The parts of the work -/

theorem record_works (e : Env) (v code : Nat) (cov : Bool) (pay : List (Nat × Nat)) (d : Dp) : d.Works p (record e v code cov pay d) :=
  .of_mem (record_mem ..) (record_units ..) (by rw [record_fr])

theorem trace_works (e : Env) (v : Nat) (ev : Ev) (d : Dp) : d.Works p (trace e v ev d) :=
  .of_marks (trace_stores ..) (by rw [trace_frame]) (trace_units ..) (by rw [trace_fr])

theorem perf_works (d : Dp) (v off n : Nat) : d.Works p (d.perf v off n) := d.works_setUnit _ _ (fun _ => rfl)

theorem unmapped_works (e : Env) (v access a : Nat) (d : Dp) : d.Works p (unmapped e v access a d) :=
  .of_marks (unmapped_stores ..) (by rw [unmapped, record_mem]) (by rw [unmapped, record_units]) (by rw [unmapped, record_fr])

theorem windowViolation_works (e : Env) (v a : Nat) (d : Dp) : d.Works p (windowViolation e v a d) := by
  unfold windowViolation
  extract_lets d'
  refine Dp.Works.trans (t := d') ?_ (record_works ..)
  change d.Works p (match e.ofUnit v with | some _ => _ | none => d)
  split
  · exact .of_mem rfl rfl rfl
  · exact .refl d

/-- R105: a stored line has fresh check bits. -/
theorem storeLoc_works (a : Nat) (l : Loc) (v : BitVec 512) (d : Dp) (hl : d.mem.at48 a = some l) (hp : p a) :
    d.Works p (storeLoc a l v d) := by
  refine ⟨fun hc => ⟨storeLoc_stores a l v d hl hp, fun k => ?_, fun _ => rfl, rfl⟩⟩
  change (d.mem.marks.put .none (d.mem.key l / 64) .none).get .none k = .none
  rw [Tab.get_put]
  split
  · rfl
  · exact hc k

theorem chanWrite_works (e : Env) (via n : Nat) (from_ : Bool) (a : Nat) (l : Loc) (acc : Bool) (off : Nat) (v : BitVec 512) (d : Dp)
    (hl : d.mem.at48 a = some l) (hp : p a) : d.Works p (chanWrite e via n from_ a l acc off v d).2 := by
  unfold chanWrite
  split
  · exact unmapped_works ..
  · split
    · exact windowViolation_works ..
    · cases from_
      · exact storeLoc_works a l v d hl hp
      · exact (perf_works d via 0x18 1).trans (storeLoc_works a l v _ hl hp)

/-- R227: a line of a PUT that arrives. -/
theorem putLine_works (e : Env) (ch n a : Nat) (v : BitVec 512) (d : Dp) (hp : p a) : d.Works p (putLine e ch n a v d).2 := by
  unfold putLine
  split
  · exact unmapped_works ..
  · next l hl =>
    split
    · exact unmapped_works ..
    · split
      · exact unmapped_works ..
      · exact chanWrite_works _ _ _ _ _ _ _ _ _ _ hl hp

theorem crossFrom_works (src a : Nat) (l : Loc) (d : Dp) : d.Works p (d.crossFrom src a l) :=
  Dp.Works.of_mem (t := d.crossFrom src a l) rfl rfl rfl

/-- R103: a read of a line without an error. -/
theorem readLoc_works (e : Env) (v a : Nat) (l : Loc) (d : Dp) : d.Works p (readLoc e v a l d).2 := by
  refine ⟨fun hc => ?_⟩
  rw [readLoc_good e v a l d (hc _)]
  exact (crossFrom_works (uidDie v) a l d).worked hc

/-- R218, R227: a PUT reads package memory only. -/
theorem slRead_works (e : Env) (c ch a : Nat) (d : Dp) : d.Works p (slRead e c ch .inside a d).2 := by
  unfold slRead
  dsimp only
  split
  · exact unmapped_works ..
  · rw [if_pos (by decide)]
    exact unmapped_works ..
  · split
    · exact unmapped_works ..
    · split
      · exact (perf_works ..).trans (readLoc_works ..)
      · split
        · exact unmapped_works ..
        · refine Dp.Works.trans ?_ (readLoc_works ..)
          split
          · exact perf_works ..
          · exact (perf_works ..).trans (perf_works ..)

theorem slReads_works (e : Env) (c ch a n : Nat) (d : Dp) : d.Works p (slReads e c ch .inside a n d).2 := by
  induction n generalizing a d with
  | zero => exact .refl d
  | succ n ih =>
    have h := slRead_works (p := p) e c ch a d
    rw [slReads]
    split
    · next hr =>
      rw [hr] at h
      exact h
    · next v d' hr =>
      rw [hr] at h
      have g := ih (a + 64) d'
      split
      · next hrs =>
        rw [hrs] at g
        exact h.trans g
      · next hrs =>
        rw [hrs] at g
        exact h.trans g

theorem slReads_length (e : Env) (c ch : Nat) (r : Reach) (a n : Nat) (d t : Dp) (l : List (BitVec 512))
    (h : slReads e c ch r a n d = (some l, t)) : l.length = n := by
  induction n generalizing a d l with
  | zero =>
    simp only [slReads, Prod.mk.injEq, Option.some.injEq] at h
    simp [← h.1]
  | succ n ih =>
    rw [slReads] at h
    split at h
    · exact absurd h (by simp)
    · split at h
      · exact absurd h (by simp)
      · next hrs =>
        simp only [Prod.mk.injEq, Option.some.injEq] at h
        obtain ⟨rfl, rfl⟩ := h
        rw [List.length_cons, ih _ _ _ hrs]

theorem addCredit_works (e : Env) (v ctr n src pkg : Nat) (d : Dp) : d.Works p (addCredit e v ctr n src pkg d) := by
  unfold addCredit
  extract_lets m d'
  have h : d.Works p d' := by
    refine Dp.Works.trans ?_ (trace_works ..)
    exact d.works_setUnit _ _ (fun _ => rfl)
  clear_value d'
  split
  · split
    · refine h.trans (Dp.Works.trans ?_ (trace_works ..))
      exact d'.works_setUnit _ _ (fun _ => rfl)
    · exact h
  · exact h

theorem putCredit_works (e : Env) (tag src pkg : Nat) (d : Dp) : d.Works p (putCredit e tag src pkg d) := by
  unfold putCredit
  split
  · exact addCredit_works ..
  · exact unmapped_works ..

/-! ### Packets sent -/

theorem State.note_works (s : State) (v c : Nat) (pay : List (Nat × Nat)) : s.dp.Works p (s.note v c pay).dp := record_works ..

theorem State.routePacket_works (s : State) (d : Nat) (arrived : Option (Nat × Nat)) (k : Packet) :
    s.dp.Works p (s.routePacket d arrived k).dp := by
  unfold State.routePacket
  split
  · exact .refl _
  · exact (s.setPort (6 * d) (fun x => { x with drop := satAdd x.drop 1 })).note_works _ _ _
  · exact .refl _
  · exact .of_mem rfl rfl rfl

theorem State.originate_works (s : State) (d unit typ vc dpkg dpod addr : Nat) (tag : BitVec 64) (args : BitVec 256)
    (lines : List (BitVec 512)) : s.dp.Works p (s.originate d unit typ vc dpkg dpod addr tag args lines).dp := by
  unfold State.originate
  extract_lets k s₁
  have h : s.dp.Works p s₁.dp := by
    change s.dp.Works p (if lines.isEmpty then s else _).dp
    split
    · exact .refl _
    · exact trace_works ..
  exact h.trans (s₁.routePacket_works ..)

theorem State.sendAwaited_works (s : State) (d unit typ vc pkg pod addr tag : Nat) (args : BitVec 256) (lines : List (BitVec 512)) :
    s.dp.Works p (s.sendAwaited d unit typ vc pkg pod addr tag args lines).dp := by
  unfold State.sendAwaited
  refine Dp.Works.trans ?_ (State.originate_works ..)
  exact .of_mem rfl rfl rfl

theorem State.sendLines_works (c v pkg pod addr entry n : Nat) (l : List (BitVec 512)) (s : State) :
    s.dp.Works p (s.sendLines c v pkg pod addr entry n l).dp := by
  induction n generalizing addr l s with
  | zero => exact .refl _
  | succ n ih =>
    rw [State.sendLines]
    split
    · exact .refl _
    · exact (s.sendAwaited_works ..).trans (ih ..)

theorem State.whenAcked_remote_works (s : State) (v tag pkg pod : Nat) : s.dp.Works p (s.whenAcked v (.remote tag pkg pod)).dp := by
  unfold State.whenAcked
  dsimp only
  split
  · exact s.originate_works ..
  · exact .refl _

/-! ### Rows of a PUT -/

/-- R227: a row to another package stores nothing here. -/
theorem State.putRow_remote_works (s : State) (c ch pkg pod src dst n : Nat) : s.dp.Works p (s.putRow c ch false pkg pod src dst n).dp := by
  have h := slReads_works (p := p) s.env c ch src n s.dp
  unfold State.putRow
  dsimp only
  split
  · next hr =>
    rw [hr] at h
    exact h
  · next hr =>
    rw [hr] at h
    rw [if_neg Bool.false_ne_true]
    refine Dp.Works.trans ?_ (State.sendLines_works ..)
    exact h.trans (perf_works ..)

/-- R227: a row to the own package stores at its destination lines. -/
theorem State.putRow_own_works (s : State) (c ch pkg pod src dst n : Nat) (hp : ∀ i, i < n → p (dst + 64 * i)) :
    s.dp.Works p (s.putRow c ch true pkg pod src dst n).dp := by
  have h := slReads_works (p := p) s.env c ch src n s.dp
  unfold State.putRow
  dsimp only
  split
  · next hr =>
    rw [hr] at h
    exact h
  · next l d hr =>
    rw [hr] at h
    rw [if_pos rfl]
    refine h.trans (Dp.works_foldl _ (fun x hx d => ?_) d)
    have hi : x.2 < n := by
      have := List.snd_lt_of_mem_zipIdx hx
      rwa [slReads_length _ _ _ _ _ _ _ _ _ hr] at this
    split
    · exact (putLine_works _ _ _ _ _ _ (hp _ hi)).trans (perf_works ..)
    · exact putLine_works _ _ _ _ _ _ (hp _ hi)

end Sys2Proof.Machine
end

section
/-! PUT, PUT_RECEIVE, INBOUND_ACCESS, STALLED_UNIT_TIMEOUT (R217, R218, R227, R328, R428). -/

namespace Sys2Proof.Machine

variable {p : Nat → Prop}

/-! ### PUT -/

theorem State.works_foldl {α : Type} {f : State → α → State} (l : List α) (h : ∀ x ∈ l, ∀ s : State, s.dp.Works p (f s x).dp) (s : State) :
    s.dp.Works p (l.foldl f s).dp := by
  induction l generalizing s with
  | nil => exact .refl _
  | cons x r ih => exact (h x (by simp) s).trans (ih (fun y hy => h y (by simp [hy])) _)

/-- R227: PUT works as its rows do; its credit stores nothing. -/
theorem State.runPut_works (s : State) (c ch : Nat) (w : BitVec 256)
    (hrow : ∀ r, r < (moveOf w).rows → ∀ t : State, t.dp.Works p (t.putRow c ch
      ((s.torus.rankPkg (putCg w) (putRank w)).1 == s.torus.pod && (s.torus.rankPkg (putCg w) (putRank w)).2 == s.torus.pkg)
      (s.torus.rankPkg (putCg w) (putRank w)).2 (s.torus.rankPkg (putCg w) (putRank w)).1 ((moveOf w).src + r * (moveOf w).spl * 64)
      ((moveOf w).dst + r * (moveOf w).dpl * 64) (moveOf w).lines).dp) : s.dp.Works p (s.runPut c ch w).dp := by
  unfold State.runPut
  extract_lets v x k own s₁ tag
  have rows : s.dp.Works p s₁.dp := State.works_foldl _ (fun r hr t => by
    split
    · exact .refl _
    · exact hrow r (List.mem_range.mp hr) t) s
  clear_value s₁
  split
  · exact rows
  · split
    · exact rows.trans ((trace_works ..).trans (putCredit_works ..))
    · refine Dp.Works.trans ?_ (State.whenAcked_remote_works ..)
      exact rows.trans (trace_works ..)

theorem State.runPut_remote_works (s : State) (c ch : Nat) (w : BitVec 256)
    (h : s.torus.rankPkg (putCg w) (putRank w) ≠ (s.torus.pod, s.torus.pkg)) : s.dp.Works p (s.runPut c ch w).dp := by
  refine s.runPut_works c ch w (fun r _ t => ?_)
  have hown : ((s.torus.rankPkg (putCg w) (putRank w)).1 == s.torus.pod && (s.torus.rankPkg (putCg w) (putRank w)).2 == s.torus.pkg) = false := by
    rw [← Bool.not_eq_true, Bool.and_eq_true, beq_iff_eq, beq_iff_eq]
    exact fun ⟨h₁, h₂⟩ => h (Prod.ext h₁ h₂)
  rw [hown]
  exact t.putRow_remote_works ..

/-- The addresses of the destination lines of a move (R223). -/
def destLines (w : BitVec 256) (a : Nat) : Prop :=
  ∃ r i, r < (moveOf w).rows ∧ i < bits w 32 16 ∧ a = (moveOf w).dst + r * (moveOf w).dpl * 64 + 64 * i

theorem State.runPut_dest_works (s : State) (c ch : Nat) (w : BitVec 256) : s.dp.Works (destLines w) (s.runPut c ch w).dp := by
  refine s.runPut_works c ch w (fun r hr t => ?_)
  cases (s.torus.rankPkg (putCg w) (putRank w)).1 == s.torus.pod && (s.torus.rankPkg (putCg w) (putRank w)).2 == s.torus.pkg
  · exact t.putRow_remote_works ..
  · exact t.putRow_own_works _ _ _ _ _ _ _ (fun i hi => ⟨r, i, hr, hi, rfl⟩)

/-! ### An instruction that runs (R152, R223) -/

/-- Unit `u` awaits no access that cannot be made now. -/
def State.noAwait (s : State) (u : Nat) : State := { s with dp := s.dp.setUnit u (fun x => { x with awaitExt := false }) }

/-- Whether a unit dispatches does not hang on what it awaits. -/
theorem State.noAwait_runs (s : State) (u opc w : Nat) : (s.noAwait u).dp.runs (s.noAwait u).env u opc w = s.dp.runs s.env u opc w ∧
    (s.noAwait u).dp.atFragment (s.noAwait u).env u = s.dp.atFragment s.env u := by
  have hunit : (s.noAwait u).dp.getUnit u = { s.dp.getUnit u with awaitExt := false } := by
    rw [State.noAwait, Dp.getUnit_setUnit, if_pos rfl]
  have henv : (s.noAwait u).env = s.env := rfl
  have hfrag : (s.noAwait u).dp.atFragment s.env u = s.dp.atFragment s.env u := by
    simp only [Dp.atFragment, hunit]
  refine ⟨?_, by rw [henv, hfrag]⟩
  rw [henv]
  simp only [Dp.runs, Dp.canRun, Dp.fetches, hunit, hfrag]
  rfl

/-- R223: a valid data instruction that need not wait takes effect, and its unit moves on. -/
theorem State.runMove_runs (s : State) (u opc w : Nat) (f : State → State) (h : s.dispatches u opc w = true) (hf : s.inFlight u < 4) :
    s.runMove u opc w true false f = ({ f (s.noAwait u) with dp := (f (s.noAwait u)).dp.advance u } : State).settleStop := by
  simp only [State.dispatches, Bool.and_eq_true, Bool.not_eq_true'] at h
  obtain ⟨⟨hruns, hfrag⟩, -⟩ := h
  obtain ⟨hr, ha⟩ := s.noAwait_runs u opc w
  rw [hruns] at hr
  rw [hfrag] at ha
  have hnow : ¬ (4 ≤ s.inFlight u) := by omega
  have hmove : s.runMove u opc w true false f = (s.noAwait u).runUnit u opc w true f := by
    simp only [State.runMove, hruns, hfrag, hnow, Bool.not_true, Bool.false_eq_true, if_false, Bool.not_false, Bool.and_self, Bool.true_and,
      decide_false, Bool.or_self]
    rfl
  rw [hmove, State.runUnit, hr, if_pos rfl, ha, if_neg Bool.false_ne_true, if_pos rfl]

/-- A Slant channel is a unit of kind 3. -/
theorem unitKind_sdUid (c : Fin 512) (ch : Fin 8) : unitKind (sdUid c.val ch.val) = 3 := by
  have hc := c.isLt
  have hch := ch.isLt
  have hcl : ¬ (sdUid c.val ch.val / 0x2000 % 2 = 1) := by
    unfold sdUid cuid
    omega
  rw [unitKind, if_neg hcl]
  unfold sdUid cuid
  omega

theorem Dp.advance_of_kind (d : Dp) (u : Nat) (hk : unitKind u ≠ 1) : d.advance u = d.setUnit u (fun x => { x with idx := x.idx + 1 }) :=
  if_neg hk

theorem exec_put (c : Fin 512) (ch : Fin 8) (w : BitVec 256) (s : State) (u : Nat) (hu : u = sdUid c.val ch.val)
    (hd : s.dispatches u 0x14 w.toNat = true) (hf : s.inFlight u < 4)
    (hv : moveValid w 8 false true (bits w 32 16) (s.env.diesOf u) = true) (h0 : bits w 216 8 = 0) (hcg : s.putCgOk u w = true) :
    exec (.put c ch w) s = .next ({ (s.noAwait u).runPut c.val ch.val w with
      dp := ((s.noAwait u).runPut c.val ch.val w).dp.advance u } : State).settleStop := by
  subst hu
  have hexec : exec (.put c ch w) s = execPut c ch w s := rfl
  have hb : anyBits w 216 8 = false := by simp [anyBits, h0]
  rw [hexec, execPut, hv, hb, hcg]
  exact congrArg Host.Outcome.next (s.runMove_runs _ _ _ _ hd hf)

/-- R152, R227: what an instruction of a unit other than a Brush leaves once it has run without an error and the unit has moved on. -/
theorem State.movedOn_keeps (s t : State) (u : Nat) (hk : unitKind u ≠ 1) (hc : s.clean) (hj : s.dp.fr.jobStop = none)
    (hw : s.dp.Works p t.dp) :
    (fun t' : State => (t'.dp.getUnit u).idx = (s.dp.getUnit u).idx + 1 ∧ s.keepsOthers t' u ∧ s.dp.Stores p t'.dp)
      ({ t with dp := t.dp.advance u } : State).settleStop := by
  have hworked := hw.worked hc
  rw [State.settleStop_none, Dp.advance_of_kind _ u hk]
  · refine ⟨?_, fun v hv => ?_, hworked.toStores.trans (.of_mem rfl)⟩
    · rw [Dp.getUnit_setUnit, if_pos rfl, hworked.unit]
    · rw [Dp.getUnit_setUnit, if_neg hv, hworked.unit]
  · rw [Dp.advance_of_kind _ u hk]
    exact hworked.job.trans hj

theorem State.noAwait_works (s : State) (u : Nat) : s.dp.Works p (s.noAwait u).dp := s.dp.works_setUnit _ _ (fun _ => rfl)

/-! ### PUT_RECEIVE -/

/-- R327: the destination of a header. -/
theorem mkHdr_dest (typ lines vc cls hops spod spkg hseq addr : Nat) (tag : BitVec 64) (args : BitVec 256) {dpkg dpod : Nat}
    (hk : dpkg < 4096) (hd : dpod < 256) (l : List (BitVec 512)) :
    (Packet.mk (mkHdr typ lines vc cls hops dpkg dpod spod spkg hseq addr tag args) l).dpkg = dpkg ∧
      (Packet.mk (mkHdr typ lines vc cls hops dpkg dpod spod spkg hseq addr tag args) l).dpod = dpod := by
  unfold Packet.dpkg Packet.dpod mkHdr
  rw [bits_ofNat (by decide), bits_ofNat (by decide)]
  constructor
  · rw [Nat.mod_eq_of_lt hk]
    exact packBytes_field (o := 4) (n := 12) (by simp) hk (by simp; omega)
  · rw [Nat.mod_eq_of_lt hd]
    exact packBytes_field (o := 6) (n := 8) (by simp) hd (by simp; omega)

theorem Torus.portFor_inbox (t : Torus) (d i : Nat) : (t.portFor d i).2.inbox = t.inbox := by
  unfold Torus.portFor
  dsimp only
  repeat' split
  all_goals rfl

/-- R320, R329: a packet that goes out by a port leaves inbox, queues and launches as they were. -/
theorem State.launchOn_away (s : State) (d dir cls : Nat) (arrived : Option (Nat × Nat)) (k : Packet) :
    (s.launchOn d dir cls arrived k).torus.inbox = s.torus.inbox ∧ (s.launchOn d dir cls arrived k).scr = s.scr := by
  unfold State.launchOn
  extract_lets hk n k' pf t
  have ht : t.inbox = s.torus.inbox := s.torus.portFor_inbox d dir
  clear_value t pf k'
  exact ⟨ht, rfl⟩

/-- R334: a packet routed elsewhere leaves the package's inbox, queues and launches as they were. -/
theorem State.routePacket_away (s : State) (d : Nat) (arrived : Option (Nat × Nat)) (k : Packet) (h : s.torus.hop k.dpod k.dpkg ≠ .local_) :
    (s.routePacket d arrived k).torus.inbox = s.torus.inbox ∧ (s.routePacket d arrived k).scr = s.scr := by
  unfold State.routePacket
  split
  · next hl => exact absurd hl h
  · exact ⟨rfl, rfl⟩
  · exact ⟨rfl, rfl⟩
  · exact s.launchOn_away ..

/-- R328: an ACK to another package. -/
theorem State.sendAck_away (s : State) (d : Nat) (k : Packet) (h : s.torus.hop k.spod k.spkg ≠ .local_) :
    (s.sendAck d k).torus.inbox = s.torus.inbox ∧ (s.sendAck d k).scr = s.scr := by
  have hk : k.spkg < 4096 := Nat.mod_lt _ (by decide)
  have hd : k.spod < 256 := Nat.mod_lt _ (by decide)
  refine s.routePacket_away d none _ ?_
  obtain ⟨hpkg, hpod⟩ := mkHdr_dest 2 [].length 0 0 0 s.torus.pod s.torus.pkg 0 0 (BitVec.ofNat 64 k.rtag.toNat) 0 hk hd []
  rw [hpkg, hpod]
  exact h

/-- R218, R227: the lines of a PUT packet, each performed or suppressed. -/
def Dp.putLines (e : Env) (ch : Nat) (k : Packet) (d : Dp) : Dp :=
  (k.lines.zipIdx).foldl (fun d x =>
    if (putLine e ch (bits k.tag 32 16) (k.addr + 64 * x.2) x.1 d).1 then taint (putLine e ch (bits k.tag 32 16) (k.addr + 64 * x.2) x.1 d).2
    else (putLine e ch (bits k.tag 32 16) (k.addr + 64 * x.2) x.1 d).2) d

/-- The addresses of the lines a packet carries. -/
def carriedLines (k : Packet) (a : Nat) : Prop := ∃ i, i < k.lines.length ∧ a = k.addr + 64 * i

theorem Dp.putLines_stores (e : Env) (ch : Nat) (k : Packet) (d : Dp) : d.Stores (carriedLines k) (d.putLines e ch k) := by
  refine Dp.Stores.foldl _ (fun x hx d => ?_) d
  have hp : carriedLines k (k.addr + 64 * x.2) := ⟨x.2, List.snd_lt_of_mem_zipIdx hx, rfl⟩
  split
  · exact (putLine_stores e ch _ _ _ d hp).trans (.of_mem rfl)
  · exact putLine_stores e ch _ _ _ d hp

theorem State.routePacket_mem (s : State) (d : Nat) (arrived : Option (Nat × Nat)) (k : Packet) :
    (s.routePacket d arrived k).dp.mem = s.dp.mem := by
  unfold State.routePacket
  split
  · rfl
  · exact State.note_mem ..
  · rfl
  · rfl

theorem State.sendAck_mem (s : State) (d : Nat) (k : Packet) : (s.sendAck d k).dp.mem = s.dp.mem := s.routePacket_mem ..

theorem exec_putReceive (k : Packet) (ch : Fin 8) (s : State) : exec (.putReceive k ch) s =
    .next (if k.typ = 1 ∧ k ∈ s.torus.inbox ∧ s.edge.lost.getLsbD (s.dp.mem.putDie k.addr) = false then
      ((s.takeInbox k).onDp (fun e d => d.putLines e ch.val k)).sendAck
        (((s.takeInbox k).onDp (fun e d => d.putLines e ch.val k)).dp.mem.putDie k.addr) k
    else s) := by
  have hexec : exec (.putReceive k ch) s = execPutReceive k ch s := rfl
  have hcond : (k.typ = 1 && s.torus.inbox.contains k && !(s.edge.lost.getLsbD (s.dp.mem.putDie k.addr))) = true ↔
      k.typ = 1 ∧ k ∈ s.torus.inbox ∧ s.edge.lost.getLsbD (s.dp.mem.putDie k.addr) = false := by
    simp [and_assoc]
  rw [hexec, execPutReceive]
  by_cases h : k.typ = 1 ∧ k ∈ s.torus.inbox ∧ s.edge.lost.getLsbD (s.dp.mem.putDie k.addr) = false
  · rw [if_pos (hcond.mpr h), if_pos h]
    rfl
  · rw [if_neg (mt hcond.mp h), if_neg h]

/-- R227, R328: a PUT packet that is taken leaves the inbox, stores at the lines it carries, and touches no launch. -/
theorem State.putReceived_keeps (s : State) (k : Packet) (ch die : Nat) (h : s.torus.hop k.spod k.spkg ≠ .local_) :
    (fun t : State => t.torus.inbox = s.torus.inbox.erase k ∧ s.dp.Stores (carriedLines k) t.dp ∧ t.scr = s.scr)
      (((s.takeInbox k).onDp (fun e d => d.putLines e ch k)).sendAck die k) := by
  obtain ⟨hinbox, hscr⟩ := ((s.takeInbox k).onDp (fun e d => d.putLines e ch k)).sendAck_away die k h
  exact ⟨hinbox, (Dp.putLines_stores (s.takeInbox k).env ch k s.dp).trans (.of_mem (State.sendAck_mem ..)), hscr⟩

/-! ### The obligation -/

/-- R227: what a PUT leaves: it has moved on, and stored nothing but, to its own package, its destination lines. -/
theorem put_keeps (c : Fin 512) (ch : Fin 8) (w : BitVec 256) (s : State) (u : Nat) (hu : u = sdUid c.val ch.val)
    (hd : s.dispatches u 0x14 w.toNat = true) (hc : s.clean) :
    (fun t : State => (t.dp.getUnit u).idx = (s.dp.getUnit u).idx + 1 ∧ s.keepsOthers t u ∧
      (s.torus.rankPkg (putCg w) (putRank w) ≠ (s.torus.pod, s.torus.pkg) → s.keeps t noByte) ∧ s.keepsAddrs t (destLines w))
      ({ (s.noAwait u).runPut c.val ch.val w with dp := ((s.noAwait u).runPut c.val ch.val w).dp.advance u } : State).settleStop := by
  have hk : unitKind u ≠ 1 := by
    rw [hu, unitKind_sdUid]
    decide
  have hj : s.dp.fr.jobStop = none := by
    simp only [State.dispatches, Bool.and_eq_true, Option.isNone_iff_eq_none] at hd
    exact hd.2
  obtain ⟨hidx, hothers, hstores⟩ := s.movedOn_keeps _ u hk hc hj ((s.noAwait_works u).trans ((s.noAwait u).runPut_dest_works c.val ch.val w))
  refine ⟨hidx, hothers, fun hp => ?_, hstores.keepsAddrs⟩
  obtain ⟨-, -, hnothing⟩ := s.movedOn_keeps _ u hk hc hj ((s.noAwait_works u).trans ((s.noAwait u).runPut_remote_works c.val ch.val w hp))
  exact Dp.StoresNothing.keeps hnothing

/-- Settles O40: `Dp.Works` follows a PUT through its rows and packets, `Dp.Stores` an arrival and an inbound access, and `Dp.stalled` the fault
of a unit that waits too long. -/
theorem putsAndInboundAccesses : Obligations.PutsAndInboundAccesses := by
  unfold Obligations.PutsAndInboundAccesses
  refine ⟨fun c ch w s u hu hd hf hv h0 hcg hc => ⟨_, exec_put c ch w s u hu hd hf hv h0 hcg, put_keeps c ch w s u hu hd hc⟩,
    fun k ch s htyp hin hlost hhop => ?_, fun k ch s hno => ?_, fun c ch src a v s => ⟨fun h => ?_, fun h => ?_, ?_, ?_⟩,
    fun u s => ⟨exec_stalledUnitTimeout_idle u s, fun hu hw => ?_⟩⟩
  · obtain ⟨hinbox, hstores, hscr⟩ := s.putReceived_keeps k ch.val
      (((s.takeInbox k).onDp (fun e d => d.putLines e ch.val k)).dp.mem.putDie k.addr) hhop
    exact ⟨_, (exec_putReceive k ch s).trans (congrArg Host.Outcome.next (if_pos ⟨htyp, hin, hlost⟩)), hinbox, hstores.keepsAddrs, hscr⟩
  · rw [exec_putReceive, if_neg]
    rintro ⟨htyp, hin, hlost⟩
    rcases hno with h | h | h
    · exact h htyp
    · exact h hin
    · rw [hlost] at h
      exact Bool.false_ne_true h
  · rw [exec_inboundRead, h, if_neg Bool.false_ne_true]
  · rw [exec_inboundWrite, h, if_neg Bool.false_ne_true]
  · refine ⟨_, exec_inboundRead c ch src a s, ?_⟩
    split
    · exact ⟨Dp.StoresNothing.keeps (s.inboundRead_stores ..), s.inboundRead_scr _ _ _ _⟩
    · exact ⟨Dp.StoresNothing.keeps (.refl _), fun _ _ => rfl⟩
  · refine ⟨_, exec_inboundWrite c ch src a v s, ?_⟩
    split
    · next hin =>
      exact ⟨s.inboundWrite_onlyDp _ _ _ _ v, (s.inboundWrite_stores (p := fun x => x = a.toNat / 64 * 64) _ _ _ _ v rfl).keepsAddrs,
        fun l off hl hcl _ hclaims hmay => s.inboundWrite_value _ _ _ _ _ l off hl hcl hclaims hmay⟩
    · next hout =>
      exact ⟨rfl, (Dp.Stores.refl _).keepsAddrs, fun _ _ _ _ hin => absurd hin hout⟩
  · obtain ⟨hfenced, hfrozen, hlast, hkeeps⟩ := s.stalled_keeps u.toNat
    exact ⟨_, exec_stalledUnitTimeout u s hu hw, hfenced, hfrozen, hlast, hkeeps, s.stalled_alone u.toNat⟩

end Sys2Proof.Machine
end

section
/-! What the sending of packets, symbols and records leaves standing: launches and slots, queues, memory, units, partitions' step state, and the
idle states of the power block. -/

namespace Sys2Proof.Machine

/-- Launches and slots, the host port, package memory, units and partitions of the data path, and the idle states. -/
def State.standing (s : State) : Scr × Hp × Mem × Tab Unit × Tab Part × Tab Nat × Bool × Tab (Option Nat) :=
  (s.scr, s.hp, s.dp.mem, s.dp.units, s.dp.part, s.pw.idle, s.pw.cold, s.pw.waking)

theorem State.standing_iff {s t : State} : t.standing = s.standing ↔ t.scr = s.scr ∧ t.hp = s.hp ∧ t.dp.mem = s.dp.mem ∧
    t.dp.units = s.dp.units ∧ t.dp.part = s.dp.part ∧ t.pw.idle = s.pw.idle ∧ t.pw.cold = s.pw.cold ∧ t.pw.waking = s.pw.waking := by
  simp only [State.standing, Prod.mk.injEq]

/-- Either branch of a choice keeps it. -/
theorem State.standing_ite {c : Prop} [Decidable c] {s a b : State} (ha : a.standing = s.standing) (hb : b.standing = s.standing) :
    (if c then a else b).standing = s.standing := by
  split
  · exact ha
  · exact hb

theorem State.standing_clk (s : State) (c : Clk) : ({ s with clk := c } : State).standing = s.standing := rfl

/-! ### Records and packets -/

theorem State.standing_note (s : State) (u c : Nat) (pay : List (Nat × Nat)) : (s.note u c pay).standing = s.standing := by
  rw [s.note_frame]
  rfl

theorem State.standing_routePacket (s : State) (d : Nat) (arrived : Option (Nat × Nat)) (k : Packet) :
    (s.routePacket d arrived k).standing = s.standing := by
  unfold State.routePacket
  split
  · rfl
  · exact State.standing_note ..
  · rfl
  · rfl

/-- R436: a request for lines of a recovery point carries none itself. -/
theorem State.standing_sendRecovRd (s : State) (j addr n : Nat) (parity tally : Bool) :
    (s.sendRecovRd j addr n parity tally).standing = s.standing := State.standing_routePacket ..

theorem State.standing_symbolTo (s : State) (dir : Nat) (sym : BitVec 512) : (s.symbolTo dir sym).standing = s.standing := by
  unfold State.symbolTo
  split <;> rfl

theorem State.standing_sendGo (s : State) (m : BitVec 128) : (s.sendGo m).standing = s.standing :=
  foldl_keeps State.standing (fun s dir => s.standing_symbolTo dir (mkSymbol 3 [(16, m.toNat)])) _ s

/-- R436: asking the holder for a recovery point changes the fault state and the torus only. -/
theorem State.standing_beginRestore (s : State) (dies : Nat) (withTally : Bool) : (s.beginRestore dies withTally).standing = s.standing := by
  have asked : ∀ (l m : List Nat) (f g : Nat → Nat) (b : Bool) (t : State),
      (l.foldl (fun s j => m.foldl (fun s i => s.sendRecovRd j (f i) (g i) b false) s) t).standing = t.standing := by
    intro l m f g b t
    refine foldl_keeps State.standing (fun s j => ?_) _ _
    exact foldl_keeps State.standing (fun s i => s.standing_sendRecovRd ..) _ _
  unfold State.beginRestore
  extract_lets par lines stks s₁ s₂ aw
  change s₂.standing = s.standing
  refine State.standing_ite rfl ?_
  refine (State.standing_ite ?_ rfl).trans (asked _ _ _ _ _ s)
  exact foldl_keeps State.standing (fun s i => s.standing_sendRecovRd ..) _ _

/-! ### The choice of operating points, and the close of a stroke -/

/-- R390: the choice of operating points moves voltages and the Damper's own fields. -/
theorem State.standing_chooseFor (s : State) (ks : List Nat) : (s.chooseFor ks).standing = s.standing := by
  unfold State.chooseFor
  extract_lets sl r a c s₁
  split <;> rfl

theorem State.standing_choosePower (s : State) : s.choosePower.standing = s.standing := by
  unfold State.choosePower
  exact Eq.trans rfl (s.standing_chooseFor _)

theorem State.standing_chooseAgain (s : State) : s.chooseAgain.standing = s.standing :=
  State.standing_ite (s.standing_chooseFor _) rfl

/-- R413: a sample changes the histograms only. -/
theorem State.standing_sample (s : State) (q sh u v : Nat) : (s.onDp (fun e => sample e q sh u v)).standing = s.standing := by
  rw [State.onDp, sample_frame]
  rfl

theorem State.standing_countLate (s : State) (t : Nat) : (s.countLate t).standing = s.standing :=
  (State.standing_sample _ _ _ _ _).trans rfl

theorem State.standing_rootClose (s : State) (m : BitVec 128) : (s.rootClose m).standing = s.standing := by
  unfold State.rootClose
  extract_lets n1 t k p g late c s₁ s₂
  have h : s₂.standing = s.standing := (State.standing_sendGo _ _).trans ((State.standing_countLate _ _).trans rfl)
  exact State.standing_ite h ((s₂.standing_note ..).trans h)

/-- R48–R53: a package that does not regenerate closes its stroke without touching launches, memory or idle states. -/
theorem State.standing_tryClose (s : State) (h : s.dp.fr.regen = false) : s.tryClose.standing = s.standing := by
  unfold State.tryClose
  extract_lets s₁ c s₂ s₃ m c'
  have late : s₁ = s := by
    simp only [s₁, h, Bool.and_false, Bool.false_and, Bool.false_eq_true, if_false]
  have own : s₂.standing = s₁.standing := State.standing_ite (s₁.standing_clk _) rfl
  have chosen : s₃.standing = s₂.standing := s₂.standing_choosePower
  clear_value s₁ s₂ s₃ m
  subst late
  refine State.standing_ite rfl ?_
  rw [← own, ← chosen]
  exact State.standing_ite (s₃.standing_rootClose m) ((State.standing_symbolTo _ _ _).trans rfl)

end Sys2Proof.Machine
end

section
/-! Descriptors that start (R122–R125), and LAUNCH: the order of its checks (R131, R162) and the state at acceptance (R87, R164, R283). -/

namespace Sys2Proof.Machine

/-! ### A descriptor that starts -/

/-- R123, R125: no field offends. -/
theorem badField_eq_none (d : BitVec 512) (body : List (Nat × Bool)) (hh : headerOk d = true) (hb : ∀ x ∈ body, x.2 = false) :
    badField d body = none := by
  simp only [headerOk, Bool.and_eq_true, Bool.not_eq_true'] at hh
  obtain ⟨hlow, hhigh⟩ := hh
  simpa [badField, hlow, hhigh] using hb

/-- R122–R125: a descriptor that starts, with no offending field, has its effect. -/
theorem State.onDesc_starts (s : State) (q seq t : Nat) (d : BitVec 512) (body : BitVec 512 → List (Nat × Bool))
    (f : BitVec 512 → State → State) (hs : s.starts q seq t d) (hh : headerOk d = true) (hb : ∀ x ∈ body d, x.2 = false) :
    s.onDesc q seq t body f = f d s := by
  obtain ⟨⟨y, hfind, rfl, hmay⟩, rfl, hlit, hstatus, howner⟩ := hs
  have hfree : ((s.ownerOf q).isSome && dType y.d != 0x20 && dType y.d != 0x21) = false := by
    rcases howner with h | h | h <;> simp [h]
  simp only [State.onDesc, State.onStart, hfind, hmay, hlit, hstatus, hfree, badField_eq_none y.d (body y.d) hh hb, bne_self_eq_false,
    Bool.true_or, Bool.not_true, Option.isSome_none, Bool.or_self, Bool.false_eq_true, if_false]

/-! ### The order of the checks -/

/-- R131: the slot a LAUNCH names. -/
def launchSlot (d : BitVec 512) : Fin 8 := ⟨bits d 64 3, Nat.mod_lt _ (by decide)⟩

/-- R131, R390: the launch that `d` asks for is accepted. -/
def State.acceptDesc (s : State) (p q seq : Nat) (d : BitVec 512) (g : Image) : State :=
  (s.acceptLaunch p q seq g (launchSlot d) (d.extractLsb' 128 128) (d.extractLsb' 256 64) (d.extractLsb' 320 64) (d.extractLsb' 384 64)).chooseAgain

/-- R131: LAUNCH of the image `g` its slot holds: the checks in their order, then acceptance. -/
def State.launchFrom (s : State) (p q seq : Nat) (d : BitVec 512) (g : Image) : State :=
  if (s.getPartn p).launch.isSome || !s.hp.hostOps.isEmpty then s.finish q seq stBusy 0 0
  else if bits d 384 64 != 0 && decide (bits d 384 64 ≤ s.clk.stroke.toNat) then s.finish q seq stPassed (s.clk.stroke.toNat % 2 ^ 32) 0
  else
    match s.launchRefusal p g (bits d 384 64) with
    | some (r, w) => s.refuse q seq stLaunch r w
    | none =>
      if s.usesDisabled g then s.finish q seq stDisabled 0 0
      else s.acceptDesc p q seq d g

theorem exec_launch {s : State} {q : Fin 81} {seq p : Nat} {d : BitVec 512} (hs : s.starts q.val seq 0x14 d) (hh : headerOk d = true)
    (h67 : bits d 67 61 = 0) (h448 : bits d 448 64 = 0) (hp : s.partOfQ q.val = some p) : exec (.launch q seq) s = .next
      (((s.scr.slots.get none (bits d 64 3)).map (s.launchFrom p q.val seq d)).getD (s.finish q.val seq stBadField 64 0)) := by
  have hexec : exec (.launch q seq) s = execLaunch q seq s := rfl
  rw [hexec, execLaunch, State.onDesc_starts s q.val seq 0x14 d _ _ hs hh (by simp [anyBits, h67, h448]), hp]
  cases hg : s.scr.slots.get none (bits d 64 3) <;> simp only [hg] <;> rfl

theorem State.launchFrom_busy (s : State) (p q seq : Nat) (d : BitVec 512) (g : Image)
    (h : (s.getPartn p).launch.isSome = true ∨ s.hp.hostOps ≠ []) : s.launchFrom p q seq d g = s.finish q seq stBusy 0 0 :=
  if_pos (by simpa using h)

theorem State.launchFrom_passed (s : State) (p q seq : Nat) (d : BitVec 512) (g : Image)
    (hl : (s.getPartn p).launch = none) (ho : s.hp.hostOps = []) (h0 : bits d 384 64 ≠ 0) (h : bits d 384 64 ≤ s.clk.stroke.toNat) :
    s.launchFrom p q seq d g = s.finish q seq stPassed (s.clk.stroke.toNat % 2 ^ 32) 0 := by
  simp [State.launchFrom, hl, ho, h0, h]

theorem State.launchFrom_checked (s : State) (p q seq : Nat) (d : BitVec 512) (g : Image)
    (hl : (s.getPartn p).launch = none) (ho : s.hp.hostOps = []) (h : bits d 384 64 = 0 ∨ s.clk.stroke.toNat < bits d 384 64) :
    (∀ r w, s.launchRefusal p g (bits d 384 64) = some (r, w) → s.launchFrom p q seq d g = s.refuse q seq stLaunch r w) ∧
    (s.launchRefusal p g (bits d 384 64) = none → s.usesDisabled g = true → s.launchFrom p q seq d g = s.finish q seq stDisabled 0 0) ∧
    (s.launchRefusal p g (bits d 384 64) = none → s.usesDisabled g = false → s.launchFrom p q seq d g =
      s.acceptDesc p q seq d g) := by
  have hnow : (bits d 384 64 != 0 && decide (bits d 384 64 ≤ s.clk.stroke.toNat)) = false := by
    rcases h with h | h
    · simp [h]
    · simp only [Bool.and_eq_false_iff, decide_eq_false_iff_not]
      exact .inr (by omega)
  refine ⟨fun r w hr => ?_, fun hr hu => ?_, fun hr hu => ?_⟩
  · simp [State.launchFrom, hl, ho, hnow, hr]
  · simp [State.launchFrom, hl, ho, hnow, hr, hu]
  · simp [State.launchFrom, hl, ho, hnow, hr, hu]

/-! ### Acceptance -/

/-- A key the table does not list. -/
theorem Tab.get_of_unlisted {α : Type} (d : α) (t : Tab α) (k : Nat) (h : ∀ x ∈ t, x.1 ≠ k) : Tab.get d t k = d := by
  induction t with
  | nil => rfl
  | cons x r ih =>
    rw [Tab.get, if_neg (h x (by simp))]
    exact ih (fun y hy => h y (by simp [hy]))

/-- One entry of `clearUnits`. -/
def clearEntry (dies : Nat) (r : Tab Unit) (x : Nat × Unit) : Tab Unit :=
  if dies.testBit (uidDie x.1) then
    r.put {} x.1 { x.2 with sticky := {}, illFirst := 0, idx := 0, blocked := none, done := false, cause := 0 } else r

theorem clearUnits_eq (dies : Nat) (t : Tab Unit) : clearUnits dies t = t.foldl (clearEntry dies) t := rfl

theorem clearEntry_sticky (dies : Nat) (r : Tab Unit) (x : Nat × Unit) (u : Nat) (hu : dies.testBit (uidDie u) = true)
    (h : x.1 = u ∨ (r.get {} u).sticky = {}) : ((clearEntry dies r x).get {} u).sticky = {} := by
  unfold clearEntry
  by_cases hx : x.1 = u
  · rw [hx, if_pos hu, Tab.get_put, if_pos rfl]
  · have hr := h.resolve_left hx
    split
    · rwa [Tab.get_put, if_neg (Ne.symm hx)]
    · exact hr

theorem clearEntries_sticky (dies : Nat) (l : List (Nat × Unit)) (r : Tab Unit) (u : Nat) (hu : dies.testBit (uidDie u) = true)
    (h : (∃ x ∈ l, x.1 = u) ∨ (r.get {} u).sticky = {}) : ((l.foldl (clearEntry dies) r).get {} u).sticky = {} := by
  induction l generalizing r with
  | nil => exact h.resolve_left (by simp)
  | cons x l ih =>
    refine ih (clearEntry dies r x) ?_
    rcases h with ⟨y, hy, hyu⟩ | h
    · rcases List.mem_cons.mp hy with rfl | hy
      · exact .inr (clearEntry_sticky dies r y u hu (.inl hyu))
      · exact .inl ⟨y, hy, hyu⟩
    · exact .inr (clearEntry_sticky dies r x u hu (.inr h))

/-- R195, R215, R273: every unit of the dies, listed or not, has its sticky counters clear. -/
theorem clearUnits_sticky (dies : Nat) (t : Tab Unit) (u : Nat) (hu : dies.testBit (uidDie u) = true) :
    ((clearUnits dies t).get {} u).sticky = {} := by
  rw [clearUnits_eq]
  refine clearEntries_sticky dies t t u hu ?_
  by_cases h : ∃ x ∈ t, x.1 = u
  · exact .inl h
  · exact .inr (by rw [Tab.get_of_unlisted {} t u (fun x hx hxu => h ⟨x, hx, hxu⟩)])

/-- R281: the step line is one store of package memory. -/
theorem writeStepLine_frame (p prev : Nat) (d : Dp) : writeStepLine p prev d = { d with mem := (writeStepLine p prev d).mem } := by
  unfold writeStepLine
  extract_lets q
  repeat' split
  all_goals rfl

theorem writeStepLine_layout (p prev : Nat) (d : Dp) :
    (writeStepLine p prev d).mem.localGib = d.mem.localGib ∧ (writeStepLine p prev d).mem.ilv = d.mem.ilv := by
  unfold writeStepLine
  extract_lets q
  repeat' split
  all_goals exact ⟨rfl, rfl⟩

/-- R281: a launch with no step line writes none. -/
theorem writeStepLine_off (p prev : Nat) (d : Dp) (h : (d.getPart p).lineEn = false) : writeStepLine p prev d = d := by
  simp [writeStepLine, h]

/-- R87, R164, R195, R283: the data path at acceptance, before TS_LINE is judged. -/
def Dp.taken (d : Dp) (p : Nat) (g : Image) (seed : BitVec 128) (step0 : BitVec 64) : Dp :=
  { d.setPart p (fun x => x.accept seed step0) with
      mem := { d.mem.layout g with staged := (d.mem.layout g).staged.filter (fun x => !(g.dies.testBit (x.1 / 2 ^ 16 / 3))) }
      units := clearUnits g.dies d.units
      fr := { d.fr with restore := false } }

/-- R282: the same once TS_LINE is judged, before the step line is written. -/
def Dp.accepted (d : Dp) (p : Nat) (g : Image) (seed : BitVec 128) (step0 : BitVec 64) : Dp :=
  let ok := lineOkAt (d.mem.layout g) g ((d.setPart p (fun x => x.accept seed step0)).getPart p).lineAddr.toNat
  (d.taken p g seed step0).setPart p (fun x => { x with lineOk := x.lineEn && ok, lineBad := x.lineBad || !ok })

theorem Dp.getPart_taken (d : Dp) (p : Nat) (g : Image) (seed : BitVec 128) (step0 : BitVec 64) :
    (d.taken p g seed step0).getPart p = (d.getPart p).accept seed step0 := by
  have h : (d.setPart p (fun x => x.accept seed step0)).getPart p = (d.getPart p).accept seed step0 := by
    rw [Dp.getPart_setPart, if_pos rfl]
  exact h

/-- R283: the partition's step state at acceptance. -/
theorem Dp.getPart_accepted (d : Dp) (p : Nat) (g : Image) (seed : BitVec 128) (step0 : BitVec 64) :
    ∃ ok bad, (d.accepted p g seed step0).getPart p = { (d.getPart p).accept seed step0 with lineOk := ok, lineBad := bad } := by
  unfold Dp.accepted
  extract_lets ok
  rw [Dp.getPart_setPart, if_pos rfl, Dp.getPart_taken]
  exact ⟨_, _, rfl⟩

/-- R131: the launch that descriptor `d` starts. -/
def launchOf (q seq : Nat) (d : BitVec 512) (restore : Bool) : Launch :=
  { slot := launchSlot d, q := q, seq := seq, step0 := d.extractLsb' 256 64, steps := d.extractLsb' 320 64, start := d.extractLsb' 384 64,
    began := false, entry := 0, stops := [], zeroing := true, restore := restore }

/-- R35, R131, R281, R283: the state at acceptance, but for the torus, the time block and what a restore asks for (R440). -/
def State.accepted (s : State) (p : Nat) (l : Launch) (g : Image) (seed : BitVec 128) : State :=
  { (s.markStarted l.q l.seq).setPartn p (fun x => { x with launch := some l }) with
    dp := writeStepLine p 0 (s.dp.accepted p g seed l.step0) }

theorem State.acceptDesc_standing (s : State) (p q seq : Nat) (d : BitVec 512) (g : Image) :
    (s.acceptDesc p q seq d g).standing = (s.accepted p (launchOf q seq d s.dp.fr.restore) g (d.extractLsb' 128 128)).standing := by
  unfold State.acceptDesc
  refine (State.standing_chooseAgain _).trans ?_
  unfold State.acceptLaunch
  extract_lets rest s₁ l s₂ d m ok m' fr d' d'' clk torus pw s₃
  split
  · exact (State.standing_beginRestore _ g.dies true).trans rfl
  · rfl

/-- R87, R131, R195, R283: what holds once the launch `l` of image `g` is accepted on partition `p`. -/
theorem State.accepted_keeps {s t : State} {p : Nat} {l : Launch} {g : Image} {seed : BitVec 128}
    (h : t.standing = (s.accepted p l g seed).standing) :
    (∀ k, t.getPartn k = if k = p then { s.getPartn p with launch := some l } else s.getPartn k) ∧
      (t.dp.getPart p).seed = seed ∧ (t.dp.getPart p).step = l.step0 ∧ (t.dp.getPart p).covered = true ∧
      (t.dp.getPart p).gate = .opened ∧ (t.dp.getPart p).blot = false ∧ (t.dp.getPart p).ls = (s.dp.getPart p).lsInit ∧
      t.dp.mem.localGib = BitVec.ofNat 8 g.localGib ∧ t.dp.mem.ilv = BitVec.ofNat 16 (1024 - 16 * g.localGib - s.dp.mem.ink.toNat) ∧
      (∀ u, g.dies.testBit (uidDie u) = true → (t.dp.getUnit u).sticky = {}) ∧
      ((s.dp.getPart p).lineEn = false → t.dp.mem.cells = s.dp.mem.cells) := by
  obtain ⟨hscr, -, hmem, hunits, hpart, -⟩ := State.standing_iff.mp h
  have hwritten : (s.accepted p l g seed).dp.units = clearUnits g.dies s.dp.units ∧
      (s.accepted p l g seed).dp.part = (s.dp.accepted p g seed l.step0).part := by
    rw [State.accepted, writeStepLine_frame]
    exact ⟨rfl, rfl⟩
  obtain ⟨ok, bad, hq⟩ := s.dp.getPart_accepted p g seed l.step0
  have hget : t.dp.getPart p = { (s.dp.getPart p).accept seed l.step0 with lineOk := ok, lineBad := bad } := by
    rw [Dp.getPart, hpart, hwritten.2, ← Dp.getPart, hq]
  obtain ⟨hgib, hilv⟩ := writeStepLine_layout p 0 (s.dp.accepted p g seed l.step0)
  refine ⟨fun k => ?_, hget ▸ rfl, hget ▸ rfl, hget ▸ rfl, hget ▸ rfl, hget ▸ rfl, hget ▸ rfl, hmem ▸ hgib, hmem ▸ hilv, fun u hu => ?_,
    fun hline => ?_⟩
  · rw [State.getPartn, hscr]
    exact (s.markStarted l.q l.seq).getPartn_setPartn ..
  · rw [Dp.getUnit, hunits, hwritten.1]
    exact clearUnits_sticky g.dies s.dp.units u hu
  · rw [hmem, State.accepted, writeStepLine_off _ _ _ (by rw [hq]; exact hline)]
    rfl

/-! ### The obligation -/

/-- Settles O28: `exec_launch` takes a descriptor that starts to `State.launchFrom`, whose checks are cited one by one; what acceptance sets is
`State.accepted_keeps`, and neither the restore it may ask for nor the second choice of operating points touches it. -/
theorem launchesAreAcceptedInOrderOfChecks : Obligations.LaunchesAreAcceptedInOrderOfChecks := by
  unfold Obligations.LaunchesAreAcceptedInOrderOfChecks
  intro q seq d s p hs hh h67 h448 hp
  have hexec := exec_launch hs hh h67 h448 hp
  refine ⟨fun hg => ?_, fun g hg => ?_⟩
  · rw [hexec, hg]
    rfl
  replace hexec : exec (.launch q seq) s = .next (s.launchFrom p q.val seq d g) := by
    rw [hexec, hg]
    rfl
  rw [hexec]
  refine ⟨fun h => congrArg _ (s.launchFrom_busy p q.val seq d g h),
    fun hl ho => ⟨fun h0 h => congrArg _ (s.launchFrom_passed p q.val seq d g hl ho h0 h), fun h => ?_⟩⟩
  obtain ⟨hrefused, hdisabled, haccepted⟩ := s.launchFrom_checked p q.val seq d g hl ho h
  refine ⟨fun r w hr => congrArg _ (hrefused r w hr), fun hr hu => congrArg _ (hdisabled hr hu), fun hr hu => ?_⟩
  obtain ⟨hpartn, hseed, hstep, hcov, hgate, hblot, hls, hgib, hilv, hsticky, hcells⟩ :=
    State.accepted_keeps (s.acceptDesc_standing p q.val seq d g)
  refine ⟨_, launchOf q.val seq d s.dp.fr.restore, congrArg _ (haccepted hr hu), ?_, rfl, rfl, rfl, ?_, ?_, rfl, rfl, rfl, hseed,
    hstep, hcov, hgate, hblot, hls, hgib, hilv, hsticky, fun k hk => ?_, hcells⟩
  · rw [hpartn, if_pos rfl]
  · exact d.extractLsb'_toNat 320 64
  · exact d.extractLsb'_toNat 384 64
  · rw [hpartn, if_neg hk]

end Sys2Proof.Machine
end

section
/-! What a change of the idle states leaves (R399–R401): records, voltages, ports and edge ends follow it, and nothing else. -/

namespace Sys2Proof.Machine

/-! ### Records -/

theorem Log.keep_rings (l : Log) (r : BitVec 512) : (l.keep r).1.rings = l.rings := by
  unfold Log.keep
  repeat' split
  all_goals rfl

theorem Log.enter_rings (l : Log) (ts stroke : BitVec 64) (unit code : Nat) (cov : Bool) (pay : List (Nat × Nat)) :
    (l.enter ts stroke unit code cov pay).1.rings = l.rings := by
  unfold Log.enter
  split
  · rfl
  · extract_lets l₁ rate r l₂ hk l₃ fill
    split
    · rfl
    · change hk.1.rings = l.rings
      by_cases h : sevOf code ≥ l₂.holdSev.toNat
      · rw [show hk = _ from if_pos h]
        exact l₂.keep_rings r
      · rw [show hk = _ from if_neg h]

/-- R406, R414: a record enters no trace ring. -/
theorem record_rings (e : Env) (u code : Nat) (cov : Bool) (pay : List (Nat × Nat)) (d : Dp) :
    (record e u code cov pay d).log.rings = d.log.rings := by
  have h := d.log.enter_rings e.tb e.stroke u code cov pay
  unfold record fireEvents
  generalize d.log.enter e.tb e.stroke u code cov pay = r at *
  dsimp only
  repeat' split
  all_goals exact h

/-- What follows when only records have been written: the event recorder and interrupts have changed, and no trace ring has. -/
structure State.Noted (s t : State) : Prop where
  frame : t = { s with dp := { s.dp with log := t.dp.log, irq := t.dp.irq } }
  rings : t.dp.log.rings = s.dp.log.rings

theorem State.Noted.refl (s : State) : s.Noted s := ⟨rfl, rfl⟩

theorem State.Noted.trans {s t u : State} (h : s.Noted t) (g : t.Noted u) : s.Noted u := by
  refine ⟨?_, g.rings.trans h.rings⟩
  rw [g.frame, h.frame]

theorem State.noted_note (s : State) (u c : Nat) (pay : List (Nat × Nat)) : s.Noted (s.note u c pay) :=
  ⟨s.note_frame u c pay, record_rings ..⟩

theorem State.Noted.ite {c : Prop} [Decidable c] {s a b : State} (ha : s.Noted a) (hb : s.Noted b) : s.Noted (if c then a else b) := by
  split
  · exact ha
  · exact hb

theorem State.Noted.foldl {α : Type} {f : State → α → State} (h : ∀ (s : State) (x : α), s.Noted (f s x)) (l : List α) (s : State) :
    s.Noted (l.foldl f s) := by
  induction l generalizing s with
  | nil => exact .refl s
  | cons x r ih => exact (h s x).trans (ih _)

/-! ### The change -/

/-- R400, R407: the GATE and WAKE records of regions and package. -/
def State.idleNotes (s : State) (was : List Nat) (pkgWas : Nat) : State :=
  let s := was.zipIdx.foldl (fun (s : State) x =>
    if x.1 < s.regionIdle x.2 then s.note (regionUid x.2) 0x15 [(24, s.regionIdle x.2)]
    else if s.regionIdle x.2 < x.1 then s.note (regionUid x.2) 0x16 [(24, x.1)] else s) s
  if pkgWas < s.pkgIdle then s.note pmcUid 0x15 [(24, s.pkgIdle)]
  else if s.pkgIdle < pkgWas then s.note pmcUid 0x16 [(24, pkgWas)] else s

theorem State.idleChange_eq (s : State) (was : List Nat) (pkgWas : Nat) :
    s.idleChange was pkgWas = ((s.idleNotes was pkgWas).callVolts (s.idleNotes was pkgWas).volts).linksFollow := rfl

theorem State.noted_idleNotes (s : State) (was : List Nat) (pkgWas : Nat) : s.Noted (s.idleNotes was pkgWas) := by
  unfold State.idleNotes
  extract_lets t
  have regions : s.Noted t :=
    .foldl (fun s x => .ite (s.noted_note _ _ _) (.ite (s.noted_note _ _ _) (.refl s))) _ s
  exact regions.trans (.ite (t.noted_note _ _ _) (.ite (t.noted_note _ _ _) (.refl t)))

/-- Ports that send change the torus only. -/
theorem State.pumpPorts_frame (l : List Nat) (s : State) : l.foldl State.pumpPort s = { s with torus := (l.foldl State.pumpPort s).torus } := by
  induction l generalizing s with
  | nil => rfl
  | cons p r ih => exact ih (s.pumpPort p)

/-- R343: ports and edge ends follow the package state. -/
theorem State.linksFollow_frame (s : State) :
    s.linksFollow = { s with torus := s.linksFollow.torus, edge := { s.edge with ends := s.linksFollow.edge.ends } } := by
  unfold State.linksFollow
  extract_lets torus edge t
  split
  · rw [State.pumpPorts_frame]
  · rfl

theorem State.idleChange_frame (s : State) (was : List Nat) (pkgWas : Nat) : s.idleChange was pkgWas = { s with
      torus := (s.idleChange was pkgWas).torus
      edge := { s.edge with ends := (s.idleChange was pkgWas).edge.ends }
      dp := { s.dp with log := (s.idleChange was pkgWas).dp.log, irq := (s.idleChange was pkgWas).dp.irq }
      pw := { s.pw with mv := (s.idleChange was pkgWas).pw.mv, uv := (s.idleChange was pkgWas).pw.uv,
                        uvAt := (s.idleChange was pkgWas).pw.uvAt } } := by
  rw [State.idleChange_eq, State.linksFollow_frame]
  have h := (s.noted_idleNotes was pkgWas).frame
  generalize s.idleNotes was pkgWas = t at h ⊢
  generalize t.dp.log = log, t.dp.irq = irq at h
  subst h
  rfl

theorem State.standing_idleChange (s : State) (was : List Nat) (pkgWas : Nat) : (s.idleChange was pkgWas).standing = s.standing := by
  rw [State.idleChange_frame]
  rfl

theorem State.idleChange_fr (s : State) (was : List Nat) (pkgWas : Nat) : (s.idleChange was pkgWas).dp.fr = s.dp.fr := by
  rw [State.idleChange_frame]

/-! ### In Cold -/

/-- R343: in Cold no port and no edge end changes with the idle states. -/
theorem State.linksFollow_cold (s : State) (h : s.pw.cold = true) : s.linksFollow = s := by
  have ports : ∀ x : Port, x.follow 3 = x := fun _ => rfl
  have ends : ∀ x : EdgeEnd, x.follow 3 = x := fun _ => rfl
  simp [State.linksFollow, State.pkgIdle, h, ports, ends]

/-- R400: in Cold only records are written and voltages called for. -/
theorem State.idleChange_cold (s : State) (was : List Nat) (pkgWas : Nat) (h : s.pw.cold = true) :
    (s.idleChange was pkgWas).torus = s.torus ∧ (s.idleChange was pkgWas).edge = s.edge ∧
      (s.idleChange was pkgWas).dp.log.rings = s.dp.log.rings := by
  have hnoted := s.noted_idleNotes was pkgWas
  have hcold : ((s.idleNotes was pkgWas).callVolts (s.idleNotes was pkgWas).volts).pw.cold = true := by
    rw [hnoted.frame]
    exact h
  rw [State.idleChange_eq, State.linksFollow_cold _ hcold]
  refine ⟨?_, ?_, hnoted.rings⟩
  · rw [hnoted.frame]
    rfl
  · rw [hnoted.frame]
    rfl

end Sys2Proof.Machine
end

section
/-! Idle states (R39, R101, R343, R399–R401): IDLE_GLOW_ENTRY, IDLE_BANKED_ENTRY, COLD_ENTRY, WAKE_COMPLETE, MANAGEMENT_WAKE. -/

namespace Sys2Proof.Machine

/-! ### Tables -/

/-- A read of a table restricted to some keys. -/
theorem Tab.get_filter_keys {α : Type} (d : α) (p : Nat → Bool) (t : Tab α) (k : Nat) :
    Tab.get d (t.filter (fun x => p x.1)) k = if p k then Tab.get d t k else d := by
  induction t with
  | nil => simp
  | cons x r ih =>
    obtain ⟨i, v⟩ := x
    by_cases hk : i = k
    · subst hk
      by_cases hp : p i = true
      · simp [hp, Tab.get]
      · simpa [hp] using ih
    · by_cases hp : p i = true
      · simpa [hp, Tab.get, hk] using ih
      · simpa [hp, Tab.get, hk] using ih

/-- What a key's value satisfies after a pass over a list that holds the key, when each round sets it for its own key and keeps it for the
others. -/
theorem Tab.get_foldl_of_mem {α : Type} {d : α} {f : Tab α → Nat → Tab α} {k : Nat} {P : α → Prop} (hset : ∀ t, P ((f t k).get d k))
    (hkeep : ∀ t j, P (t.get d k) → P ((f t j).get d k)) (l : List Nat) (t : Tab α) (h : k ∈ l ∨ P (t.get d k)) :
    P ((l.foldl f t).get d k) := by
  induction l generalizing t with
  | nil => exact h.resolve_left (by simp)
  | cons j r ih =>
    refine ih (f t j) ?_
    rcases h with h | h
    · rcases List.mem_cons.mp h with rfl | h
      · exact .inr (hset t)
      · exact .inl h
    · exact .inr (hkeep t j h)

/-! ### Glow and Banked -/

theorem State.enterIdle_keeps (s : State) (p st : Nat) :
    (fun t : State => t.idleOf p = st ∧ (∀ q, q ≠ p → t.idleOf q = s.idleOf q) ∧ t.dp.mem = s.dp.mem ∧ t.dp.units = s.dp.units ∧
      t.scr = s.scr ∧ t.hp = s.hp) (s.enterIdle p st) := by
  have hstand : (s.enterIdle p st).standing = (s.onPw (fun w => { w with idle := w.idle.put 0 p st })).standing := by
    rw [State.enterIdle, State.standing_idleChange]
  obtain ⟨hscr, hhp, hmem, hunits, -, hidle, -⟩ := State.standing_iff.mp hstand
  have hget : ∀ q, (s.enterIdle p st).idleOf q = if q = p then st else s.idleOf q := fun q => by
    rw [State.idleOf, hidle]
    exact Tab.get_put ..
  exact ⟨by rw [hget, if_pos rfl], fun q hq => by rw [hget, if_neg hq], hmem, hunits, hscr, hhp⟩

theorem exec_idleGlowEntry (p : Fin 4) (s : State) :
    exec (.idleGlowEntry p) s = .next (if s.mayIdle p.val 1 then s.enterIdle p.val 1 else s) := rfl

theorem exec_idleBankedEntry (p : Fin 4) (s : State) :
    exec (.idleBankedEntry p) s = .next (if s.mayIdle p.val 2 then s.enterIdle p.val 2 else s) := rfl

/-! ### Cold -/

theorem deepest_eq_three (lat : Nat) : deepest lat = 3 ↔ 40000 ≤ lat := by
  unfold deepest
  split_ifs <;> simp <;> omega

theorem State.mayCold_iff (s : State) : s.mayCold = true ↔ (s.pw.coldOk = true ∧ s.pw.cold = false ∧ ∀ p, p < 4 → (s.getPartn p).dies ≠ 0 →
    s.partIdle p = true ∧ s.idleOf p = 2 ∧ 40000 ≤ (s.getPartn p).lat.toNat ∧ s.pw.waking.get none p = none) := by
  simp [State.mayCold, deepest_eq_three, and_assoc, or_iff_not_imp_left]

theorem State.portsCold_states (s : State) : ∀ x ∈ s.portsCold.torus.ports, x.2.state = .down ∨ x.2.state = .unused := by
  intro x hx
  obtain ⟨y, -, rfl⟩ := List.mem_map.mp hx
  change y.2.goCold.state = .down ∨ y.2.goCold.state = .unused
  unfold Port.goCold
  split
  · next h => simpa using h
  · exact .inl rfl

/-- R39: to leave the stroke domain changes the time block, with its record, and nothing else. -/
theorem State.leaveStrokes_keeps (s : State) : s.onlyClkLog s.leaveStrokes ∧ s.leaveStrokes.clk.joined = false := by
  unfold State.leaveStrokes
  extract_lets t
  have lock : s.onlyClkLog t := by
    by_cases h : s.clk.role.isRoot = true
    · rw [show t = s from if_pos h]
      exact .refl s
    · rw [show t = s.setLock .acquire from if_neg h]
      exact (s.setLock_keeps .acquire).1
  exact ⟨lock.trans (t.onlyClkLog_clk _), rfl⟩

/-- R101, R416: what the data path loses in Cold. -/
def Dp.goCold (d : Dp) : Dp :=
  { d with mem := { d.mem with cells := d.mem.cells.filter (fun x => decide (x.1 < 2 ^ 40)),
                               marks := d.mem.marks.filter (fun x => decide (x.1 < 2 ^ 34)) }
           log := { d.log with rings := [], snap := [] } }

/-- R400: every partition stands in Cold. -/
def State.allCold (s : State) : Tab Nat :=
  (List.range 4).foldl (fun (t : Tab Nat) p => if (s.getPartn p).dies = 0 then t else t.put 0 p 3) s.pw.idle

/-- R39, R101, R343, R400: the package as it enters Cold, before records and voltages follow. -/
def State.goCold (s : State) : State :=
  let t := s.portsCold.leaveStrokes
  { t with edge := { t.edge.all .down with present := 0 }, dp := t.dp.goCold, pw := { t.pw with cold := true, idle := t.allCold } }

theorem exec_coldEntry (s : State) :
    exec .coldEntry s = .next (if s.mayCold then s.goCold.idleChange s.regionIdles s.pkgIdle else s) := rfl

theorem State.goCold_frame (s : State) : s.goCold = { s.portsCold with
    clk := s.goCold.clk
    edge := { s.edge.all .down with present := 0 }
    dp := { s.dp.goCold with log := s.goCold.dp.log, irq := s.goCold.dp.irq }
    pw := { s.pw with cold := true, idle := s.allCold } } := by
  have h := s.portsCold.leaveStrokes_keeps.1
  unfold State.onlyClkLog at h
  unfold State.goCold
  generalize s.portsCold.leaveStrokes = t at h ⊢
  generalize t.clk = clk, t.dp.log = log, t.dp.irq = irq at h
  subst h
  rfl

theorem State.allCold_get (s : State) (p : Nat) (hp : p < 4) (hd : (s.getPartn p).dies ≠ 0) : s.allCold.get 0 p = 3 := by
  refine Tab.get_foldl_of_mem (P := (· = 3)) (fun t => ?_) (fun t j h => ?_) _ _ (.inl (List.mem_range.mpr hp))
  · rw [if_neg hd, Tab.get_put, if_pos rfl]
  · split
    · exact h
    · rw [Tab.get_put]
      split
      · rfl
      · exact h

theorem Edge.endAt_all (e : Edge) (st : EdgeState) (i : Nat) (h : i < 8) : ((e.all st).endAt i).state = st := by
  interval_cases i <;> rfl

/-- R39, R101, R343, R400: what holds of the package in Cold. -/
theorem State.goCold_keeps (s : State) :
    (fun t : State => t.pw.cold = true ∧ (∀ p, p < 4 → (s.getPartn p).dies ≠ 0 → t.idleOf p = 3) ∧ t.edge.present = 0 ∧
      (∀ x ∈ t.torus.ports, x.2.state = .down ∨ x.2.state = .unused) ∧ t.clk.joined = false ∧
      (∀ k, t.dp.mem.byte k = if k < 2 ^ 40 then s.dp.mem.byte k else 0) ∧ (∀ i, i < 8 → (t.edge.endAt i).state = .down) ∧
      t.dp.log.rings = [] ∧ t.scr = s.scr ∧ t.hp = s.hp) (s.goCold.idleChange s.regionIdles s.pkgIdle) := by
  have hcold : s.goCold.pw.cold = true := rfl
  obtain ⟨htorus, hedge, hrings⟩ := s.goCold.idleChange_cold s.regionIdles s.pkgIdle hcold
  obtain ⟨hscr, hhp, hmem, -, -, hidle, hcold', -⟩ := State.standing_iff.mp (s.goCold.standing_idleChange s.regionIdles s.pkgIdle)
  have hclk : (s.goCold.idleChange s.regionIdles s.pkgIdle).clk = s.goCold.clk := by
    rw [State.idleChange_frame]
  have hframe := s.goCold_frame
  refine ⟨hcold'.trans hcold, fun p hp hd => ?_, ?_, ?_, ?_, fun k => ?_, fun i hi => ?_, hrings, ?_, ?_⟩
  · rw [State.idleOf, hidle, hframe]
    exact s.allCold_get p hp hd
  · rw [hedge, hframe]
  · rw [htorus, hframe]
    exact s.portsCold_states
  · rw [hclk]
    exact s.portsCold.leaveStrokes_keeps.2
  · rw [hmem, hframe]
    exact (Tab.get_filter_keys 0 (fun k => decide (k < 2 ^ 40)) s.dp.mem.cells k).trans (by simp only [decide_eq_true_eq]; rfl)
  · rw [hedge, hframe]
    exact s.edge.endAt_all .down i hi
  · rw [hscr, hframe]
    rfl
  · rw [hhp, hframe]
    rfl

/-! ### A wake that is complete -/

/-- R39, R401: partition `p` stands in the state it woke to; from Cold the others stand in Banked. -/
def State.wokeTo (s : State) (p dst : Nat) : State :=
  s.onPw (fun w => { w with cold := false, waking := w.waking.put none p none, fromIdle := w.fromIdle || dst == 0,
                            idle := Tab.put 0 (if w.cold then w.idle.map (fun (x : Nat × Nat) => (x.1, min x.2 2)) else w.idle) p dst })

theorem exec_wakeComplete_none (p : Fin 4) (s : State) (h : s.pw.waking.get none p.val = none) : exec (.wakeComplete p) s = .next s := by
  have hexec : exec (.wakeComplete p) s = execWakeComplete p s := rfl
  rw [hexec, execWakeComplete, h]

theorem State.edgesLive_iff (s : State) :
    ((List.range 8).all (fun i => (s.edge.ends.get {} i).state == .live)) = true ↔ ∀ i, i < 8 → (s.edge.endAt i).state = .live := by
  simp [Edge.endAt]

/-- R401: from Cold a wake is complete only when every edge is LIVE. -/
theorem exec_wakeComplete_waits (p : Fin 4) (s : State) (dst : Nat) (h : s.pw.waking.get none p.val = some dst) (hc : s.pw.cold = true)
    (he : ∃ i, i < 8 ∧ (s.edge.endAt i).state ≠ .live) : exec (.wakeComplete p) s = .next s := by
  have hexec : exec (.wakeComplete p) s = execWakeComplete p s := rfl
  have hdark : ((List.range 8).all (fun i => (s.edge.ends.get {} i).state == .live)) = false := by
    rw [← Bool.not_eq_true, s.edgesLive_iff]
    push Not
    exact he
  rw [hexec, execWakeComplete, h]
  simp only [hc, hdark, Bool.not_false, Bool.and_self, if_true]

theorem exec_wakeComplete_done (p : Fin 4) (s : State) (dst : Nat) (h : s.pw.waking.get none p.val = some dst)
    (he : s.pw.cold = true → ∀ i, i < 8 → (s.edge.endAt i).state = .live) : exec (.wakeComplete p) s =
      .next (if s.pw.cold then ((s.wokeTo p.val dst).idleChange s.regionIdles s.pkgIdle).rejoin.tryClose
        else (s.wokeTo p.val dst).idleChange s.regionIdles s.pkgIdle) := by
  have hexec : exec (.wakeComplete p) s = execWakeComplete p s := rfl
  have hgo : (s.pw.cold && !((List.range 8).all (fun i => (s.edge.ends.get {} i).state == .live))) = false := by
    cases hc : s.pw.cold
    · rfl
    · simpa using s.edgesLive_iff.mpr (he hc)
  rw [hexec, execWakeComplete, h]
  simp only [hgo, Bool.false_eq_true, if_false] <;> rfl

theorem State.rejoin_frame (s : State) : s.rejoin = { s with torus := s.rejoin.torus } := rfl

theorem State.standing_rejoin (s : State) : s.rejoin.standing = s.standing := by
  rw [State.rejoin_frame]
  rfl

theorem State.rejoin_fr (s : State) : s.rejoin.dp.fr = s.dp.fr := by
  rw [State.rejoin_frame]

/-- R39, R401: the rejoining of the torus and the close of the stroke leave what the wake has set. -/
theorem State.standing_wakeComplete (s : State) (p dst : Nat) (h : s.pw.cold = false ∨ s.dp.fr.regen = false) :
    (if s.pw.cold then ((s.wokeTo p dst).idleChange s.regionIdles s.pkgIdle).rejoin.tryClose
      else (s.wokeTo p dst).idleChange s.regionIdles s.pkgIdle).standing = (s.wokeTo p dst).standing := by
  have changed := (s.wokeTo p dst).standing_idleChange s.regionIdles s.pkgIdle
  split
  · next hc =>
    have hregen : ((s.wokeTo p dst).idleChange s.regionIdles s.pkgIdle).rejoin.dp.fr.regen = false := by
      rw [State.rejoin_fr, State.idleChange_fr]
      exact h.resolve_left (by simp [hc])
    rw [State.standing_tryClose _ hregen, State.standing_rejoin, changed]
  · exact changed

theorem State.wokeTo_keeps {s t : State} {p dst : Nat} (h : t.standing = (s.wokeTo p dst).standing) :
    t.idleOf p = dst ∧ t.pw.cold = false ∧ t.pw.waking.get none p = none ∧ t.dp.mem = s.dp.mem ∧ t.scr = s.scr ∧ t.hp = s.hp := by
  obtain ⟨hscr, hhp, hmem, -, -, hidle, hcold, hwaking⟩ := State.standing_iff.mp h
  refine ⟨?_, hcold, ?_, hmem, hscr, hhp⟩
  · rw [State.idleOf, hidle]
    simp only [State.wokeTo, State.onPw_pw, Tab.get_put, if_true]
  · rw [hwaking]
    simp only [State.wokeTo, State.onPw_pw, Tab.get_put, if_true]

/-! ### A management wake -/

/-- R376: edge end `i` trains. -/
def trainEnd (t : Tab EdgeEnd) (i : Nat) : Tab EdgeEnd := t.upd {} i (fun x => { x with state := .training })

/-- R376: the dies' PLLs are up and every edge trains. -/
def Edge.trained (e : Edge) : Edge := { e with present := 0xF, ends := (List.range 8).foldl trainEnd e.ends }

theorem Edge.endAt_trained (e : Edge) (i : Nat) (h : i < 8) : (e.trained.endAt i).state = .training := by
  have trains := Tab.get_foldl_of_mem (d := ({} : EdgeEnd)) (f := trainEnd) (k := i) (P := fun x => x.state = .training) ?_ ?_
    (List.range 8) e.ends (.inl (List.mem_range.mpr h))
  · simpa only [Edge.endAt, Edge.trained] using trains
  · intro t
    rw [trainEnd, Tab.get_upd, if_pos rfl]
  · intro t j ht
    rw [trainEnd, Tab.get_upd]
    split
    · rfl
    · exact ht

/-- R376, R401: a wake other than the first from Cold only asks for the state. -/
theorem State.wake_asks (s : State) (p : Nat) (hi : s.idleOf p ≠ 0)
    (h : s.pw.cold = false ∨ s.pw.waking.all (fun x => x.2.isNone) = false) :
    s.wake p 0 = s.onPw (fun w => { w with waking := w.waking.upd none p (fun x => some (min 0 (x.getD 3))) }) := by
  have hfirst : (s.pw.cold && s.pw.waking.all (fun (x : Nat × Option Nat) => x.2.isNone)) = false := by
    rcases h with h | h <;> simp [h]
  simp only [State.wake, hfirst, Nat.le_zero, hi, if_false, Bool.false_eq_true]

/-- R376, R401: the first wake from Cold also takes the consent back and trains the edges. -/
theorem State.wake_first (s : State) (p : Nat) (hi : s.idleOf p ≠ 0) (hc : s.pw.cold = true)
    (h : s.pw.waking.all (fun x => x.2.isNone) = true) : s.wake p 0 = { s with
      pw := { s.pw with waking := s.pw.waking.upd none p (fun x => some (min 0 (x.getD 3))), coldOk := false }
      edge := s.edge.trained } := by
  have hfirst : (s.pw.cold && s.pw.waking.all (fun (x : Nat × Option Nat) => x.2.isNone)) = true := by
    rw [hc, h, Bool.and_self]
  simp only [State.wake, hfirst, Nat.le_zero, hi, if_false, if_true] <;> rfl

theorem exec_managementWake (p : Fin 4) (s : State) : exec (.managementWake p) s = .next (s.wake p.val 0) := rfl

theorem State.wake_keeps (s : State) (p : Nat) (hi : s.idleOf p ≠ 0) :
    (fun t : State => t.pw.waking.get none p = some 0 ∧ t.dp = s.dp ∧ t.scr = s.scr ∧
      ((s.pw.cold = false ∨ s.pw.waking.all (fun x => x.2.isNone) = false) → t = { s with pw := { s.pw with waking := t.pw.waking } }) ∧
      (s.pw.cold = true → s.pw.waking.all (fun x => x.2.isNone) = true → t.pw.coldOk = false ∧ t.edge.present = 0xF ∧
        ∀ i, i < 8 → (t.edge.endAt i).state = .training)) (s.wake p 0) := by
  have hasked : (s.pw.waking.upd none p (fun x => some (min 0 (x.getD 3)))).get none p = some 0 := by
    rw [Tab.get_upd, if_pos rfl, Nat.zero_min]
  by_cases h : s.pw.cold = true ∧ s.pw.waking.all (fun x => x.2.isNone) = true
  · obtain ⟨hc, ha⟩ := h
    rw [s.wake_first p hi hc ha]
    refine ⟨hasked, rfl, rfl, fun h => ?_, fun _ _ => ⟨rfl, rfl, s.edge.endAt_trained⟩⟩
    simp [hc, ha] at h
  · have hlater : s.pw.cold = false ∨ s.pw.waking.all (fun x => x.2.isNone) = false := by
      rwa [not_and_or, Bool.not_eq_true, Bool.not_eq_true] at h
    rw [s.wake_asks p hi hlater]
    exact ⟨hasked, rfl, rfl, fun _ => rfl, fun hc ha => absurd ⟨hc, ha⟩ h⟩

/-! ### The obligation -/

/-- Settles O50: each entry is a change of idle states (`State.standing_idleChange`), which in Cold touches no port and no edge end
(`State.idleChange_cold`); a complete wake rejoins the torus and closes its stroke without touching what it has set. -/
theorem idleStatesDeepenAndWake : Obligations.IdleStatesDeepenAndWake := by
  unfold Obligations.IdleStatesDeepenAndWake
  refine ⟨fun p s => ⟨fun h => ?_, fun h => ?_, fun h => ⟨_, ?_, s.enterIdle_keeps p.val 1⟩, fun h => ⟨_, ?_, s.enterIdle_keeps p.val 2⟩⟩,
    fun s ok hok => ?_, fun p s => ⟨exec_wakeComplete_none p s, fun dst hdst => ⟨exec_wakeComplete_waits p s dst hdst, fun he => ?_⟩⟩,
    fun p s => ⟨fun hi => ?_, fun hi => ⟨_, exec_managementWake p s, s.wake_keeps p.val hi⟩⟩⟩
  · rw [exec_idleGlowEntry, h, if_neg Bool.false_ne_true]
  · rw [exec_idleBankedEntry, h, if_neg Bool.false_ne_true]
  · rw [exec_idleGlowEntry, if_pos h]
  · rw [exec_idleBankedEntry, if_pos h]
  · rw [← s.mayCold_iff] at hok
    subst hok
    rw [exec_coldEntry]
    exact ⟨fun h => by rw [if_neg h], fun h => ⟨_, by rw [if_pos h], s.goCold_keeps⟩⟩
  · exact ⟨_, exec_wakeComplete_done p s dst hdst he, fun h => State.wokeTo_keeps (s.standing_wakeComplete p.val dst h)⟩
  · rw [exec_managementWake, State.wake, if_pos (Nat.le_of_eq hi)]

end Sys2Proof.Machine
end

section
/-! Reads of the host and of the patrol, and the commit of the decoder (R85, R91, R100–R106, R116). -/

namespace Sys2Proof.Machine

/-- R105: the bytes of a line fill no more than its word. -/
theorem readBytes_lt (c : List Host.Cell) (a n : Nat) : readBytes c a n < 256 ^ n := by
  induction n generalizing a with
  | zero => exact Nat.one_pos
  | succ n ih =>
    have h0 := (Tab.get (0 : BitVec 8) c a).isLt
    have h1 := ih (a + 1)
    rw [readBytes, pow_succ']
    omega

theorem toNat_ofNat_readBytes (c : List Host.Cell) (a n : Nat) : (BitVec.ofNat (8 * n) (readBytes c a n)).toNat = readBytes c a n :=
  Nat.mod_eq_of_lt (lt_of_lt_of_eq (readBytes_lt c a n) (pow_mul 2 8 n).symm)

/-- R105: the word of a line holds its 64 bytes. -/
theorem toNat_readLine (c : List Host.Cell) (a : Nat) : (BitVec.ofNat 512 (readBytes c a 64)).toNat = readBytes c a 64 :=
  toNat_ofNat_readBytes c a 64

/-! ### Errors found -/

theorem rowError_fr (e : Env) (key : Nat) (ue : Bool) (d : Dp) : (rowError e key ue d).fr = d.fr := by
  unfold rowError
  dsimp only
  repeat' split
  all_goals rfl

/-- R102: a correctable error is counted, and heals its line in HBM. -/
def Mem.ceNoted (m : Mem) (key : Nat) (l : Loc) : Mem :=
  { m with ceCnt := satAdd m.ceCnt 1, marks := if l.memCode = 3 then m.marks.put .none (key / 64) .none else m.marks }

theorem correct_mem (e : Env) (unit a key : Nat) (l : Loc) (d : Dp) : (correct e unit a key l d).mem = d.mem.ceNoted key l := by
  unfold correct
  extract_lets m₀ m d'
  have h : d'.mem = d.mem.ceNoted key l := record_mem ..
  split
  · exact (rowError_mem ..).trans h
  · exact h

theorem correct_fr (e : Env) (unit a key : Nat) (l : Loc) (d : Dp) : (correct e unit a key l d).fr = d.fr := by
  unfold correct
  extract_lets m₀ m d'
  have h : d'.fr = d.fr := record_fr ..
  split
  · exact (rowError_fr ..).trans h
  · exact h

theorem Mem.ceNoted_healed (m : Mem) (key : Nat) (l : Loc) (h : l.memCode = 3) : (m.ceNoted key l).marks.get .none (key / 64) = .none := by
  simp only [Mem.ceNoted, h, if_true, Tab.get_put]

/-- R103, R105, R106: an uncorrectable error is flagged and counted, its first address latched. -/
def Mem.ueNoted (m : Mem) (unit a : Nat) : Mem :=
  { m with ue := true, ueCnt := satAdd m.ueCnt 1, ueAddr := if m.ue then m.ueAddr else BitVec.ofNat 64 (a % 2 ^ 48 + unit * 2 ^ 48) }

theorem ueFound_mem (e : Env) (unit path a mc : Nat) (d : Dp) : (ueFound e unit path a mc d).mem = d.mem.ueNoted unit a := by
  unfold ueFound
  extract_lets m₀ m d'
  have h : d'.mem = d.mem.ueNoted unit a := record_mem ..
  repeat' split
  · exact (rowError_mem ..).trans h
  · exact (rowError_mem ..).trans h
  · exact h
  · exact h

/-- R103: finding an error is no fault: nothing is voided. -/
theorem ueFound_fr (e : Env) (unit path a mc : Nat) (d : Dp) : (ueFound e unit path a mc d).fr = d.fr := by
  unfold ueFound
  extract_lets m₀ m d'
  have h : d'.fr = d.fr := record_fr ..
  repeat' split
  · exact (rowError_fr ..).trans h
  · exact (rowError_fr ..).trans h
  · exact h
  · exact h

/-- R85: an unmapped access is flagged and counted. -/
theorem unmapped_mem (e : Env) (unit access a : Nat) (d : Dp) :
    (unmapped e unit access a d).mem = { d.mem with unmapped := true, unmapCnt := satAdd d.mem.unmapCnt 1 } := record_mem ..

theorem unmapped_fr (e : Env) (unit access a : Nat) (d : Dp) : (unmapped e unit access a d).fr = d.fr := record_fr ..

/-- R116: a line that enters the snoop filter changes the filter and the count of back-invalidations only. -/
theorem Mem.snoopAdd_frame (m : Mem) (line : Nat) :
    m.snoopAdd line = { m with snoop := (m.snoopAdd line).snoop, backInv := (m.snoopAdd line).backInv } := by
  unfold Mem.snoopAdd
  repeat' split
  all_goals rfl

theorem Mem.snoopAdd_keeps (m : Mem) (line : Nat) : (m.snoopAdd line).ceCnt = m.ceCnt ∧ (m.snoopAdd line).cells = m.cells := by
  rw [Mem.snoopAdd_frame]
  exact ⟨rfl, rfl⟩

/-! ### HOST_MEM_READ -/

/-- R85, R91: an address outside the window, or one of it that names no memory, answers zeros. -/
theorem exec_hostMemRead_zeros (a : BitVec 48) (s : State) (h : s.hostWindow a.toNat = none) :
    exec (.hostMemRead a) s = .next { s.hostMiss 0 a.toNat with out := { s.out with line := 0, poison := false } } := by
  have hexec : exec (.hostMemRead a) s = execHostMemRead a s := rfl
  rw [hexec, execHostMemRead, h]

theorem State.hostWindow_outside (s : State) (a : Nat) (h : s.inHostWindow a = false) : s.hostWindow a = none := by
  rw [State.hostWindow, h, if_neg Bool.false_ne_true]

/-- R379: a read whose route enters a die without a clock waits. -/
theorem exec_hostMemRead_held (a : BitVec 48) (s : State) (l : Loc) (h : s.hostWindow a.toNat = some l)
    (hh : s.hostHeld (a.toNat / 64 * 64) 1 = true) : exec (.hostMemRead a) s = .next s := by
  have hexec : exec (.hostMemRead a) s = execHostMemRead a s := rfl
  simp only [hexec, execHostMemRead, h, hh, if_true]

/-- R372: the line of a host read crosses the edges on its way to d0. -/
def State.hostCross (s : State) (a : Nat) (l : Loc) : State := s.onDp (fun _ d => d.crossFrom 0 (a / 64 * 64) l)

/-- R100–R105, R116: what a mapped read answers and leaves, by the state of its line. -/
def State.hostAnswer (s : State) (a : Nat) (l : Loc) : Ecc → State
  | .none => { (s.hostCross a l).onMem (fun m => m.snoopAdd (a / 64 * 64 / 64)) with
      out := { s.out with line := BitVec.ofNat 512 (readBytes s.dp.mem.cells (s.dp.mem.key l) 64), poison := false } }
  | .ce => { ((s.hostCross a l).onDp (fun e d => correct e hostUid (a / 64 * 64) (s.dp.mem.key l) l d)).onMem
        (fun m => m.snoopAdd (a / 64 * 64 / 64)) with
      out := { s.out with line := BitVec.ofNat 512 (readBytes s.dp.mem.cells (s.dp.mem.key l) 64), poison := false } }
  | .ue => { (s.hostCross a l).onDp (fun e d => ueFound e hostUid 2 (a / 64 * 64) l.memCode d) with
      out := { s.out with line := 0, poison := true } }

section
variable {a : BitVec 48} {s : State} {l : Loc}

theorem exec_hostMemRead_mapped {m : Ecc} (h : s.hostWindow a.toNat = some l) (hh : s.hostHeld (a.toNat / 64 * 64) 1 = false)
    (hm : s.dp.mem.marks.get .none (s.dp.mem.key l / 64) = m) : exec (.hostMemRead a) s = .next (s.hostAnswer a.toNat l m) := by
  have hexec : exec (.hostMemRead a) s = execHostMemRead a s := rfl
  cases m <;> simp only [hexec, execHostMemRead, h, hh, Bool.false_eq_true, if_false, State.onDp_dp, Dp.crossFrom_mem, hm] <;> rfl

/-- R100, R372: a read of a good line changes the edges' line counts and the snoop filter only. -/
theorem hostMemRead_good (h : s.hostWindow a.toNat = some l) (hh : s.hostHeld (a.toNat / 64 * 64) 1 = false)
    (hm : s.dp.mem.marks.get .none (s.dp.mem.key l / 64) = .none) : ∃ t, exec (.hostMemRead a) s = .next t ∧
      t.out.line.toNat = readBytes s.dp.mem.cells (s.dp.mem.key l) 64 ∧ t.out.poison = false ∧
      t = { s with
        out := t.out
        dp := { s.dp with
          edgeTx := t.dp.edgeTx, edgeRx := t.dp.edgeRx, mem := { s.dp.mem with snoop := t.dp.mem.snoop, backInv := t.dp.mem.backInv } } } := by
  refine ⟨_, exec_hostMemRead_mapped h hh hm, toNat_readLine .., rfl, ?_⟩
  rw [State.hostAnswer, State.onMem, Mem.snoopAdd_frame]
  rfl

/-- R102: a read of a line with a correctable error counts it, and answers the line. -/
theorem hostMemRead_ce (h : s.hostWindow a.toNat = some l) (hh : s.hostHeld (a.toNat / 64 * 64) 1 = false)
    (hm : s.dp.mem.marks.get .none (s.dp.mem.key l / 64) = .ce) : ∃ t, exec (.hostMemRead a) s = .next t ∧
      t.out.line.toNat = readBytes s.dp.mem.cells (s.dp.mem.key l) 64 ∧ t.out.poison = false ∧
      t.dp.mem.ceCnt = satAdd s.dp.mem.ceCnt 1 ∧ t.dp.mem.cells = s.dp.mem.cells ∧ t.dp.fr = s.dp.fr := by
  have hmem := correct_mem s.env hostUid (a.toNat / 64 * 64) (s.dp.mem.key l) l (s.hostCross a.toNat l).dp
  obtain ⟨hcount, hcells⟩ := Mem.snoopAdd_keeps (correct s.env hostUid (a.toNat / 64 * 64) (s.dp.mem.key l) l (s.hostCross a.toNat l).dp).mem
    (a.toNat / 64 * 64 / 64)
  exact ⟨_, exec_hostMemRead_mapped h hh hm, toNat_readLine .., rfl, hcount.trans (hmem ▸ rfl), hcells.trans (hmem ▸ rfl), correct_fr ..⟩

/-- R103, R105: a read of a line with an uncorrectable error answers poison, counts it, and voids nothing. -/
theorem hostMemRead_ue (h : s.hostWindow a.toNat = some l) (hh : s.hostHeld (a.toNat / 64 * 64) 1 = false)
    (hm : s.dp.mem.marks.get .none (s.dp.mem.key l / 64) = .ue) : ∃ t, exec (.hostMemRead a) s = .next t ∧
      t.out.line = 0 ∧ t.out.poison = true ∧ t.dp.mem.ue = true ∧ t.dp.mem.ueCnt = satAdd s.dp.mem.ueCnt 1 ∧
      t.dp.mem.cells = s.dp.mem.cells ∧ t.dp.fr = s.dp.fr := by
  have hmem := ueFound_mem s.env hostUid 2 (a.toNat / 64 * 64) l.memCode (s.hostCross a.toNat l).dp
  exact ⟨_, exec_hostMemRead_mapped h hh hm, rfl, rfl, hmem ▸ rfl, hmem ▸ rfl, hmem ▸ rfl, ueFound_fr ..⟩

end

/-- R85: a read of an unmapped address within the window is counted. -/
theorem hostMemRead_inside (a : BitVec 48) (s : State) (h : s.inHostWindow a.toNat = true) (hn : s.hostWindow a.toNat = none) :
    ∃ t, exec (.hostMemRead a) s = .next t ∧ t.out.line = 0 ∧ t.out.poison = false ∧ t.dp.mem.unmapped = true ∧
      t.dp.mem.unmapCnt = satAdd s.dp.mem.unmapCnt 1 ∧ t.dp.mem.cells = s.dp.mem.cells ∧ t.dp.fr = s.dp.fr := by
  have hmiss : s.hostMiss 0 a.toNat = { s with dp := unmapped s.env hostUid 0 (a.toNat / 64 * 64) s.dp } := if_pos h
  have hmem := unmapped_mem s.env hostUid 0 (a.toNat / 64 * 64) s.dp
  refine ⟨_, exec_hostMemRead_zeros a s hn, rfl, rfl, ?_⟩
  rw [hmiss]
  exact ⟨hmem ▸ rfl, hmem ▸ rfl, hmem ▸ rfl, unmapped_fr ..⟩

/-! ### HDM_COMMIT -/

/-- R91, R116: the commits that are refused. -/
theorem hdmRefused_iff (skip size : BitVec 64) (s : State) :
    (skip.toNat % 2 ^ 30 != 0 || size.toNat % 2 ^ 30 != 0 || decide (768 * 2 ^ 30 < skip.toNat + size.toNat) || s.launched) = true ↔
      (skip.toNat % 2 ^ 30 ≠ 0 ∨ size.toNat % 2 ^ 30 ≠ 0 ∨ 768 * 2 ^ 30 < skip.toNat + size.toNat ∨ s.launched = true) := by
  simp [or_assoc]

theorem exec_hdmCommit (skip size : BitVec 64) (s : State) : exec (.hdmCommit skip size) s =
    .next (if skip.toNat % 2 ^ 30 != 0 || size.toNat % 2 ^ 30 != 0 || decide (768 * 2 ^ 30 < skip.toNat + size.toNat) || s.launched then
      { s with hp := { s.hp with hdmErr := true } }
    else ({ s with hp := { s.hp with hdmErr := false } }).onMem (fun m =>
      { m with hdmBase := BitVec.ofNat 16 (skip.toNat / 2 ^ 30), hdmSize := BitVec.ofNat 16 (size.toNat / 2 ^ 30) })) := rfl

/-! ### PATROL_READ -/

/-- R101: in Cold, and on a die without a clock, patrol scrub stands still. -/
theorem exec_patrolRead_paused (j : Fin 12) (o : BitVec 36) (f : Found) (s : State)
    (h : s.pw.cold = true ∨ s.edge.lost.getLsbD (j.val / 3) = true) : exec (.patrolRead j o f) s = .next s :=
  congrArg Host.Outcome.next (if_pos (by simpa using h))

theorem exec_patrolRead_good (j : Fin 12) (o : BitVec 36) (s : State) : exec (.patrolRead j o .good) s = .next s :=
  congrArg Host.Outcome.next (ite_self s)

section
variable (j : Fin 12) (o : BitVec 36) {s : State} (hc : s.pw.cold = false) (hl : s.edge.lost.getLsbD (j.val / 3) = false)
include hc hl

/-- R102, R106: a correctable error that the patrol finds heals its line. -/
theorem patrolRead_correctable : ∃ t, exec (.patrolRead j o .correctable) s = .next t ∧ t.dp.mem.ceCnt = satAdd s.dp.mem.ceCnt 1 ∧
    t.dp.mem.marks.get .none (hbmKey j.val (o.toNat / 64 * 64) / 64) = .none ∧ t.dp.mem.cells = s.dp.mem.cells ∧ t.dp.fr = s.dp.fr ∧
    s.onlyDp t := by
  have hmem := correct_mem s.env (duid (j.val / 3) 2 (j.val % 3)) (o.toNat / 64 * 64) (hbmKey j.val (o.toNat / 64 * 64)) (.iview j.val 0) s.dp
  have healed := s.dp.mem.ceNoted_healed (hbmKey j.val (o.toNat / 64 * 64)) (.iview j.val 0) rfl
  exact ⟨{ s with dp := _ }, congrArg Host.Outcome.next (if_neg (by simp [hc, hl])), hmem ▸ rfl,
    (congrArg (fun m : Mem => m.marks.get .none (hbmKey j.val (o.toNat / 64 * 64) / 64)) hmem).trans healed, hmem ▸ rfl, correct_fr .., rfl⟩

/-- R103, R106: an uncorrectable error that the patrol finds marks its line and voids nothing. -/
theorem patrolRead_uncorrectable : ∃ t, exec (.patrolRead j o .uncorrectable) s = .next t ∧
    t.dp.mem.ueCnt = satAdd s.dp.mem.ueCnt 1 ∧ t.dp.mem.ue = true ∧
    t.dp.mem.marks.get .none (hbmKey j.val (o.toNat / 64 * 64) / 64) = .ue ∧ t.dp.mem.cells = s.dp.mem.cells ∧ t.dp.fr = s.dp.fr ∧
    s.onlyDp t := by
  have hmem := ueFound_mem s.env (duid (j.val / 3) 2 (j.val % 3)) 1 (o.toNat / 64 * 64) 3
    { s.dp with mem := { s.dp.mem with marks := s.dp.mem.marks.put .none (hbmKey j.val (o.toNat / 64 * 64) / 64) .ue } }
  have marked : (s.dp.mem.marks.put .none (hbmKey j.val (o.toNat / 64 * 64) / 64) .ue).get .none
      (hbmKey j.val (o.toNat / 64 * 64) / 64) = Ecc.ue := by
    rw [Tab.get_put, if_pos rfl]
  exact ⟨{ s with dp := _ }, congrArg Host.Outcome.next (if_neg (by simp [hc, hl])), hmem ▸ rfl, hmem ▸ rfl,
    (congrArg (fun m : Mem => m.marks.get .none (hbmKey j.val (o.toNat / 64 * 64) / 64)) hmem).trans marked, hmem ▸ rfl,
    ueFound_fr .., rfl⟩

end

/-! ### The obligation -/

/-- Settles O18: a read by what its address names and its line holds, a commit by the four grounds to refuse it, a patrol read by what it
finds. `correct_fr` and `ueFound_fr` say that no error found voids anything. -/
theorem hostAndPatrolReadsAndTheDecoder : Obligations.HostAndPatrolReadsAndTheDecoder := by
  unfold Obligations.HostAndPatrolReadsAndTheDecoder
  refine ⟨fun a s => ⟨fun h => ?_, hostMemRead_inside a s, exec_hostMemRead_held a s, fun l hw hh => ⟨fun hm => ?_, fun hm => ?_, fun hm => ?_⟩⟩,
    fun skip size s => ⟨fun hskip hsize hsum hl => ?_, fun h => ?_⟩, fun j o s => ⟨exec_patrolRead_good j o s,
      fun h f => exec_patrolRead_paused j o f s h, fun hc hl => ⟨patrolRead_correctable j o hc hl, patrolRead_uncorrectable j o hc hl⟩⟩⟩
  · rw [exec_hostMemRead_zeros a s (s.hostWindow_outside _ h), State.hostMiss, h, if_neg Bool.false_ne_true]
  · exact hostMemRead_good hw hh hm
  · exact hostMemRead_ce hw hh hm
  · exact hostMemRead_ue hw hh hm
  · rw [exec_hdmCommit, if_neg (mt (hdmRefused_iff skip size s).mp ?_)]
    rintro (h | h | h | h)
    · exact h hskip
    · exact h hsize
    · exact absurd hsum (Nat.not_le_of_lt h)
    · exact Bool.false_ne_true (hl.symm.trans h)
  · rw [exec_hdmCommit, if_pos ((hdmRefused_iff skip size s).mpr h)]

end Sys2Proof.Machine
end

section
/-! Queues of the host port (R115, R119–R122, R138): a descriptor that completes, and a doorbell line that is read. -/

namespace Sys2Proof.Machine

/-! ### A descriptor that completes -/

@[simp] theorem State.getQ_finish (s : State) (q k seq st det : Nat) (v : BitVec 64) (f : Bool) :
    (s.finish q seq st det v f).getQ k = if k = q then (s.getQ q).finish seq st det v f else s.getQ k := s.getQ_setQ ..

/-- A completion changes one queue, and nothing else. -/
theorem State.finish_frame (s : State) (q seq st det : Nat) (v : BitVec 64) (f : Bool) :
    s.finish q seq st det v f = { s with hp := { s.hp with queues := (s.finish q seq st det v f).hp.queues } } := rfl

@[simp] theorem State.finish_dp (s : State) (q seq st det : Nat) (v : BitVec 64) (f : Bool) : (s.finish q seq st det v f).dp = s.dp := rfl
@[simp] theorem State.finish_scr (s : State) (q seq st det : Nat) (v : BitVec 64) (f : Bool) : (s.finish q seq st det v f).scr = s.scr := rfl

/-- R138: a completion takes descriptors of its number off the queue, and touches no other. -/
theorem Queue.finish_fetched (x : Queue) (seq st det : Nat) (v : BitVec 64) (f : Bool) :
    (x.finish seq st det v f).fetched = x.fetched.filter (fun z => z.seq != seq) := by
  unfold Queue.finish
  split
  · next h =>
    refine (List.filter_eq_self.mpr fun z hz => ?_).symm
    simpa using List.find?_eq_none.mp h z hz
  · rfl

theorem Queue.finish_ctlOff (x : Queue) (seq st det : Nat) (v : BitVec 64) (f : Bool) : (x.finish seq st det v f).ctlOff = x.ctlOff := by
  unfold Queue.finish
  split <;> rfl

/-- An update of a queue is what it makes of that queue. -/
theorem State.setQ_congr (s : State) (q : Nat) {f g : Queue → Queue} (h : f (s.getQ q) = g (s.getQ q)) : s.setQ q f = s.setQ q g := by
  have hq : f (s.hp.queues.get {} q) = g (s.hp.queues.get {} q) := h
  simp only [State.setQ, Tab.upd, hq]

/-! ### A doorbell line that is read -/

/-- R119, R120: tail and head of a doorbell line. -/
def dbTail (l : BitVec 512) : BitVec 32 := l.extractLsb' 0 32
def dbHead (l : BitVec 512) : BitVec 32 := l.extractLsb' 32 32

/-- R120: the tail lies beyond the ring or behind the old one. -/
def Queue.overruns (x : Queue) (l : BitVec 512) : Bool :=
  decide ((dbTail l - BitVec.ofNat 32 x.fetch).toNat > 2 ^ x.log2.toNat) || decide ((dbTail l - x.tail).toNat ≥ 2 ^ 31)

/-- R119–R121: an enabled queue once its doorbell line has been read. -/
def Queue.rung (x : Queue) : Option (BitVec 512) → Queue
  | none => { x with fetchErr := true, stopped := true }
  | some l => if x.overruns l then { x with overrun := true, stopped := true, cqHead := dbHead l }
      else { x with tail := dbTail l, cqHead := dbHead l }

/-- R119, R121: reading the line stops the queue. -/
def Queue.stops (x : Queue) : Option (BitVec 512) → Bool
  | none => true
  | some l => x.overruns l

/-- R115: the doorbell line of queue `q`, none where it reads as poison. -/
def State.doorbellLine (s : State) (q : Nat) : Option (BitVec 512) := s.dp.mem.hostLine (s.hp.dbBase.toNat + 64 * q)

/-- R115: the doorbell line of queue `q` has an effect when it is read. -/
def State.listens (s : State) (q : Nat) : Bool := (s.getQ q).en && s.hp.linkUp

theorem State.readDoorbell_eq (s : State) (q : Nat) : s.readDoorbell q =
    if s.listens q then
      if (s.getQ q).stops (s.doorbellLine q) then (s.setQ q (fun x => x.rung (s.doorbellLine q))).queueError
      else s.setQ q (fun x => x.rung (s.doorbellLine q))
    else s := by
  have hoff : (!(s.getQ q).en || !s.hp.linkUp) = !(s.listens q) := by rw [State.listens, Bool.not_and]
  unfold State.readDoorbell
  extract_lets x
  rw [hoff]
  cases s.listens q
  · rfl
  · change (match s.doorbellLine q with | none => _ | some l => _) = _
    cases hline : s.doorbellLine q with
    | none => rfl
    | some l =>
      change (if x.overruns l then _ else _) = if x.overruns l then _ else _
      split
      · next h => exact congrArg State.queueError (s.setQ_congr q (if_pos h).symm)
      · next h => exact s.setQ_congr q (if_neg h).symm

/-- R115, R119–R121: reading a doorbell line changes queues, HP_ERR.QERR and interrupts only. -/
theorem State.readDoorbell_frame (s : State) (q : Nat) : s.readDoorbell q = { s with
    hp := { s.hp with queues := (s.readDoorbell q).hp.queues, errQ := (s.readDoorbell q).hp.errQ }
    dp := { s.dp with irq := (s.readDoorbell q).dp.irq } } := by
  rw [s.readDoorbell_eq]
  repeat' split
  all_goals rfl

theorem State.getQ_readDoorbell (s : State) (q k : Nat) : (s.readDoorbell q).getQ k =
    if k = q ∧ s.listens q = true then (s.getQ q).rung (s.doorbellLine q) else s.getQ k := by
  rw [s.readDoorbell_eq]
  cases s.listens q
  · simp
  · have rung := s.getQ_setQ q k (fun x => x.rung (s.doorbellLine q))
    simp only [and_true, if_true]
    split
    · exact rung
    · exact rung

/-- R121, R143: a doorbell line that stops its queue sets HP_ERR.QERR. -/
theorem State.readDoorbell_errQ (s : State) (q : Nat) (h : s.listens q = true) (hs : (s.getQ q).stops (s.doorbellLine q) = true) :
    (s.readDoorbell q).hp.errQ = true := by
  rw [s.readDoorbell_eq, if_pos h, if_pos hs]
  rfl

/-! ### The backstop -/

/-- What decides how a doorbell read ends, besides its queue: the line and the link. -/
theorem State.readDoorbell_line (s : State) (j q : Nat) :
    (s.readDoorbell j).doorbellLine q = s.doorbellLine q ∧ (s.readDoorbell j).hp.linkUp = s.hp.linkUp := by
  rw [s.readDoorbell_frame]
  exact ⟨rfl, rfl⟩

/-- R115: the backstop reads each line once, as it stands. -/
theorem State.getQ_readDoorbells (l : List Nat) (hl : l.Nodup) (s : State) (q : Nat) : (l.foldl State.readDoorbell s).getQ q =
    if q ∈ l ∧ s.listens q = true then (s.getQ q).rung (s.doorbellLine q) else s.getQ q := by
  induction l generalizing s with
  | nil => simp
  | cons j r ih =>
    obtain ⟨hj, hr⟩ := List.nodup_cons.mp hl
    obtain ⟨hline, hlink⟩ := s.readDoorbell_line j q
    rw [List.foldl_cons, ih hr, State.listens, hline, hlink, s.getQ_readDoorbell]
    by_cases hq : q = j
    · subst hq
      simp [hj]
    · simp [hq, State.listens]

theorem State.readDoorbells_frame (l : List Nat) (s : State) : l.foldl State.readDoorbell s = { s with
    hp := { s.hp with queues := (l.foldl State.readDoorbell s).hp.queues, errQ := (l.foldl State.readDoorbell s).hp.errQ }
    dp := { s.dp with irq := (l.foldl State.readDoorbell s).dp.irq } } := by
  induction l generalizing s with
  | nil => rfl
  | cons j r ih =>
    rw [List.foldl_cons, ih, s.readDoorbell_frame]

/-! ### What the line does to its queue -/

theorem Queue.rung_cqHead (x : Queue) (l : BitVec 512) : (x.rung (some l)).cqHead = dbHead l := by
  rw [Queue.rung]
  split <;> rfl

theorem Queue.rung_moves (x : Queue) (l : BitVec 512) (hring : (dbTail l - BitVec.ofNat 32 x.fetch).toNat ≤ 2 ^ x.log2.toNat)
    (hback : (dbTail l - x.tail).toNat < 2 ^ 31) : (x.rung (some l)).tail = dbTail l ∧ (x.rung (some l)).overrun = x.overrun := by
  have hin : x.overruns l = false := by
    rw [Queue.overruns, decide_eq_false (Nat.not_lt.mpr hring), decide_eq_false (Nat.not_le.mpr hback), Bool.or_self]
  rw [Queue.rung, hin, if_neg Bool.false_ne_true]
  exact ⟨rfl, rfl⟩

theorem Queue.overruns_iff (x : Queue) (l : BitVec 512) : x.overruns l = true ↔
    (dbTail l - BitVec.ofNat 32 x.fetch).toNat > 2 ^ x.log2.toNat ∨ (dbTail l - x.tail).toNat ≥ 2 ^ 31 := by
  rw [Queue.overruns, Bool.or_eq_true, decide_eq_true_eq, decide_eq_true_eq]

theorem Queue.rung_overruns (x : Queue) (l : BitVec 512) (h : x.overruns l = true) :
    (x.rung (some l)).overrun = true ∧ (x.rung (some l)).stopped = true := by
  rw [Queue.rung, if_pos h]
  exact ⟨rfl, rfl⟩

/-! ### The obligation -/

/-- R401: a wake changes the power block and the edges only. -/
theorem State.wake_frame (s : State) (p dst : Nat) : s.wake p dst = { s with pw := (s.wake p dst).pw, edge := (s.wake p dst).edge } := by
  unfold State.wake
  split
  · rfl
  · extract_lets first t
    split <;> rfl

theorem State.wakeOfQueue_frame (s : State) (q : Nat) :
    s.wakeOfQueue q = { s with pw := (s.wakeOfQueue q).pw, edge := (s.wakeOfQueue q).edge } := by
  unfold State.wakeOfQueue
  split
  · exact s.wake_frame _ 0
  · rfl

theorem State.wakeOfQueue_wakes (s : State) (q p : Nat) (hp : s.partOfQ q = some p) (hi : 0 < s.idleOf p) :
    ((s.wakeOfQueue q).pw.waking.get none p).isSome = true := by
  have hwake : s.wakeOfQueue q = s.wake p 0 := by
    rw [State.partOfQ] at hp
    rw [State.wakeOfQueue, hp]
  obtain ⟨hasked, -⟩ := s.wake_keeps p (Nat.ne_of_gt hi)
  rw [hwake, hasked]
  rfl

/-- The package once a doorbell line of queue `q` has been stored and read. -/
def State.snooped (s : State) (q : Nat) (st : List HostStore) : State := (s.onMem (fun m => m.hostPuts st)).readDoorbell q

theorem exec_doorbellSnoop (q : Fin 81) (st : List HostStore) (s : State) :
    exec (.doorbellSnoop q st) s = .next ((s.snooped q.val st).wakeOfQueue q.val) := rfl

theorem exec_doorbellPoll (st : List HostStore) (s : State) :
    exec (.doorbellPoll st) s = .next ((List.range 81).foldl State.readDoorbell (s.onMem (fun m => m.hostPuts st))) := rfl

/-- R119–R121: a snooped queue, and every other. -/
theorem State.getQ_snooped (s : State) (q k : Nat) (st : List HostStore) : (s.snooped q st).getQ k =
    if k = q ∧ s.listens q = true then (s.getQ q).rung ((s.dp.mem.hostPuts st).hostLine (s.hp.dbBase.toNat + 64 * q)) else s.getQ k :=
  State.getQ_readDoorbell (s.onMem (fun m => m.hostPuts st)) q k

theorem State.snooped_errQ (s : State) (q : Nat) (st : List HostStore) (h : s.listens q = true)
    (hs : (s.getQ q).stops ((s.dp.mem.hostPuts st).hostLine (s.hp.dbBase.toNat + 64 * q)) = true) : (s.snooped q st).hp.errQ = true :=
  State.readDoorbell_errQ (s.onMem (fun m => m.hostPuts st)) q h hs

theorem State.snooped_frame (s : State) (q : Nat) (st : List HostStore) : s.snooped q st = { s with
    hp := { s.hp with queues := (s.snooped q st).hp.queues, errQ := (s.snooped q st).hp.errQ }
    dp := { s.dp with mem := s.dp.mem.hostPuts st, irq := (s.snooped q st).dp.irq } } :=
  State.readDoorbell_frame (s.onMem (fun m => m.hostPuts st)) q

/-- R115, R401: what a snooped doorbell leaves. -/
theorem State.snooped_keeps (s : State) (q : Nat) (st : List HostStore) :
    (fun t : State => t.dp.mem = s.dp.mem.hostPuts st ∧ t.scr = s.scr ∧ t.dp.units = s.dp.units ∧ t.torus = s.torus ∧ t.clk = s.clk)
      ((s.snooped q st).wakeOfQueue q) := by
  rw [State.wakeOfQueue_frame, State.snooped_frame]
  exact ⟨rfl, rfl, rfl, rfl, rfl⟩

theorem State.snooped_hp (s : State) (q : Nat) (st : List HostStore) : ((s.snooped q st).wakeOfQueue q).hp = (s.snooped q st).hp := by
  rw [State.wakeOfQueue_frame]

theorem State.snooped_wakes (s : State) (q p : Nat) (st : List HostStore) (hp : s.partOfQ q = some p) (hi : 0 < s.idleOf p) :
    (((s.snooped q st).wakeOfQueue q).pw.waking.get none p).isSome = true := by
  refine State.wakeOfQueue_wakes _ q p ?_ ?_
  · rw [State.snooped_frame]
    exact hp
  · rw [State.snooped_frame]
    exact hi

/-- R115: what the backstop leaves. -/
theorem State.polled_keeps (s : State) (st : List HostStore) (l : List Nat) :
    (fun t : State => t.dp.mem = s.dp.mem.hostPuts st ∧ t.scr = s.scr ∧ t.dp.units = s.dp.units ∧ t.torus = s.torus ∧ t.clk = s.clk ∧
      t.pw = s.pw) (l.foldl State.readDoorbell (s.onMem (fun m => m.hostPuts st))) := by
  rw [State.readDoorbells_frame]
  exact ⟨rfl, rfl, rfl, rfl, rfl, rfl⟩

theorem State.getQ_polled (s : State) (st : List HostStore) (q : Nat) (hq : q < 81) :
    ((List.range 81).foldl State.readDoorbell (s.onMem (fun m => m.hostPuts st))).getQ q = if s.listens q = true then
      (s.getQ q).rung ((s.dp.mem.hostPuts st).hostLine (s.hp.dbBase.toNat + 64 * q)) else s.getQ q := by
  have h := (s.onMem (fun m => m.hostPuts st)).getQ_readDoorbells (List.range 81) List.nodup_range q
  simp only [List.mem_range, hq, true_and] at h
  exact h

theorem State.listens_off {s : State} {q : Nat} (h : (s.getQ q).en = false ∨ s.hp.linkUp = false) : s.listens q = false :=
  Bool.and_eq_false_iff.mpr h

theorem State.listens_on {s : State} {q : Nat} (he : (s.getQ q).en = true) (hl : s.hp.linkUp = true) : s.listens q = true := by
  rw [State.listens, he, hl, Bool.and_self]

/-- Settles O22: a snoop and the poll both read lines as `Queue.rung` says (`State.getQ_snooped`, `State.getQ_polled`); the wake after a snoop
touches no queue. -/
theorem doorbellsMoveTailAndHead : Obligations.DoorbellsMoveTailAndHead := by
  unfold Obligations.DoorbellsMoveTailAndHead
  refine ⟨fun q st s => ?_, fun st s => ?_⟩
  · obtain ⟨hmem, hscr, hunits, htorus, hclk⟩ := s.snooped_keeps q.val st
    have hget : ∀ k, ((s.snooped q.val st).wakeOfQueue q.val).getQ k = (s.snooped q.val st).getQ k := fun k => by
      rw [State.getQ, State.snooped_hp, State.getQ]
    refine ⟨_, exec_doorbellSnoop q st s, hmem, hscr, hunits, htorus, hclk, fun k hk => ?_, fun h => ?_, fun he hl hline => ?_,
      fun l he hl hline => ⟨?_, fun ⟨hring, hback⟩ => ?_, fun hover => ?_⟩, fun p => s.snooped_wakes q.val p st⟩
    · rw [hget, State.getQ_snooped, if_neg (fun h => hk h.1)]
    · rw [hget, State.getQ_snooped, State.listens_off h, if_neg (by simp)]
    · have hon := State.listens_on he hl
      rw [hget, State.snooped_hp, State.getQ_snooped, if_pos ⟨rfl, hon⟩, s.snooped_errQ q.val st hon (by rw [hline]; rfl), hline]
      exact ⟨rfl, rfl, rfl⟩
    · rw [hget, State.getQ_snooped, if_pos ⟨rfl, State.listens_on he hl⟩, hline, Queue.rung_cqHead]
      rfl
    · rw [hget, State.getQ_snooped, if_pos ⟨rfl, State.listens_on he hl⟩, hline]
      exact Queue.rung_moves _ l hring hback
    · have hon := State.listens_on he hl
      have hstops := ((s.getQ q.val).overruns_iff l).mpr hover
      rw [hget, State.snooped_hp, State.getQ_snooped, if_pos ⟨rfl, hon⟩, s.snooped_errQ q.val st hon (by rw [hline]; exact hstops), hline]
      obtain ⟨hoverrun, hstopped⟩ := Queue.rung_overruns _ l hstops
      exact ⟨hoverrun, hstopped, rfl⟩
  · obtain ⟨hmem, hscr, hunits, htorus, hclk, hpw⟩ := s.polled_keeps st (List.range 81)
    refine ⟨_, exec_doorbellPoll st s, hmem, hscr, hunits, htorus, hclk, hpw, fun q hq h => ?_, fun q hq he hl hline => ?_,
      fun q l hq he hl hline hring hback => ?_⟩
    · rw [State.getQ_polled s st q hq, State.listens_off h, if_neg Bool.false_ne_true]
    · rw [State.getQ_polled s st q hq, if_pos (State.listens_on he hl), hline]
      exact ⟨rfl, rfl⟩
    · rw [State.getQ_polled s st q hq, if_pos (State.listens_on he hl), hline]
      exact (Queue.rung_moves _ l hring hback).1

end Sys2Proof.Machine
end

section
/-! Descriptors of every queue, and WAKE_LAT (R124–R128, R137). -/

namespace Sys2Proof.Machine

/-! ### A field that offends -/

/-- R122–R124: a descriptor that starts has its effect, whatever its fields. -/
theorem State.onStart_starts (s : State) (q seq t : Nat) (d : BitVec 512) (f : BitVec 512 → State → State) (hs : s.starts q seq t d) :
    s.onStart q seq t f = f d s := by
  obtain ⟨⟨y, hfind, rfl, hmay⟩, rfl, hlit, hstatus, howner⟩ := hs
  have hfree : ((s.ownerOf q).isSome && dType y.d != 0x20 && dType y.d != 0x21) = false := by
    rcases howner with h | h | h <;> simp [h]
  simp only [State.onStart, hfind, hmay, hlit, hstatus, hfree, bne_self_eq_false, Bool.true_or, Bool.not_true, Option.isSome_none,
    Bool.or_self, Bool.false_eq_true, if_false]

/-- R125: with the header in order, the first field of the body that offends. -/
theorem badField_body (d : BitVec 512) (body : List (Nat × Bool)) (hh : headerOk d = true) :
    badField d body = (body.find? (fun x => x.2)).map (fun x => x.1) := by
  simp only [headerOk, Bool.and_eq_true, Bool.not_eq_true'] at hh
  simp [badField, hh]

/-- R122–R125: a descriptor that starts with an offending field in its body completes BAD_FIELD. -/
theorem State.onDesc_refused (s : State) (q seq t b : Nat) (d : BitVec 512) (body : BitVec 512 → List (Nat × Bool))
    (f : BitVec 512 → State → State) (hs : s.starts q seq t d) (hh : headerOk d = true)
    (hb : ((body d).find? (fun x => x.2)).map (fun x => x.1) = some b) : s.onDesc q seq t body f = s.finish q seq stBadField b 0 := by
  rw [State.onDesc, s.onStart_starts q seq t d _ hs, badField_body d _ hh, hb]

@[simp] theorem anyBits_eq_false {n : Nat} (w : BitVec n) (lo len : Nat) : anyBits w lo len = false ↔ bits w lo len = 0 := by
  simp [anyBits]

@[simp] theorem anyBits_eq_true {n : Nat} (w : BitVec n) (lo len : Nat) : anyBits w lo len = true ↔ bits w lo len ≠ 0 := by
  simp [anyBits]

theorem bits_lt {n : Nat} (w : BitVec n) (lo len : Nat) : bits w lo len < 2 ^ len := Nat.mod_lt _ (Nat.two_pow_pos len)

/-! ### NOP, FENCE, SIGNAL -/

section
variable {q : Fin 81} {seq : Nat} {d : BitVec 512} {s : State}

theorem exec_nopDescriptor (hs : s.starts q.val seq 0x00 d) (hh : headerOk d = true) : exec (.nopDescriptor q seq) s =
    .next (if bits d 64 448 = 0 then s.finish q.val seq stOk 0 0 else s.finish q.val seq stBadField 64 0) := by
  have hexec : exec (.nopDescriptor q seq) s = execNopDescriptor q seq s := rfl
  rw [hexec, execNopDescriptor]
  split
  · next h => rw [s.onDesc_starts q.val seq 0x00 d _ _ hs hh (by simp [h])]
  · next h => rw [s.onDesc_refused q.val seq 0x00 64 d _ _ hs hh (by simp [h])]

theorem exec_fenceDescriptor (hs : s.starts q.val seq 0x01 d) (hh : headerOk d = true) (hq : bits d 64 7 ≤ 80 ∨ bits d 64 7 = 127)
    (hself : bits d 64 7 ≠ q.val) (h71 : bits d 71 57 = 0) (h192 : bits d 192 320 = 0) : exec (.fenceDescriptor q seq) s =
      .next (if bits d 64 7 = 127 ∨ bits d 128 64 ≤ (s.getQ (bits d 64 7)).doneCnt then s.finish q.val seq stOk 0 0 else s) := by
  have hexec : exec (.fenceDescriptor q seq) s = execFenceDescriptor q seq s := rfl
  have hnamed : ¬ (81 ≤ bits d 64 7 ∧ bits d 64 7 ≤ 126) := by omega
  rw [hexec, execFenceDescriptor, s.onDesc_starts q.val seq 0x01 d _ _ hs hh (by simpa [hself, h71, h192] using hnamed)]
  simp only [Bool.or_eq_true, decide_eq_true_eq]

theorem exec_signal (hs : s.starts q.val seq 0x03 d) (hh : headerOk d = true) (h64 : bits d 64 3 = 0) (h192 : bits d 192 320 = 0) :
    exec (.signal q seq) s = .next (if !s.hp.linkUp then s
      else (s.onMem (fun m => { m with host := writeBytes m.host (bits d 64 64) 8 (bits d 128 64) })).finish q.val seq stOk 0 0) := by
  have hexec : exec (.signal q seq) s = execSignal q seq s := rfl
  rw [hexec, execSignal, s.onDesc_starts q.val seq 0x03 d _ _ hs hh (by simp [h64, h192])]

/-! ### WAKE_LAT -/

/-- R137: a partition whose latency is set, and which a trigger may wake to what the latency permits. -/
theorem exec_wakeLat (hs : s.starts q.val seq 0x33 d) (hh : headerOk d = true) (h66 : bits d 66 30 = 0) (h128 : bits d 128 384 = 0) :
    exec (.wakeLat q seq) s =
      .next (((s.setPartn (bits d 64 2) (fun x => { x with lat := d.extractLsb' 96 32 })).wake (bits d 64 2) (deepest (bits d 96 32))).finish
        q.val seq stOk 0 (BitVec.ofNat 64 (deepest (bits d 96 32)))) := by
  have hexec : exec (.wakeLat q seq) s = execWakeLat q seq s := rfl
  rw [hexec, execWakeLat, s.onDesc_starts q.val seq 0x33 d _ _ hs hh (by simp [h66, h128])]

end

/-- Settles O23: each descriptor's equation (`exec_nopDescriptor` and those after it), and for SIGNAL what a store of 8 bytes reads as. -/
theorem queueDescriptorsComplete : Obligations.QueueDescriptorsComplete := by
  unfold Obligations.QueueDescriptorsComplete
  refine ⟨fun q seq d s hs hh => ?_, fun q seq d s hs hh hq hself h71 h192 => ?_, fun q seq d s hs hh h64 h192 => ?_,
    fun q seq d s hs hh h66 h128 => ?_⟩
  · rw [exec_nopDescriptor hs hh]
    exact ⟨fun h => by rw [if_pos h], fun h => by rw [if_neg h]⟩
  · rw [exec_fenceDescriptor hs hh hq hself h71 h192]
    refine ⟨fun h => by rw [if_pos h], fun hne hlt => congrArg _ (if_neg ?_)⟩
    rintro (h | h)
    · exact hne h
    · exact Nat.not_lt.mpr h hlt
  · rw [exec_signal hs hh h64 h192]
    refine ⟨fun hl => ⟨_, congrArg _ (if_neg (by simp [hl])), ?_, fun a ha => ?_, rfl, rfl⟩, fun hl => congrArg _ (if_pos (by simp [hl]))⟩
    · exact (readBytes_writeBytes ..).trans (Nat.mod_eq_of_lt (bits_lt d 128 64))
    · refine (get_writeBytes ..).trans (if_neg ?_)
      omega
  · refine ⟨_, exec_wakeLat hs hh h66 h128, ?_⟩
    have hget := s.getPartn_setPartn (bits d 64 2) (bits d 64 2) (fun x => { x with lat := d.extractLsb' 96 32 })
    rw [if_pos rfl] at hget
    rw [State.wake_frame]
    change (State.getPartn (State.setPartn ..) _).lat.toNat = _ ∧ (State.getPartn (State.setPartn ..) _).dies = _ ∧
      (State.getPartn (State.setPartn ..) _).launch = _ ∧ _
    rw [hget]
    exact ⟨d.extractLsb'_toNat 96 32, rfl, rfl, rfl, rfl⟩

end Sys2Proof.Machine
end

section
/-! BARRIER (R127): the rendezvous of its number is opened, joined or closed. -/

namespace Sys2Proof.Machine

/-- R122: a descriptor marked started. -/
theorem State.getQ_markStarted (s : State) (q k seq : Nat) : (s.markStarted q seq).getQ k = if k = q then { s.getQ q with
    fetched := (s.getQ q).fetched.map (fun y => if y.seq = seq then { y with started := true } else y) } else s.getQ k := s.getQ_setQ ..

theorem State.markStarted_started (s : State) (q seq : Nat) :
    ∀ y ∈ ((s.markStarted q seq).getQ q).fetched, y.seq = seq → y.started = true := by
  rw [s.getQ_markStarted, if_pos rfl]
  intro y hy hseq
  obtain ⟨z, -, rfl⟩ := List.mem_map.mp hy
  split at hseq
  · next h => rw [if_pos h]
  · next h => exact absurd hseq h

theorem State.markStarted_comps (s : State) (q seq k : Nat) : ((s.markStarted q seq).getQ k).comps = (s.getQ k).comps := by
  rw [s.getQ_markStarted]
  split
  · next h => rw [h]
  · rfl

theorem State.markStarted_ctlOff (s : State) (q seq k : Nat) : ((s.markStarted q seq).getQ k).ctlOff = (s.getQ k).ctlOff := by
  rw [s.getQ_markStarted]
  split
  · next h => rw [h]
  · rfl

/-- R127: the rendezvous of number `bid`. -/
def State.rdv (s : State) (bid : Nat) : Option Rdv := s.hp.rdvs.find? (fun r => r.bid == bid)

/-! ### The command -/

/-- R125, R127: the fields of a BARRIER of queue `q` are in order. -/
def barrierOk (q : Nat) (d : BitVec 512) : Prop :=
  headerOk d = true ∧ bits d 68 60 = 0 ∧ bit d (128 + q) = true ∧ 2 ≤ ((List.range 81).filter (fun i => bit d (128 + i))).length ∧
    bits d 209 303 = 0

theorem barrierOk_body {q : Nat} {d : BitVec 512} (h : barrierOk q d) : ∀ x ∈ [(68, anyBits d 68 60),
    (128, !(bit d (128 + q)) || decide (((List.range 81).filter (fun i => bit d (128 + i))).length < 2)), (209, anyBits d 209 303)],
    x.2 = false := by
  obtain ⟨-, h68, hself, htwo, h209⟩ := h
  have hmany := Nat.not_lt.mpr htwo
  simp [h68, hself, hmany, h209]

theorem exec_barrier {q : Fin 81} {seq : Nat} {d : BitVec 512} {s : State} (hs : s.starts q.val seq 0x02 d) (hok : barrierOk q.val d) :
    exec (.barrier q seq) s = .next (s.joinBarrier q.val seq d) := by
  have hexec : exec (.barrier q seq) s = execBarrier q seq s := rfl
  rw [hexec, execBarrier, s.onDesc_starts q.val seq 0x02 d _ _ hs hok.1 (barrierOk_body hok)]

/-- R127: a second BARRIER of a queue that waits under the same number is judged at once. -/
theorem exec_barrier_repeats {q : Fin 81} {seq : Nat} {s : State} {y : Desc}
    (hfind : (s.getQ q.val).fetched.find? (fun y => y.seq == seq) = some y) (hrep : (s.getQ q.val).repeats y = true)
    (hlit : s.litFor q.val = true) (htype : s.typeStatus q.val y.d = none) (hown : s.ownerOf q.val = none) (hok : barrierOk q.val y.d) :
    exec (.barrier q seq) s = .next (s.joinBarrier q.val seq y.d) := by
  have hexec : exec (.barrier q seq) s = execBarrier q seq s := rfl
  have ht : dType y.d = 2 := by
    simp only [Queue.repeats, Bool.and_eq_true, beq_iff_eq] at hrep
    exact hrep.1.1.2
  have hbody := badField_eq_none y.d _ hok.1 (barrierOk_body hok)
  simp only [hexec, execBarrier, State.onDesc, State.onStart, hfind, hrep, hlit, htype, hown, ht, hbody, bne_self_eq_false, Bool.or_true,
    Bool.not_true, Option.isSome_none, Bool.false_and, Bool.or_self, Bool.false_eq_true, if_false]

/-! ### The rendezvous -/

theorem State.joinBarrier_opens (s : State) (q seq : Nat) (d : BitVec 512) (h : s.rdv (bits d 64 4) = none) :
    s.joinBarrier q seq d = { s.markStarted q seq with hp := { (s.markStarted q seq).hp with
      rdvs := s.hp.rdvs ++ [⟨bits d 64 4, d.extractLsb' 128 81, [(q, seq)]⟩] } } := by
  rw [State.rdv] at h
  simp only [State.joinBarrier, h]
  rfl

section
variable (s : State) (q seq : Nat) (d : BitVec 512) (r : Rdv) (h : s.rdv (bits d 64 4) = some r)
include h

/-- R127: a queue that waits there already offends by the number. -/
theorem State.joinBarrier_again (hq : ∃ x ∈ r.joined, x.1 = q) : s.joinBarrier q seq d = s.finish q seq stBadField 64 0 := by
  rw [State.rdv] at h
  have hany : r.joined.any (fun x => x.1 == q) = true := by simpa using hq
  simp only [State.joinBarrier, h, hany, if_true]

/-- R127: another mask than the rendezvous offends by the mask. -/
theorem State.joinBarrier_mask (hq : ∀ x ∈ r.joined, x.1 ≠ q) (hm : r.mask ≠ d.extractLsb' 128 81) :
    s.joinBarrier q seq d = s.finish q seq stBadField 128 0 := by
  rw [State.rdv] at h
  have hany : r.joined.any (fun x => x.1 == q) = false := by simpa using hq
  have hne : (r.mask != d.extractLsb' 128 81) = true := bne_iff_ne.mpr hm
  simp only [State.joinBarrier, h, hany, hne, Bool.false_eq_true, if_false, if_true]

/-- R127: the last participant closes the rendezvous and completes them all. -/
theorem State.joinBarrier_last (hq : ∀ x ∈ r.joined, x.1 ≠ q) (hm : r.mask = d.extractLsb' 128 81)
    (hall : ∀ i, i < 81 → r.mask.getLsbD i = true → i = q ∨ ∃ x ∈ r.joined, x.1 = i) :
    s.joinBarrier q seq d = (({ s.markStarted q seq with hp := { (s.markStarted q seq).hp with
      rdvs := s.hp.rdvs.filter (fun x => x.bid != bits d 64 4) } }).finishAll (r.joined ++ [(q, seq)]) stOk 0) := by
  rw [State.rdv] at h
  have hany : r.joined.any (fun x => x.1 == q) = false := by simpa using hq
  have hfull : (List.range 81).all (fun i => !((d.extractLsb' 128 81).getLsbD i) || (r.joined ++ [(q, seq)]).any (fun x => x.1 == i)) = true := by
    rw [← hm, List.all_eq_true]
    intro i hi
    cases hb : r.mask.getLsbD i with
    | false => rfl
    | true =>
      refine List.any_eq_true.mpr ?_
      rcases hall i (List.mem_range.mp hi) hb with rfl | ⟨x, hx, rfl⟩
      · exact ⟨(i, seq), by simp, beq_self_eq_true i⟩
      · exact ⟨x, List.mem_append_left _ hx, beq_self_eq_true x.1⟩
  simp only [State.joinBarrier, h, hany, hm, hfull, bne_self_eq_false, Bool.false_eq_true, if_false, if_true]
  rfl

end

/-- Settles O25: a BARRIER that may be judged joins its rendezvous (`exec_barrier`, `exec_barrier_repeats`), which it opens, offends or closes. -/
theorem barriersRendezvous : Obligations.BarriersRendezvous := by
  unfold Obligations.BarriersRendezvous
  refine ⟨fun q seq d s hs hh h68 hself htwo h209 => ?_, fun q seq s y r hfind hrep hlit htype hown hh h68 hself htwo h209 hr hq => ?_⟩
  · rw [exec_barrier hs ⟨hh, h68, hself, htwo, h209⟩]
    refine ⟨fun hr => ⟨_, congrArg _ (s.joinBarrier_opens q.val seq d hr), rfl, s.markStarted_started q.val seq,
        s.markStarted_comps q.val seq q.val, fun k hk => ?_, rfl⟩, fun r hr => ⟨fun hm hq => ?_, fun hm hq hall => ?_⟩⟩
    · exact (s.getQ_markStarted q.val k seq).trans (if_neg hk)
    · rw [s.joinBarrier_mask q.val seq d r hr hq hm]
    · rw [s.joinBarrier_last q.val seq d r hr hq hm hall]
  · rw [exec_barrier_repeats hfind hrep hlit htype hown ⟨hh, h68, hself, htwo, h209⟩, s.joinBarrier_again q.val seq y.d r hr hq]

end Sys2Proof.Machine
end

section
/-! Completion records and interrupts (R138, R140, R145, R412). -/

namespace Sys2Proof.Machine

/-! ### Sets and interrupts -/

theorem NSet.mem_add (t : NSet) (k x : Nat) : x ∈ NSet.add t k ↔ x = k ∨ x ∈ t := by
  induction t with
  | nil => simp [NSet.add]
  | cons j r ih =>
    rw [NSet.add]
    split
    · simp
    · split
      · next h => simp [h]
      · rw [List.mem_cons, ih, List.mem_cons]
        tauto

/-- R140: the vector has fired: its time is kept, and a request that waited for it does not wait on. -/
def Irq.fired (e : Env) (v : Nat) (q : Irq) : Irq := { q with last := q.last.put 0 v (e.tb.toNat + 1), waiting := q.waiting.put 0 v 0 }

/-- R140, R145: a vector that is not shut sends its message. -/
theorem Irq.fire_open {e : Env} {v : Nat} {q : Irq} (hr : e.qready = true) (hs : q.shut v = false) :
    Irq.fire e v q = { q.fired e v with sent := v :: q.sent } := by
  have hshut : (q.fired e v).shut v = false := hs
  rw [Irq.fire, hr]
  exact if_neg (ne_true_of_eq_false hshut)

/-- R145: a vector that is shut stays pending. -/
theorem Irq.fire_shut {e : Env} {v : Nat} {q : Irq} (hr : e.qready = true) (hs : q.shut v = true) :
    Irq.fire e v q = { q.fired e v with pba := NSet.add q.pba v } := by
  have hshut : (q.fired e v).shut v = true := hs
  rw [Irq.fire, hr]
  exact if_pos hshut

theorem Irq.fired_waiting (e : Env) (v : Nat) (q : Irq) : (q.fired e v).waiting.get 0 v = 0 := by
  rw [Irq.fired, Tab.get_put, if_pos rfl]

/-- R140, R145: what a vector that fires leaves. -/
theorem Irq.fire_settles {e : Env} (v : Nat) (q : Irq) (hr : e.qready = true) : (Irq.fire e v q).waiting.get 0 v = 0 ∧
    (q.shut v = false → (Irq.fire e v q).sent = v :: q.sent ∧ (Irq.fire e v q).pba = q.pba) ∧
    (q.shut v = true → (Irq.fire e v q).sent = q.sent ∧ v ∈ (Irq.fire e v q).pba) := by
  refine ⟨?_, fun hs => ?_, fun hs => ?_⟩
  · cases hs : q.shut v with
    | false =>
      rw [Irq.fire_open hr hs]
      exact Irq.fired_waiting e v q
    | true =>
      rw [Irq.fire_shut hr hs]
      exact Irq.fired_waiting e v q
  · rw [Irq.fire_open hr hs]
    exact ⟨rfl, rfl⟩
  · rw [Irq.fire_shut hr hs]
    exact ⟨rfl, (NSet.mem_add ..).mpr (.inl rfl)⟩

/-! ### MSIX_HOLDOFF_EXPIRY -/

theorem exec_msixHoldoffExpiry (v : Fin 84) (s : State) : exec (.msixHoldoffExpiry v) s =
    .next (if s.dp.irq.waiting.get 0 v.val = 0 then s
      else (s.advance (s.dp.irq.waiting.get 0 v.val - 1)).onDp (fun e d => { d with irq := d.irq.fire e v.val })) := rfl

/-! ### EV_IRQ_SPACING -/

theorem exec_evIrqSpacing_idle (s : State) (h : s.dp.log.irqWait = false) : exec .evIrqSpacing s = .next s := by
  have hexec : exec .evIrqSpacing s = execEvIrqSpacing s := rfl
  rw [hexec, execEvIrqSpacing, h]
  split <;> rfl

theorem exec_evIrqSpacing (s : State) (t₀ : BitVec 64) (h : s.dp.log.irqWait = true) (hl : s.dp.log.irqLast = some t₀) :
    exec .evIrqSpacing s = .next ((s.advance (t₀.toNat + 100000)).onDp fireEvents) := by
  have hexec : exec .evIrqSpacing s = execEvIrqSpacing s := rfl
  rw [hexec, execEvIrqSpacing, h, hl]
  rfl

/-- The time base reaches the instant it is moved on to. -/
theorem Clk.le_advance (c : Clk) (n : Nat) (hr : c.running = true) (hn : n < 2 ^ 64) : n ≤ (c.advance n).tb.toNat := by
  rw [Clk.advance, hr, Bool.true_and]
  split
  · exact Nat.le_of_eq (Nat.mod_eq_of_lt hn).symm
  · next h => exact Nat.not_lt.mp (by simpa using h)

/-- R412: once the spacing is over, a record condition fires vector 82. -/
theorem fireEvents_due {e : Env} {d : Dp} {t₀ : BitVec 64} (hl : d.log.irqLast = some t₀) (ht : t₀.toNat + 100000 ≤ e.tb.toNat)
    (hr : e.qready = true) (hs : d.irq.shut 82 = false) : (fireEvents e d).irq.sent = 82 :: d.irq.sent ∧
      (fireEvents e d).log.irqWait = false ∧ (fireEvents e d).mem = d.mem := by
  simp only [fireEvents, hl, ht, decide_true, if_true, Irq.fire_open hr hs]
  exact ⟨trivial, trivial, trivial⟩

/-! ### COMPLETION_WRITE -/

/-- R124: nothing in the queue completes by its type alone. -/
theorem State.sweepTypes_clean (s : State) (q : Nat) (h : ∀ y ∈ (s.getQ q).fetched, s.typeStatus q y.d = none) : s.sweepTypes q = s := by
  unfold State.sweepTypes
  generalize (s.getQ q).fetched = l at h ⊢
  induction l with
  | nil => rfl
  | cons y r ih =>
    rw [List.foldl_cons, h y (by simp)]
    exact ih (fun z hz => h z (by simp [hz]))

/-- R138: place of the next record of queue `x`. -/
def Queue.cqSlot (x : Queue) : Nat := x.cqBase.toNat + 32 * (x.cqTail % 2 ^ x.log2.toNat)

/-- R138: the oldest waiting record `c` of queue `q` is written. -/
def State.recordWritten (s : State) (q : Nat) (c : Cqe) (r : List Cqe) : State :=
  (s.onMem (fun m => m.hostPut ⟨BitVec.ofNat 64 (s.getQ q).cqSlot, 32, cqeBits q (s.getQ q) s.clk.tb c, false⟩)).setQ q
    (fun x => { x with comps := r, cqTail := x.cqTail + 1 })

theorem requestVector_frame (e : Env) (x : Queue) (d : Dp) : requestVector e x d = { d with irq := (requestVector e x d).irq } := by
  unfold requestVector
  extract_lets
  split <;> rfl

theorem State.writeCompletion_waits (s : State) (q : Nat) (h : (s.getQ q).cqRoom = false ∨ s.hp.linkUp = false) : s.writeCompletion q = s := by
  unfold State.writeCompletion
  extract_lets x
  split
  · rfl
  · exact if_pos (by simpa using h)

/-- R138, R140: the record is written, and its vector asked for. -/
theorem State.writeCompletion_frame (s : State) (q : Nat) {c : Cqe} {r : List Cqe} (hc : (s.getQ q).comps = c :: r)
    (hroom : (s.getQ q).cqRoom = true) (hl : s.hp.linkUp = true) : s.writeCompletion q = { s.recordWritten q c r with
      dp := { (s.recordWritten q c r).dp with irq := (s.writeCompletion q).dp.irq } } := by
  unfold State.writeCompletion
  simp only [hc, hroom, hl, Bool.not_true, Bool.or_self, Bool.false_eq_true, if_false]
  split
  · exact congrArg (fun d => ({ s.recordWritten q c r with dp := d } : State)) (requestVector_frame ..)
  · rfl

theorem State.getQ_dp (s : State) (d : Dp) (k : Nat) : ({ s with dp := d } : State).getQ k = s.getQ k := rfl

theorem exec_completionWrite (q : Fin 81) (s : State) : exec (.completionWrite q) s = .next ((s.writeCompletion q.val).sweepTypes q.val) := rfl

section
variable {s : State} {q : Nat} {c : Cqe} {r : List Cqe}

theorem State.getQ_recordWritten (k : Nat) : (s.recordWritten q c r).getQ k =
    if k = q then { s.getQ q with comps := r, cqTail := (s.getQ q).cqTail + 1 } else s.getQ k := State.getQ_setQ ..

/-- R138: the bytes of host memory once a record is written. -/
theorem State.recordWritten_host (ha : (s.getQ q).cqSlot + 32 ≤ 2 ^ 64) :
    (s.recordWritten q c r).dp.mem.host = writeBytes s.dp.mem.host (s.getQ q).cqSlot 32 (cqeBits q (s.getQ q) s.clk.tb c) := by
  have hslot : (BitVec.ofNat 64 (s.getQ q).cqSlot).toNat = (s.getQ q).cqSlot := Nat.mod_eq_of_lt (by omega)
  change writeBytes s.dp.mem.host (BitVec.ofNat 64 (s.getQ q).cqSlot).toNat 32 _ = _
  rw [hslot]

/-- R138: what the write of the oldest waiting record leaves. -/
theorem State.writeCompletion_keeps (hc : (s.getQ q).comps = c :: r) (hroom : (s.getQ q).cqRoom = true) (hl : s.hp.linkUp = true)
    (ha : (s.getQ q).cqSlot + 32 ≤ 2 ^ 64) :
    (fun t : State => readBytes t.dp.mem.host (s.getQ q).cqSlot 32 = cqeBits q (s.getQ q) s.clk.tb c % 2 ^ 256 ∧
      (∀ a, a < (s.getQ q).cqSlot ∨ (s.getQ q).cqSlot + 32 ≤ a → t.dp.mem.hostByte a = s.dp.mem.hostByte a) ∧
      t.getQ q = { s.getQ q with comps := r, cqTail := (s.getQ q).cqTail + 1 } ∧ (∀ k, k ≠ q → t.getQ k = s.getQ k) ∧
      t.dp.mem.cells = s.dp.mem.cells) (s.writeCompletion q) := by
  rw [s.writeCompletion_frame q hc hroom hl]
  refine ⟨?_, fun a hout => ?_, ?_, fun k hk => ?_, rfl⟩
  · rw [State.recordWritten_host ha, readBytes_writeBytes, show 256 ^ 32 = 2 ^ 256 by norm_num]
  · have hbyte : ¬ ((s.getQ q).cqSlot ≤ a ∧ a < (s.getQ q).cqSlot + 32) := by omega
    rw [Mem.hostByte, State.recordWritten_host ha, BitVec.ofNat_eq_ofNat, get_writeBytes, if_neg hbyte]
    rfl
  · rw [State.getQ_dp, State.getQ_recordWritten, if_pos rfl]
  · rw [State.getQ_dp, State.getQ_recordWritten, if_neg hk]

end

/-- Settles O26: a record that is written (`State.writeCompletion_keeps`) leaves nothing for `State.sweepTypes` to complete; a vector that fires is
`Irq.fire_settles`, and vector 82 fires once its spacing is over (`fireEvents_due`). -/
theorem recordsAndInterruptsReachTheHost : Obligations.RecordsAndInterruptsReachTheHost := by
  unfold Obligations.RecordsAndInterruptsReachTheHost
  refine ⟨fun q s x c r hx hc htypes => ?_, fun v s => ⟨fun h => ?_, fun h hr => ?_⟩, fun s => ⟨exec_evIrqSpacing_idle s,
    fun hw t₀ hl hr hrun hlt hs => ?_⟩⟩
  · subst hx
    rw [exec_completionWrite]
    refine ⟨fun hroom hl ha => ?_, fun h => ?_⟩
    · have hkeeps := State.writeCompletion_keeps hc hroom hl ha
      have hswept : (s.writeCompletion q.val).sweepTypes q.val = s.writeCompletion q.val := by
        refine State.sweepTypes_clean _ _ fun y hy => ?_
        rw [hkeeps.2.2.1] at hy
        rw [s.writeCompletion_frame q.val hc hroom hl]
        exact htypes y hy
      exact ⟨_, congrArg _ hswept, hkeeps⟩
    · rw [s.writeCompletion_waits q.val h, s.sweepTypes_clean q.val htypes]
  · rw [exec_msixHoldoffExpiry, if_pos h]
  · obtain ⟨hwaiting, hopen, hshut⟩ := Irq.fire_settles (e := (s.advance (s.dp.irq.waiting.get 0 v.val - 1)).env) v.val s.dp.irq hr
    exact ⟨_, (exec_msixHoldoffExpiry v s).trans (congrArg _ (if_neg h)), hwaiting, hopen, hshut, rfl, rfl⟩
  · exact ⟨_, exec_evIrqSpacing s t₀ hw hl, fireEvents_due hl (s.clk.le_advance _ hrun hlt) hr hs⟩

end Sys2Proof.Machine
end

section
/-! LOAD_SCRIPT (R130, R160, R161, R165). -/

namespace Sys2Proof.Machine

/-- R130, R161: what the loader's verdict on image `g` leads to. -/
def State.loaded (s : State) (q seq slot : Nat) (g : Image) : State :=
  match g.check s.capt s.dp.mem s.scr slot with
  | .capt o => s.finish q seq stCapt o 0
  | .refuse r w => s.refuse q seq stScript r w
  | .ok => ({ s with scr := { s.scr with slots := s.scr.slots.put none slot (some g) } }).finish q seq stOk 0 0

section
variable {s : State} {q seq slot : Nat} {g : Image}

theorem State.loaded_ok (h : g.check s.capt s.dp.mem s.scr slot = .ok) : s.loaded q seq slot g =
    ({ s with scr := { s.scr with slots := s.scr.slots.put none slot (some g) } }).finish q seq stOk 0 0 := by
  rw [State.loaded, h]

theorem State.loaded_refused {r w : Nat} (h : g.check s.capt s.dp.mem s.scr slot = .refuse r w) :
    s.loaded q seq slot g = s.refuse q seq stScript r w := by
  rw [State.loaded, h]

theorem State.loaded_capt {o : Nat} (h : g.check s.capt s.dp.mem s.scr slot = .capt o) : s.loaded q seq slot g = s.finish q seq stCapt o 0 := by
  rw [State.loaded, h]

end

theorem hostPast_iff (h n : Nat) : hostPast h n = true ↔ 2 ^ 64 < h + n := decide_eq_true_iff

/-- R130: LOAD_SCRIPT from `h` on, `len` bytes, into `slot`, with the link up. -/
def State.loadFrom (s : State) (q seq slot h len : Nat) : State :=
  if s.slotRuns slot then s.finish q seq stBusy 0 0
  else if hostPast h len then s.finish q seq stBadAddr 1 0
  else ((s.dp.mem.hostLines h (len / 64)).map (fun v => s.loaded q seq slot ⟨len, v⟩)).getD (s.finish q seq stPoison 0 0)

theorem exec_loadScript {q : Fin 81} {seq : Nat} {d : BitVec 512} {s : State} (hs : s.starts q.val seq 0x13 d) (hh : headerOk d = true)
    (h64 : bits d 64 6 = 0) (h128 : bits d 128 6 = 0) (h163 : bits d 163 349 = 0) : exec (.loadScript q seq) s =
      .next (if s.hp.linkUp then s.loadFrom q.val seq (bits d 160 3) (bits d 64 64) (bits d 128 32) else s) := by
  have hexec : exec (.loadScript q seq) s = execLoadScript q seq s := rfl
  rw [hexec, execLoadScript, s.onDesc_starts q.val seq 0x13 d _ _ hs hh (by simp [h64, h128, h163])]
  cases s.hp.linkUp with
  | false => rfl
  | true =>
    refine congrArg Host.Outcome.next ?_
    simp only [Bool.not_true, Bool.false_eq_true, if_false, if_true, State.loadFrom]
    cases s.dp.mem.hostLines (bits d 64 64) (bits d 128 32 / 64) <;> rfl

theorem State.loadFrom_image (s : State) (q seq slot h len v : Nat) (hruns : s.slotRuns slot = false) (hpast : h + len ≤ 2 ^ 64)
    (hv : s.dp.mem.hostLines h (len / 64) = some v) : s.loadFrom q seq slot h len = s.loaded q seq slot ⟨len, v⟩ := by
  rw [State.loadFrom, hruns, if_neg Bool.false_ne_true, if_neg (mt (hostPast_iff _ _).mp (Nat.not_lt.mpr hpast)), hv]
  rfl

/-- Settles O27: the grounds of `State.loadFrom` in their order, then the three verdicts of the loader. -/
theorem scriptsAreLoadedOrRefused : Obligations.ScriptsAreLoadedOrRefused := by
  unfold Obligations.ScriptsAreLoadedOrRefused
  intro q seq d s hs hh h64 h128 h163
  rw [exec_loadScript hs hh h64 h128 h163]
  refine ⟨fun hl => by rw [hl, if_neg Bool.false_ne_true], fun hl => ?_⟩
  rw [if_pos hl]
  refine ⟨fun hruns => congrArg _ (if_pos hruns), fun hruns hpast => ?_, fun hruns hin hpoison => ?_, fun v hruns hin hv => ?_⟩
  · rw [State.loadFrom, hruns, if_neg Bool.false_ne_true, if_pos ((hostPast_iff _ _).mpr hpast)]
  · rw [State.loadFrom, hruns, if_neg Bool.false_ne_true, if_neg (mt (hostPast_iff _ _).mp (Nat.not_lt.mpr hin)), hpoison]
    rfl
  · rw [s.loadFrom_image q.val seq _ _ _ v hruns hin hv]
    refine ⟨fun hok => ?_, fun r w hrefused => ?_, fun o hcapt => ?_⟩
    · have hslot := fun i => Tab.get_put none s.scr.slots (bits d 160 3) i (some ⟨bits d 128 32, v⟩)
      exact ⟨_, congrArg _ (State.loaded_ok hok), (hslot _).trans (if_pos rfl), fun i hi => (hslot i).trans (if_neg hi), rfl, rfl, rfl⟩
    · exact ⟨_, congrArg _ (State.loaded_refused hrefused), rfl, rfl, rfl, rfl⟩
    · rw [State.loaded_capt hcapt]

end Sys2Proof.Machine
end

section
/-! ZERO_FILL_DONE and STOP (R132, R164, R231, R283). -/

namespace Sys2Proof.Machine

/-! ### What the FILLs of clearing leave -/

/-- What clearing looks at: the address map, the accumulation areas, and the bytes. -/
def Mem.fillView (m : Mem) : (BitVec 16 × BitVec 8 × BitVec 5 × BitVec 64 × BitVec 12) × BitVec 32 × List Host.Cell :=
  (m.addrMap, m.areaAcc, m.cells)

theorem Mem.fillView_hostPut (m : Mem) (st : HostStore) : (m.hostPut st).fillView = m.fillView := by
  unfold Mem.hostPut
  extract_lets a
  split <;> rfl

/-- R107: a FILL of an external line writes host memory only. -/
theorem Mem.fillView_zeroHost (m : Mem) (a : Nat) : (m.zeroHost a).fillView = m.fillView := by
  unfold Mem.zeroHost
  split
  · split
    · exact m.fillView_hostPut _
    · rfl
  · rfl

/-- R85, R231: the FILLs of one range count lines and write external ones. -/
theorem fillView_zeroRange (e : Env) (cl : List Nat) (k : Nat) (x : Nat × Nat) (d : Dp) :
    (zeroRange e cl k x d).mem.fillView = d.mem.fillView := by
  unfold zeroRange
  extract_lets lost who d₁ d₂
  have counted : d₁.mem.fillView = d.mem.fillView := by
    refine foldl_keeps (fun d : Dp => d.mem.fillView) (fun d c => ?_) _ d
    rfl
  have noted : d₂.mem.fillView = d₁.mem.fillView :=
    foldl_keeps (fun d : Dp => d.mem.fillView) (fun d i => (congrArg Mem.fillView (unmapped_mem ..)).trans rfl) _ d₁
  split
  · exact noted.trans counted
  · exact (foldl_keeps Mem.fillView (fun m i => m.fillView_zeroHost _) _ d₂.mem).trans (noted.trans counted)

theorem fillView_zeroRanges (e : Env) (cl : List Nat) (rs : List (Nat × Nat)) (r : Nat × Dp) :
    (rs.foldl (fun (r : Nat × Dp) x => (r.1 + ceilDiv x.2 64, zeroRange e cl r.1 x r.2)) r).2.mem.fillView = r.2.mem.fillView :=
  foldl_keeps (fun r : Nat × Dp => r.2.mem.fillView) (fun r x => fillView_zeroRange e cl r.1 x r.2) rs r

/-! ### Clearing -/

/-- R164, R283: the byte at key `k` is not cleared. -/
def Mem.spares (m : Mem) (g : Image) (k : Nat) : Bool :=
  match m.addrOf k with
  | some a => !(m.zeroes g a)
  | none => true

theorem Mem.spares_of_fillView {m n : Mem} (h : n.fillView = m.fillView) : n.spares = m.spares := by
  simp only [Mem.fillView, Mem.addrMap, Prod.mk.injEq] at h
  obtain ⟨⟨hilv, hgib, hink, hregions, hstacks⟩, hacc, -⟩ := h
  cases m
  cases n
  subst hilv hgib hink hregions hstacks hacc
  rfl

theorem Mem.byte_zeroFill (m : Mem) (g : Image) (k : Nat) : (m.zeroFill g).byte k = if m.spares g k then m.byte k else 0 :=
  Tab.get_filter_keys 0 (m.spares g) m.cells k

theorem byte_zeroFillBy (e : Env) (g : Image) (d : Dp) (k : Nat) :
    (zeroFillBy e g d).mem.byte k = if d.mem.spares g k then d.mem.byte k else 0 := by
  unfold zeroFillBy
  extract_lets cl rs r
  have hview : r.2.mem.fillView = d.mem.fillView := fillView_zeroRanges e cl rs (0, d)
  have hcells : r.2.mem.cells = d.mem.cells := congrArg (fun v => v.2.2) hview
  rw [Mem.byte_zeroFill, Mem.spares_of_fillView hview, Mem.byte, hcells, ← Mem.byte]

/-! ### The commands -/

theorem exec_zeroFillDone (p : Fin 4) (s : State) {l : Launch} {g : Image} (hl : (s.getPartn p.val).launch = some l)
    (hg : s.imageOf l = some g) : exec (.zeroFillDone p) s = .next (if l.zeroing then
      (s.setPartn p.val (fun x => { x with launch := some { l with zeroing := false } })).onDp (fun e d => zeroFillBy e g d) else s) := by
  have hexec : exec (.zeroFillDone p) s = execZeroFillDone p s := rfl
  rw [hexec, execZeroFillDone, hl]
  simp only [hg]

theorem exec_stop {q : Fin 81} {seq p : Nat} {d : BitVec 512} {s : State} (hs : s.starts q.val seq 0x15 d) (hh : headerOk d = true)
    (h65 : bits d 65 447 = 0) (hp : s.partOfQ q.val = some p) : exec (.stop q seq) s =
      .next (((s.getPartn p).launch.map (fun l => (s.markStarted q.val seq).setPartn p (fun x => { x with launch := some { l with
        stops := l.stops ++ [⟨q.val, seq, bit d 64⟩] } }))).getD (s.finish q.val seq stOk 1 (s.dp.getPart p).step)) := by
  have hexec : exec (.stop q seq) s = execStop q seq s := rfl
  rw [hexec, execStop, s.onDesc_starts q.val seq 0x15 d _ _ hs hh (by simp [h65]), hp]
  cases hl : (s.getPartn p).launch <;> simp only [hl] <;> rfl

/-- Settles O29: the bytes cleared are `byte_zeroFillBy`'s; a STOP only joins its launch's list. -/
theorem clearingAndStoppingALaunch : Obligations.ClearingAndStoppingALaunch := by
  unfold Obligations.ClearingAndStoppingALaunch
  refine ⟨fun p s l g hl hg => ?_, fun q seq d s p hs hh h65 hp => ?_⟩
  · rw [exec_zeroFillDone p s hl hg]
    refine ⟨fun h => congrArg _ (if_neg (ne_true_of_eq_false h)), fun h => ⟨_, congrArg _ (if_pos h), ?_, fun k a ha hz => ?_, fun k hk => ?_,
      fun k hk => ?_, rfl⟩⟩
    · exact (congrArg Partition.launch (s.getPartn_setPartn p.val p.val _)).trans (by rw [if_pos rfl])
    · refine (byte_zeroFillBy ..).trans (if_neg ?_)
      simp [Mem.spares, ha, hz]
    · refine (byte_zeroFillBy ..).trans (if_pos ?_)
      unfold Mem.spares
      split
      · next a ha => exact congrArg not (hk a ha)
      · rfl
    · exact (s.getPartn_setPartn p.val k _).trans (if_neg hk)
  · rw [exec_stop hs hh h65 hp]
    refine ⟨fun hl => by rw [hl]; rfl, fun l hl => ?_⟩
    rw [hl]
    refine ⟨_, rfl, ?_, fun k hk => ?_, ?_, rfl⟩
    · exact (congrArg Partition.launch (State.getPartn_setPartn _ p p _)).trans (by rw [if_pos rfl])
    · exact (State.getPartn_setPartn _ p k _).trans (if_neg hk)
    · exact s.markStarted_comps q.val seq q.val

end Sys2Proof.Machine
end

section
/-! The host link down for 100 ms while an earlier fault is still open (R143, R428, R8). -/

namespace Sys2Proof.Machine

/-- The class 9 fault is a second one, which voids the stroke (R8); unit 0's VOID event and the queued one make a line of the inkwell
area (R415, R417), whose first byte is the queued event's. -/
theorem hostLinkDownTimeout_spills {t : State} (h : exec .hostLinkDownTimeout spillingSuspect = .next t) :
    t.dp.mem.byte spillingSuspectInk = 7 := by
  have e : execHostLinkDownTimeout spillingSuspect = .next t := h
  cases e
  decide +kernel

/-- Refutes O48: its clause on the timeout says that package memory stays as it is. With a fault still open the class 9 fault is a multiple
fault, which voids the stroke, and in `spillingSuspect`, whose link is down, the VOID event of a unit that works spills a line to the
inkwell area. -/
theorem not_hostLinkFollowsItsPins : ¬ Obligations.HostLinkFollowsItsPins := by
  unfold Obligations.HostLinkFollowsItsPins
  intro h
  obtain ⟨-, htimeout, -⟩ := h
  obtain ⟨-, -, -, -, hzero⟩ := spillingSuspect_works
  obtain ⟨t, ht, -, -, hcells, -⟩ := (htimeout spillingSuspect).2 (by decide +kernel)
  have hsame : t.dp.mem.byte spillingSuspectInk = spillingSuspect.dp.mem.byte spillingSuspectInk := by rw [Mem.byte, hcells, Mem.byte]
  rw [hostLinkDownTimeout_spills ht, hzero] at hsame
  exact absurd hsame (by decide)

end Sys2Proof.Machine
end

section
/-! Attestation requests (R113, R456, R457): who answers, then what each request asks of the key, the kept response or the session. -/

namespace Sys2Proof.Machine

/-! ### The responder, its sessions and its key -/

/-- R456: no firmware runs, so no request is answered. -/
def State.mute (s : State) : Bool := s.bu.dark || !s.bu.booted

theorem State.mute_iff (s : State) : s.mute = true ↔ s.bu.dark = true ∨ s.bu.booted = false := by simp [State.mute]

theorem State.mute_eq_false {s : State} (hd : s.bu.dark = false) (hb : s.bu.booted = true) : s.mute = false := by simp [State.mute, hd, hb]

theorem State.spdm_mute {s : State} (h : s.mute = true) (f : State → State) : s.spdm f = s := if_pos h

theorem State.spdm_noVersion {s : State} (h : s.mute = false) (hv : s.sec.version = none) (f : State → State) :
    s.spdm f = answered s .unexpected :=
  (if_neg (ne_true_of_eq_false h)).trans (if_pos (by rw [hv]; rfl))

/-- R456: a version is in use, so the request takes its course. -/
theorem State.spdm_inUse {s : State} (h : s.mute = false) {v : Nat} (hv : s.sec.version = some v) (f : State → State) : s.spdm f = f s :=
  (if_neg (ne_true_of_eq_false h)).trans (if_neg (by rw [hv]; exact Bool.false_ne_true))

theorem Sec.sess_id {c : Sec} {i : Nat} {x : Sess} (h : c.sess i = some x) : x.id = i := eq_of_beq (List.find?_some h :)

theorem Sec.canSign_iff (c : Sec) : c.canSign = true ↔ c.lc = 1 ∨ c.lc = 2 := by simp [Sec.canSign]

section
variable {s : State} {v i : Nat} (h : s.mute = false) (hv : s.sec.version = some v)
include h hv

theorem State.inSession_none (hi : s.sec.sess i = none) (sec : Bool) (f : State → Sess → State) :
    s.inSession i sec f = answered s .unexpected := by
  rw [State.inSession, State.spdm_inUse h hv, hi]
  rfl

theorem State.inSession_other {x : Sess} (hi : s.sec.sess i = some x) {sec : Bool} (hx : x.secured ≠ sec) (f : State → Sess → State) :
    s.inSession i sec f = answered s .unexpected := by
  rw [State.inSession, State.spdm_inUse h hv, hi]
  exact if_neg (fun e => hx (eq_of_beq e))

theorem State.inSession_same {x : Sess} (hi : s.sec.sess i = some x) {sec : Bool} (hx : x.secured = sec) (f : State → Sess → State) :
    s.inSession i sec f = f s x := by
  rw [State.inSession, State.spdm_inUse h hv, hi]
  exact if_pos (beq_iff_eq.2 hx)

end

/-! ### The certificate chain and the response kept of it -/

section
variable {s : State} {v : Nat} (h : s.mute = false) (hv : s.sec.version = some v)
include h hv

/-- R456: slot 0, filled, from an offset inside the chain. -/
theorem exec_getCertificate (slot off n : Nat) : exec (.getCertificate slot off n) s =
    if slot = 0 ∧ s.sec.lc ≠ 0 ∧ off < Config.certChain.length then
      .next (answered { s with sec := { s.sec with large := ((Config.certChain.drop off).take n).drop 4096 } }
        (.certificate (((Config.certChain.drop off).take n).take 4096) (Config.certChain.length - off - ((Config.certChain.drop off).take n).length)))
    else .next (answered s .unexpected) := by
  refine (congrArg Host.Outcome.next (State.spdm_inUse h hv _)).trans ?_
  have hguard : (slot != 0 || !s.sec.slot0 || off ≥ Config.certChain.length) = true ↔
      ¬ (slot = 0 ∧ s.sec.lc ≠ 0 ∧ off < Config.certChain.length) := by
    simp only [Sec.slot0, Bool.or_eq_true, bne_iff_ne, Bool.not_eq_true', bne_eq_false_iff_eq, decide_eq_true_eq, ← Nat.not_lt]
    tauto
  by_cases hc : slot = 0 ∧ s.sec.lc ≠ 0 ∧ off < Config.certChain.length
  · rw [if_pos hc]
    exact congrArg _ (if_neg (fun e => hguard.1 e hc))
  · rw [if_neg hc]
    exact congrArg _ (if_pos (hguard.2 hc))

theorem exec_chunkGet (n : Nat) : exec (.chunkGet n) s = if s.sec.large.drop (n * 4096) = [] then .next (answered s .unexpected)
    else .next (answered s (.chunk ((s.sec.large.drop (n * 4096)).take 4096) (decide ((s.sec.large.drop (n * 4096)).length ≤ 4096)))) := by
  refine (congrArg Host.Outcome.next (State.spdm_inUse h hv _)).trans ?_
  by_cases hc : s.sec.large.drop (n * 4096) = []
  · rw [if_pos hc]
    exact congrArg _ (if_pos (List.isEmpty_iff.2 hc))
  · rw [if_neg hc]
    exact congrArg _ (if_neg (fun e => hc (List.isEmpty_iff.1 e)))

/-! ### What the identity key signs -/

theorem exec_challenge (a : Nat) : exec (.challenge a) s = .next (if !s.sec.canSign then answered s .unspecified
    else if a != 0 then answered s .unexpected else s.signed (.challengeAuth chainDigest)) :=
  congrArg _ (State.spdm_inUse h hv _)

/-- R456: no session holds id `i`. -/
def Sec.freeId (c : Sec) (i : Nat) : Bool := !(c.sessions.any (fun x => x.id == i))

omit h hv in
theorem Sec.freeId_iff (c : Sec) (i : Nat) : c.freeId i = true ↔ ∀ x, x ∈ c.sessions → x.id ≠ i := by simp [Sec.freeId]

omit h hv in
theorem Sec.freeId_eq_false (c : Sec) (i : Nat) : c.freeId i = false ↔ ∃ x, x ∈ c.sessions ∧ x.id = i := by simp [Sec.freeId]

theorem exec_keyExchange (doe : Bool) : exec (.keyExchange doe) s = .next (if !s.sec.canSign then answered s .unspecified
    else match firstFrom s.sec.freeId 4 1 with
      | none => answered s .unexpected
      | some i => ({ s with sec := { s.sec with sessions := s.sec.sessions ++ [Sess.mk i false doe 0] } } : State).signed (.keyExchange i)) := by
  refine congrArg _ ((State.spdm_inUse h hv _).trans ?_)
  rfl

/-- R457: one block that is measured. -/
theorem exec_getMeasurements_one {i : Nat} {b : List Byte} (hm : s.measure i = some b) (hi : i ≠ 0xFF) (g : Bool) :
    exec (.getMeasurements i g) s = .next (if g && !s.sec.canSign then answered s .unspecified
      else if g then s.signed (fun x => .measurements [(i, b)] (some x)) else answered s (.measurements [(i, b)] none)) := by
  refine congrArg _ ((State.spdm_inUse h hv _).trans ?_)
  simp only [if_neg hi, List.filterMap_cons, hm, Option.map_some, List.filterMap_nil]
  rfl

/-- R456, R457: no signature without the identity key. -/
theorem exec_getMeasurements_noKey (i : Nat) (hk : s.sec.canSign = false) :
    exec (.getMeasurements i true) s = .next (answered s .unspecified) := by
  refine (congrArg Host.Outcome.next (State.spdm_inUse h hv _)).trans (congrArg _ (if_pos ?_))
  rw [hk]
  rfl

end

/-! ### Session ids -/

/-- `firstFrom` finds the number before which `p` fails. -/
theorem firstFrom_eq_some {p : Nat → Bool} {n a i : Nat} (ha : a ≤ i) (hn : i < a + n) (hi : p i = true)
    (hb : ∀ k, a ≤ k → k < i → p k = false) : firstFrom p n a = some i := by
  induction n generalizing a with
  | zero => omega
  | succ n ih =>
    rw [firstFrom]
    by_cases e : a = i
    · rw [e, if_pos hi]
    · rw [if_neg (ne_true_of_eq_false (hb a (Nat.le_refl a) (by omega)))]
      exact ih (by omega) (by omega) (fun k hk => hb k (by omega))

theorem firstFrom_eq_none {p : Nat → Bool} {n a : Nat} (h : ∀ k, a ≤ k → k < a + n → p k = false) : firstFrom p n a = none := by
  induction n generalizing a with
  | zero => rfl
  | succ n ih =>
    rw [firstFrom, if_neg (ne_true_of_eq_false (h a (Nat.le_refl a) (by omega)))]
    exact ih (fun k hk hn => h k (by omega) (by omega))

/-! ### Inside a session -/

section
variable {s : State} {v i : Nat} (h : s.mute = false) (hv : s.sec.version = some v)
include h hv

/-- R456: FINISH of a session not yet secured. -/
theorem exec_finish {x : Sess} (hi : s.sec.sess i = some x) (hx : x.secured = false) :
    exec (.finish i) s = .next (answered { s with sec := { s.sec with
      sessions := s.sec.sessions.map (fun y => if y.id = i then { y with secured := true } else y) } } (.finished i)) := by
  refine (congrArg Host.Outcome.next (State.inSession_same h hv hi hx _)).trans ?_
  rw [Sec.sess_id hi]
  rfl

/-- R456: KEY_UPDATE, HEARTBEAT and END_SESSION of a secured session. -/
theorem exec_inSecured {x : Sess} (hi : s.sec.sess i = some x) (hx : x.secured = true) :
    exec (.keyUpdate i) s = .next (answered { s with sec := { s.sec with
      sessions := s.sec.sessions.map (fun y => if y.id = i then { y with gen := y.gen + 1 } else y) } } (.keyUpdated i)) ∧
    exec (.heartbeat i) s = .next (answered s (.heartbeat i)) ∧
    exec (.endSession i) s = .next (answered { s with sec := { s.sec with
      sessions := s.sec.sessions.filter (fun y => y.id != i) } } (.ended i)) := by
  have hid := Sec.sess_id hi
  refine ⟨(congrArg Host.Outcome.next (State.inSession_same h hv hi hx _)).trans ?_,
    (congrArg Host.Outcome.next (State.inSession_same h hv hi hx _)).trans ?_,
    (congrArg Host.Outcome.next (State.inSession_same h hv hi hx _)).trans ?_⟩ <;> rw [hid] <;> rfl

theorem exec_ideKmRequest {x : Sess} (hi : s.sec.sess i = some x) (hx : x.secured = true) (op : IdeOp) :
    exec (.ideKmRequest i op) s = .next (if !x.doe then answered s .unexpected else match op with
      | .program k key => answered { s with sec := { s.sec with ideKeys := s.sec.ideKeys.put 0 k key } } .ideKm
      | .go => if s.sec.ideKeys.isEmpty then answered s .unexpected else answered { s with
          sec := { s.sec with ideOn := true }
          hp := { s.hp with ide := true } } .ideKm
      | .stop => answered { s with
          sec := { s.sec with ideOn := false }
          hp := { s.hp with ide := false } } .ideKm) :=
  (congrArg Host.Outcome.next (State.inSession_same h hv hi hx _)).trans (by cases op <;> rfl)

end

/-- R456: no request is answered before firmware runs. -/
theorem mute_answers_nothing {s : State} (h : s.mute = true) :
    exec .getVersion s = .next s ∧ (∀ v, exec (.getCapabilities v) s = .next s) ∧ exec .negotiateAlgorithms s = .next s ∧
    exec .getDigests s = .next s ∧ (∀ a b n, exec (.getCertificate a b n) s = .next s) ∧ (∀ a, exec (.challenge a) s = .next s) ∧
    (∀ i g, exec (.getMeasurements i g) s = .next s) ∧ (∀ b, exec (.keyExchange b) s = .next s) ∧
    (∀ i, exec (.finish i) s = .next s ∧ exec (.keyUpdate i) s = .next s ∧ exec (.heartbeat i) s = .next s ∧
      exec (.endSession i) s = .next s ∧
      exec (.chunkGet i) s = .next s ∧ ∀ op, exec (.ideKmRequest i op) s = .next s) :=
  have mute f : (Host.Outcome.next (s.spdm f) : Host.Outcome State Fault Refusal) = .next s := congrArg _ (State.spdm_mute h f)
  ⟨congrArg _ (if_pos h), fun _ => congrArg _ (if_pos h), mute _, mute _, fun _ _ _ => mute _, fun _ => mute _, fun _ _ => mute _, fun _ => mute _,
    fun _ => ⟨mute _, mute _, mute _, mute _, mute _, fun _ => mute _⟩⟩

/-- Settles O54: a mute responder answers nothing; else each request by its equation above, whose guards the cases decide. -/
theorem attestationFollowsTheSession : Obligations.AttestationFollowsTheSession := by
  unfold Obligations.AttestationFollowsTheSession
  refine ⟨fun s h => mute_answers_nothing (s.mute_iff.2 h), fun s hd hb => ?_⟩
  have h := State.mute_eq_false hd hb
  refine ⟨congrArg _ (if_neg (ne_true_of_eq_false h)), fun v => ?_, fun hv => ?_, fun v hv => ?_⟩
  · refine (congrArg Host.Outcome.next (if_neg (ne_true_of_eq_false h))).trans ?_
    by_cases hc : v = 12 ∨ v = 13
    · rw [if_pos hc]
      exact congrArg _ (if_pos (by simpa using hc))
    · rw [if_neg hc]
      exact congrArg _ (if_neg (by simpa using hc))
  · exact ⟨congrArg _ (State.spdm_noVersion h hv _), fun a => congrArg _ (State.spdm_noVersion h hv _),
      fun b => congrArg _ (State.spdm_noVersion h hv _)⟩
  have key : s.sec.lc = 1 ∨ s.sec.lc = 2 → s.sec.canSign = true := s.sec.canSign_iff.2
  have noKey (h1 : s.sec.lc ≠ 1) (h2 : s.sec.lc ≠ 2) : s.sec.canSign = false :=
    Bool.eq_false_iff.2 (fun e => (s.sec.canSign_iff.1 e).elim h1 h2)
  refine ⟨congrArg _ (State.spdm_inUse h hv _), ?_, fun slot off n l hl => hl ▸ exec_getCertificate h hv slot off n,
    fun n l hl => hl ▸ exec_chunkGet h hv n, fun h1 h2 => ⟨fun a => ?_, fun i => exec_getMeasurements_noKey h hv i (noKey h1 h2), fun b => ?_⟩,
    fun hlc => ⟨?_, fun a ha => ?_, fun b i h1 h4 hfree hheld => ?_, fun b hheld => ?_⟩, fun i b hm hi => ⟨?_, fun hlc => ?_⟩,
    fun i hi => ?_, fun i x hi hx => ⟨exec_finish h hv hi hx, ?_, fun op => ?_⟩, fun i x hi hx => ?_⟩
  · refine (congrArg Host.Outcome.next (State.spdm_inUse h hv _)).trans ?_
    by_cases hlc : s.sec.lc = 0
    · rw [if_pos hlc, Sec.slot0, hlc]
      rfl
    · rw [if_neg hlc, if_pos (show s.sec.slot0 = true from bne_iff_ne.2 hlc)]
      rfl
  · rw [exec_challenge h hv, noKey h1 h2]
    rfl
  · rw [exec_keyExchange h hv, noKey h1 h2]
    rfl
  · rw [exec_challenge h hv, key hlc]
    rfl
  · rw [exec_challenge h hv, key hlc]
    exact congrArg _ (if_pos (bne_iff_ne.2 ha))
  · rw [exec_keyExchange h hv, key hlc, firstFrom_eq_some h1 (by omega) ((s.sec.freeId_iff i).2 hfree)
      (fun k hk hki => (s.sec.freeId_eq_false k).2 (hheld k hk hki))]
    rfl
  · rw [exec_keyExchange h hv, key hlc, firstFrom_eq_none (fun k hk hk4 => (s.sec.freeId_eq_false k).2 (hheld k hk (by omega)))]
    rfl
  · exact exec_getMeasurements_one h hv hm hi false
  · rw [exec_getMeasurements_one h hv hm hi true, key hlc]
    rfl
  · have none sec f : (Host.Outcome.next (s.inSession i sec f) : Host.Outcome State Fault Refusal) = .next (answered s .unexpected) :=
      congrArg _ (State.inSession_none h hv hi sec f)
    exact ⟨none _ _, none _ _, none _ _, none _ _, fun op => none _ _⟩
  · exact congrArg _ (State.inSession_other h hv hi (by simp [hx]) _)
  · exact congrArg _ (State.inSession_other h hv hi (by simp [hx]) _)
  · obtain ⟨hupdate, hbeat, hend⟩ := exec_inSecured h hv hi hx
    refine ⟨congrArg _ (State.inSession_other h hv hi (by simp [hx]) _), hupdate, hbeat, hend, fun hdoe op => ?_, fun hdoe =>
      ⟨fun k key => ?_, fun hk => ?_, fun hk => ?_, ?_⟩⟩ <;> rw [exec_ideKmRequest h hv hi hx, hdoe]
    · rfl
    · rfl
    · rw [hk]
      rfl
    · exact congrArg _ (if_neg (fun e => hk (List.isEmpty_iff.1 e)))
    · rfl

end Sys2Proof.Machine
end

section
/-! Queues enabled, reset and resumed, and configuration space (R114, R120, R122, R143–R145). -/

namespace Sys2Proof.Machine

/-! ### QUEUE_ENABLE -/

/-- R119–R121: what a doorbell line decides of its queue. -/
theorem Queue.rung_frame (x : Queue) (l : Option (BitVec 512)) : x.rung l = { x with
    fetchErr := (x.rung l).fetchErr
    stopped := (x.rung l).stopped
    overrun := (x.rung l).overrun
    tail := (x.rung l).tail
    cqHead := (x.rung l).cqHead } := by
  unfold Queue.rung
  repeat' split
  all_goals rfl

/-- R144: QCFG's fields, taken by the queue. -/
def Queue.configured (x : Queue) (cfg : BitVec 32) : Queue :=
  { x with holdoff := cfg.extractLsb' 24 8, vector := cfg.extractLsb' 16 8, log2 := cfg.extractLsb' 0 5 }

/-- R122, R144: an enabled queue before its doorbell line is read. -/
def Queue.start (x : Queue) : Queue :=
  { x with en := true, tail := 0, cqHead := 0, fetch := 0, fetched := [], comps := [], cqTail := 0, doneCnt := 0, doneSet := [],
           overrun := false, fetchErr := false, stopped := false }

/-- R144: a queue whose configuration is out of range. -/
def Queue.misconfigured (x : Queue) : Queue := { x with badCfg := true }

/-- R144: entry count and vector are in range. -/
def cfgInRange (cfg : BitVec 32) : Bool := !(decide (bits cfg 16 8 ≥ 84) || decide (bits cfg 0 5 < 4) || decide (bits cfg 0 5 > 16))

section
variable {q : Fin 81} {cfg : BitVec 32} {s : State}

theorem exec_queueEnable_rejected (h : (s.getQ q.val).en = true ∨ s.qready = false) :
    exec (.queueEnable q cfg) s = .next { s with hp := { s.hp with cfgRej := true } } :=
  congrArg _ (if_pos (by simpa using h))

theorem exec_queueEnable (he : (s.getQ q.val).en = false) (hr : s.qready = true) : exec (.queueEnable q cfg) s = .next
    (if cfgInRange cfg then ((s.setQ q.val (·.configured cfg)).setQ q.val Queue.start).readDoorbell q.val
      else ((s.setQ q.val (·.configured cfg)).setQ q.val Queue.misconfigured).queueError) := by
  refine congrArg _ ((if_neg (by simp [he, hr])).trans ?_)
  unfold cfgInRange
  cases decide (bits cfg 16 8 ≥ 84) || decide (bits cfg 0 5 < 4) || decide (bits cfg 0 5 > 16) <;> rfl

end

theorem State.getQ_queueError (s : State) (k : Nat) : s.queueError.getQ k = s.getQ k := rfl

/-- R114, R144: a queue enabled with `cfg`, whatever its doorbell line then says. -/
theorem State.getQ_started (s : State) (q : Nat) (cfg : BitVec 32) :
    (fun x : Queue => x.en = true ∧ x.fetch = 0 ∧ x.fetched = [] ∧ x.doneCnt = 0 ∧ x.cqTail = 0 ∧ x.log2.toNat = bits cfg 0 5 ∧
      x.vector.toNat = bits cfg 16 8) ((((s.setQ q (·.configured cfg)).setQ q Queue.start).readDoorbell q).getQ q) := by
  have hget : ((s.setQ q (·.configured cfg)).setQ q Queue.start).getQ q = ((s.getQ q).configured cfg).start := by
    simp only [State.getQ_setQ, if_true]
  rw [State.getQ_readDoorbell, hget]
  split
  · rw [Queue.rung_frame]
    exact ⟨rfl, rfl, rfl, rfl, rfl, rfl, rfl⟩
  · exact ⟨rfl, rfl, rfl, rfl, rfl, rfl, rfl⟩

/-! ### QRESET -/

/-- A pass over `l` that applies `f` once at each place of `l`, and nowhere else. -/
theorem get_foldl_once {σ β : Type} (get : σ → Nat → β) (f : β → β) {upd : σ → Nat → σ}
    (h : ∀ s j k, get (upd s j) k = if k = j then f (get s j) else get s k) (l : List Nat) (hl : l.Nodup) (s : σ) (k : Nat) :
    get (l.foldl upd s) k = if k ∈ l then f (get s k) else get s k := by
  induction l generalizing s with
  | nil => simp
  | cons j r ih =>
    obtain ⟨hj, hr⟩ := List.nodup_cons.mp hl
    rw [List.foldl_cons, ih hr, h]
    by_cases hk : k = j
    · subst hk
      simp [hj]
    · simp [hk]

theorem exec_qreset_launched {s : State} (h : s.launched = true) : exec .qreset s = .next { s with hp := { s.hp with cfgRej := true } } :=
  congrArg _ (if_pos h)

/-- R143: a queue that is reset. -/
def Queue.cleared (x : Queue) : Queue := { x with en := false, fetched := [], comps := [] }

def clearQueues (t : Tab Queue) : Tab Queue := (List.range 81).foldl (fun t q => t.upd {} q Queue.cleared) t

theorem get_clearQueues (t : Tab Queue) {q : Nat} (hq : q < 81) : (clearQueues t).get {} q = (t.get {} q).cleared := by
  rw [clearQueues, get_foldl_once (Tab.get {}) Queue.cleared (fun t j k => Tab.get_upd {} t j k _) _ List.nodup_range,
    if_pos (List.mem_range.2 hq)]

/-- R143: the queues, rendezvous and controls of a host port that is reset. -/
def Hp.qreset (h : Hp) : Hp :=
  { h with
    queues := clearQueues h.queues,
    rdvs := [], qctl := [], ectl := [], hostOps := [] }

theorem State.endHostOps_keeps (s : State) (p : Nat → Bool) : (s.endHostOps p).hp = s.hp ∧ (s.endHostOps p).dp.mem = s.dp.mem ∧
    (s.endHostOps p).scr = s.scr := ⟨rfl, rfl, rfl⟩

theorem exec_qreset {s : State} (h : s.launched = false) : ∃ t, exec .qreset s = .next t ∧ t.hp = s.hp.qreset ∧ t.dp.mem = s.dp.mem ∧
    t.scr = s.scr := by
  have hexec : exec .qreset s = .next s.qreset := rfl
  rw [hexec, State.qreset, if_neg (ne_true_of_eq_false h)]
  exact ⟨_, rfl, State.endHostOps_keeps ..⟩

/-! ### MQRESUME -/

/-- R120, R143: a management queue that goes on, when an error had stopped it. -/
def Queue.resumed (x : Queue) : Queue :=
  if x.overrun || x.fetchErr then { x with overrun := false, fetchErr := false, stopped := false } else x

theorem Queue.resumed_clear (x : Queue) : x.resumed.overrun = false ∧ x.resumed.fetchErr = false ∧ x.resumed.fetch = x.fetch ∧
    (x.overrun = true ∨ x.fetchErr = true → x.resumed.stopped = false) := by
  unfold Queue.resumed
  split
  · exact ⟨rfl, rfl, rfl, fun _ => rfl⟩
  · next h =>
    obtain ⟨ho, hf⟩ : x.overrun = false ∧ x.fetchErr = false := by simpa using h
    exact ⟨ho, hf, rfl, fun e => by simp [ho, hf] at e⟩

theorem State.getQ_mqresume (s : State) (k : Nat) : s.mqresume.getQ k = if k = 80 then (s.getQ 80).resumed else s.getQ k := by
  unfold State.mqresume Queue.resumed
  split
  · exact State.getQ_setQ ..
  · split
    · next h => rw [h]
    · rfl

theorem State.mqresume_frame (s : State) : s.mqresume = { s with hp := { s.hp with queues := s.mqresume.hp.queues } } := by
  unfold State.mqresume
  split <;> rfl

/-! ### CXL_CONFIG_WRITE -/

/-- R145: what decides whether a vector is shut. -/
def Irq.gates (q : Irq) : Bool × Bool × Tab (BitVec 32) := (q.enable, q.fmask, q.table)

theorem Irq.shut_of_gates {q r : Irq} (h : r.gates = q.gates) (v : Nat) : r.shut v = q.shut v := by
  simp only [Irq.gates, Prod.mk.injEq] at h
  obtain ⟨he, hf, ht⟩ := h
  rw [Irq.shut, he, hf, ht, Irq.shut]

/-- R140, R145: a vector looked at for a pending message: nothing, or the message goes. -/
theorem Irq.unmask_cases (e : Env) (v : Nat) (q : Irq) : Irq.unmask e v q =
    if q.pba.contains v && !(q.shut v) && e.qready then { q.fired e v with pba := NSet.del q.pba v, sent := v :: q.sent } else q := by
  unfold Irq.unmask
  split
  · next h =>
    simp only [Bool.and_eq_true, Bool.not_eq_true'] at h
    obtain ⟨⟨-, hs⟩, hr⟩ := h
    have hshut : ({ q with pba := NSet.del q.pba v } : Irq).shut v = false := hs
    rw [Irq.fire_open hr hshut]
    rfl
  · rfl

theorem Irq.unmask_gates (e : Env) (v : Nat) (q : Irq) : (Irq.unmask e v q).gates = q.gates := by
  rw [Irq.unmask_cases]
  split <;> rfl

/-- The message of `v` is sent, or pending with its vector still to be looked at. -/
def Irq.goes (q : Irq) (v : Nat) (l : List Nat) : Prop := v ∈ q.sent ∨ v ∈ q.pba ∧ v ∈ l

theorem Irq.goes_unmask {e : Env} {q : Irq} {v j : Nat} {l : List Nat} (hr : e.qready = true) (hs : q.shut v = false)
    (h : q.goes v (j :: l)) : (Irq.unmask e j q).goes v l := by
  rw [Irq.unmask_cases]
  obtain h | ⟨hp, hl⟩ := h
  · left
    split
    · exact List.mem_cons_of_mem j h
    · exact h
  · by_cases hj : v = j
    · subst hj
      left
      rw [if_pos (by simp [hp, hs, hr])]
      exact List.mem_cons_self
    · refine .inr ⟨?_, (List.mem_cons.1 hl).resolve_left hj⟩
      split
      · exact List.mem_filter.2 ⟨hp, bne_iff_ne.2 hj⟩
      · exact hp

theorem Irq.sent_unmaskAll {e : Env} {v : Nat} (hr : e.qready = true) (l : List Nat) (q : Irq) (hs : q.shut v = false) (h : q.goes v l) :
    v ∈ (l.foldl (fun q v => Irq.unmask e v q) q).sent := by
  induction l generalizing q with
  | nil => exact h.resolve_right (by simp)
  | cons j r ih => exact ih _ ((Irq.shut_of_gates (Irq.unmask_gates e j q) v).trans hs) (Irq.goes_unmask hr hs h)

/-- The interrupts once configuration space says `m`. -/
def Irq.configured (e : Env) (m : MsixControl) (q : Irq) : Irq :=
  (List.range 84).foldl (fun q v => Irq.unmask e v q) { q with enable := m.enable, fmask := m.fmask }

theorem Irq.configured_gates (e : Env) (m : MsixControl) (q : Irq) : (q.configured e m).gates = (m.enable, m.fmask, q.table) :=
  foldl_keeps Irq.gates (fun q v => Irq.unmask_gates e v q) _ _

/-- R114: the enables of the host port. -/
def State.cxlEnabled (s : State) (x : CxlEnables) : State := { s with hp := { s.hp with cacheEn := x.cache, memEn := x.mem } }

theorem exec_cxlConfigWrite (x : CxlEnables) (m : MsixControl) (s : State) : ∃ i, i = s.dp.irq.configured (s.cxlEnabled x).env m ∧
    exec (.cxlConfigWrite x m) s = .next { s.cxlEnabled x with dp := { s.dp with irq := i } } := ⟨_, rfl, rfl⟩

/-- Settles O33: a queue's fields after enabling are `State.getQ_started`'s; a pending message stays pending until its vector is looked at
(`Irq.sent_unmaskAll`). -/
theorem queuesAreEnabledResetAndResumed : Obligations.QueuesAreEnabledResetAndResumed := by
  unfold Obligations.QueuesAreEnabledResetAndResumed
  refine ⟨fun q cfg s => ⟨exec_queueEnable_rejected, fun he hr => ⟨fun hbad => ?_, fun hv hlo hhi => ?_⟩⟩,
    fun s => ⟨exec_qreset_launched, fun h => ?_⟩, fun s => ?_, fun c m x f s => ?_⟩
  · have hrange : cfgInRange cfg = false := by
      simp only [cfgInRange, Bool.not_eq_false', Bool.or_eq_true, decide_eq_true_eq]
      omega
    rw [exec_queueEnable he hr, hrange, if_neg Bool.false_ne_true]
    have hget k : (((s.setQ q.val (·.configured cfg)).setQ q.val Queue.misconfigured).queueError).getQ k =
        if k = q.val then ((s.getQ q.val).configured cfg).misconfigured else s.getQ k := by
      rw [State.getQ_queueError]
      simp only [State.getQ_setQ, if_true]
      split <;> rfl
    refine ⟨_, rfl, ?_, ?_, rfl, fun k hk => (hget k).trans (if_neg hk)⟩
    · rw [hget, if_pos rfl]
      exact he
    · rw [hget, if_pos rfl]
      rfl
  · have hrange : cfgInRange cfg = true := by
      simp only [cfgInRange, Bool.not_eq_true', Bool.or_eq_false_iff, decide_eq_false_iff_not]
      omega
    obtain ⟨hen, hfetch, hfetched, hdone, htail, hlog, hvec⟩ := s.getQ_started q.val cfg
    rw [exec_queueEnable he hr, hrange, if_pos rfl]
    refine ⟨_, rfl, hen, hfetch, hfetched, hdone, htail, hlog, hvec, fun k hk => ?_, ?_⟩
    · refine (State.getQ_readDoorbell ..).trans ((if_neg (fun h => hk h.1)).trans ?_)
      simp only [State.getQ_setQ, if_neg hk]
    · rw [State.readDoorbell_frame]
      rfl
  · obtain ⟨t, ht, hhp, hmem, hscr⟩ := exec_qreset h
    refine ⟨t, ht, fun q hq => ?_, ?_⟩
    · rw [State.getQ, hhp, Hp.qreset, get_clearQueues s.hp.queues hq]
      exact ⟨rfl, rfl, rfl, rfl⟩
    · rw [hhp]
      exact ⟨rfl, rfl, rfl, rfl, hmem, hscr⟩
  · obtain ⟨ho, hf, hfetch, hstopped⟩ := (s.getQ 80).resumed_clear
    have hget : s.mqresume.getQ 80 = (s.getQ 80).resumed := s.getQ_mqresume 80
    refine ⟨s.mqresume, rfl, ?_, ?_, ?_, ?_, fun k hk => (s.getQ_mqresume k).trans (if_neg hk), s.mqresume_frame⟩
    all_goals rw [hget]
    · exact ho
    · exact hf
    · exact hstopped
    · exact hfetch
  · obtain ⟨i, hi, hexec⟩ := exec_cxlConfigWrite ⟨c, m⟩ ⟨x, f⟩ s
    have hgates : i.gates = (x, f, s.dp.irq.table) := hi ▸ Irq.configured_gates ..
    simp only [Irq.gates, Prod.mk.injEq] at hgates
    obtain ⟨henable, hfmask, -⟩ := hgates
    refine ⟨_, hexec, rfl, henable, hfmask, fun v hv hp hx hf htab hr => ?_, rfl⟩
    subst hx hf
    change v ∈ i.sent
    rw [hi]
    exact Irq.sent_unmaskAll hr _ _ htab (.inr ⟨hp, List.mem_range.2 hv⟩)

end Sys2Proof.Machine
end

section
/-! Controls of queues and engines, and PART_SET (R135, R136, R141, R142). -/

namespace Sys2Proof.Machine

/-! ### Folds -/

/-- A pass that comes to `c`, whose step reaches `P` from whatever `I` every step keeps, and whose other steps keep `P`, ends with `P`. -/
theorem foldl_reaches {σ α : Type} {f : σ → α → σ} {I P : σ → Prop} {c : α} {l : List α} (hI : ∀ s x, I s → I (f s x))
    (hset : ∀ s, I s → P (f s c)) (hkeep : ∀ x ∈ l, x ≠ c → ∀ s, I s → P s → P (f s x)) (s : σ) (hs : I s) (hc : c ∈ l ∨ P s) :
    P (l.foldl f s) := by
  induction l generalizing s with
  | nil => exact hc.resolve_left (by simp)
  | cons x r ih =>
    refine ih (fun y hy => hkeep y (List.mem_cons_of_mem x hy)) (f s x) (hI s x hs) ?_
    by_cases hx : x = c
    · exact .inr (hx ▸ hset s hs)
    · exact hc.imp (fun h => (List.mem_cons.1 h).resolve_left (Ne.symm hx)) (hkeep x List.mem_cons_self hx s hs)

/-- One control of a target at most rules. -/
theorem mem_lastCtls {l : List Ctl} {c : Ctl} : c ∈ lastCtls l ↔ c ∈ l ∧ ∀ c' ∈ l, c'.target = c.target → c'.seq ≤ c.seq := by
  simp [lastCtls]

theorem lastCtls_inj {l : List Ctl} (h : ∀ c ∈ l, ∀ c' ∈ l, c.seq = c'.seq → c = c') {c c' : Ctl} (hc : c ∈ lastCtls l)
    (hc' : c' ∈ lastCtls l) (ht : c'.target = c.target) : c' = c := by
  obtain ⟨hl, hmax⟩ := mem_lastCtls.1 hc
  obtain ⟨hl', hmax'⟩ := mem_lastCtls.1 hc'
  exact h c' hl' c hl (Nat.le_antisymm (hmax c' hl' ht) (hmax' c hl ht.symm))

/-! ### Descriptors that complete -/

/-- From `s` to `t` descriptors completed and rendezvous ended, and nothing else. -/
structure State.Completes (s t : State) : Prop where
  fetched : ∀ q, ∀ y ∈ (t.getQ q).fetched, y ∈ (s.getQ q).fetched
  ctlOff : ∀ q, (t.getQ q).ctlOff = (s.getQ q).ctlOff
  frame : t = { s with hp := { s.hp with queues := t.hp.queues, rdvs := t.hp.rdvs } }

theorem State.Completes.refl (s : State) : s.Completes s := ⟨fun _ _ h => h, fun _ => rfl, rfl⟩

theorem State.Completes.trans {s t u : State} (h : s.Completes t) (h' : t.Completes u) : s.Completes u :=
  ⟨fun q y hy => h.fetched q y (h'.fetched q y hy), fun q => (h'.ctlOff q).trans (h.ctlOff q), by
    rw [h'.frame, h.frame]⟩

theorem State.Completes.foldl {α : Type} {f : State → α → State} (h : ∀ (s : State) x, s.Completes (f s x)) (l : List α) (s : State) :
    s.Completes (l.foldl f s) := by
  induction l generalizing s with
  | nil => exact .refl s
  | cons x r ih => exact (h s x).trans (ih (f s x))

theorem State.completes_finish (s : State) (q seq st det : Nat) (v : BitVec 64) (f : Bool) : s.Completes (s.finish q seq st det v f) := by
  refine ⟨fun k y hy => ?_, fun k => ?_, s.finish_frame ..⟩
  · rw [State.getQ_finish] at hy
    split at hy
    · next h =>
      rw [Queue.finish_fetched] at hy
      exact h ▸ List.mem_of_mem_filter hy
    · exact hy
  · rw [State.getQ_finish]
    split
    · next h => rw [Queue.finish_ctlOff, h]
    · rfl

/-- R141: the rendezvous of a BARRIER that is disabled ends. -/
theorem State.completes_abandon (s : State) (q : Nat) (d : BitVec 512) : s.Completes (s.abandon q d) := by
  unfold State.abandon
  extract_lets bid
  split
  · exact .refl s
  · next r _ =>
    have ended : s.Completes { s with hp := { s.hp with rdvs := s.hp.rdvs.filter (fun x => x.bid != bid) } } :=
      ⟨fun _ _ h => h, fun _ => rfl, rfl⟩
    exact ended.trans (.foldl (fun s x => s.completes_finish ..) r.joined _)

theorem State.completes_disableDesc (s : State) (q : Nat) (y : Desc) : s.Completes (s.disableDesc q y) := by
  unfold State.disableDesc
  extract_lets t
  have done : s.Completes t := s.completes_finish ..
  split
  · exact done.trans (t.completes_abandon q y.d)
  · exact done

/-- R141: a descriptor that is disabled leaves its queue. -/
theorem State.disableDesc_leaves (s : State) (q : Nat) (y : Desc) : y ∉ ((s.disableDesc q y).getQ q).fetched := by
  have gone : y ∉ ((s.finish q y.seq stDisabled 0 0).getQ q).fetched := by
    rw [State.getQ_finish, if_pos rfl, Queue.finish_fetched]
    simp
  unfold State.disableDesc
  extract_lets t
  split
  · exact fun h => gone ((t.completes_abandon q y.d).fetched q y h)
  · exact gone

/-! ### QUEUE_CTL at the boundary -/

/-- R141: a queue as its control leaves it. -/
def Queue.obeys (x : Queue) (c : Ctl) : Prop := x.ctlOff = !c.enable ∧ (c.enable = false → ∀ y ∈ x.fetched, y.started = true)

theorem Queue.obeys_of_completes {s t : State} (h : s.Completes t) {c : Ctl} (hc : (s.getQ c.target).obeys c) : (t.getQ c.target).obeys c :=
  ⟨(h.ctlOff _).trans hc.1, fun he y hy => hc.2 he y (h.fetched _ y hy)⟩

/-- R120: an enable takes effect. -/
def Queue.ctlOn (x : Queue) : Queue := if x.ctlOff then { x with ctlOff := false, overrun := false, fetchErr := false, stopped := false } else x

/-- R141: a disable takes effect, before its descriptors complete. -/
def Queue.ctlStop (x : Queue) : Queue := { x with ctlOff := true }

/-- R141: the descriptors of queue `q` that have not started complete DISABLED. -/
def State.disableAll (s : State) (q : Nat) : State :=
  ((s.getQ q).fetched.filter (fun y => !y.started)).foldl (fun s y => s.disableDesc q y) s

theorem State.applyQctl_eq (s : State) (c : Ctl) : s.applyQctl c =
    if c.enable then s.setQ c.target Queue.ctlOn else (s.setQ c.target Queue.ctlStop).disableAll c.target := rfl

theorem State.completes_disableAll (s : State) (q : Nat) : s.Completes (s.disableAll q) := .foldl (fun s y => s.completes_disableDesc q y) _ s

theorem State.disableAll_started (s : State) (q : Nat) : ∀ y ∈ ((s.disableAll q).getQ q).fetched, y.started = true := by
  intro y hy
  by_contra hn
  have hin : y ∈ (s.getQ q).fetched.filter (fun y => !y.started) :=
    List.mem_filter.2 ⟨(s.completes_disableAll q).fetched q y hy, by simpa using hn⟩
  refine foldl_reaches (I := fun _ => True) (P := fun t : State => y ∉ (t.getQ q).fetched) (fun _ _ _ => trivial)
    (fun t _ => t.disableDesc_leaves q y) (fun x _ _ t _ h hx => h ((t.completes_disableDesc q x).fetched q y hx)) s trivial (.inl hin) hy

theorem State.applyQctl_obeys (s : State) (c : Ctl) : ((s.applyQctl c).getQ c.target).obeys c := by
  rw [s.applyQctl_eq]
  split
  · next he =>
    rw [State.getQ_setQ, if_pos rfl, Queue.obeys, he]
    refine ⟨?_, fun h => absurd h (by decide)⟩
    unfold Queue.ctlOn
    split
    · rfl
    · next h => exact Bool.eq_false_iff.2 h
  · next he =>
    refine ⟨?_, fun _ => State.disableAll_started _ _⟩
    rw [(State.completes_disableAll ..).ctlOff, State.getQ_setQ, if_pos rfl, Bool.eq_false_iff.2 he]
    rfl

/-- R141: a control of another queue completes descriptors of this one at most. -/
theorem State.applyQctl_other (s : State) (c : Ctl) (q : Nat) (h : q ≠ c.target) :
    (∀ y ∈ ((s.applyQctl c).getQ q).fetched, y ∈ (s.getQ q).fetched) ∧ ((s.applyQctl c).getQ q).ctlOff = (s.getQ q).ctlOff := by
  rw [s.applyQctl_eq]
  split
  · rw [State.getQ_setQ, if_neg h]
    exact ⟨fun _ hy => hy, rfl⟩
  · have done := State.completes_disableAll (s.setQ c.target Queue.ctlStop) c.target
    have same : (s.setQ c.target Queue.ctlStop).getQ q = s.getQ q := (State.getQ_setQ ..).trans (if_neg h)
    exact ⟨fun y hy => same ▸ done.fetched q y hy, by rw [done.ctlOff, same]⟩

/-- What the controls of queues leave alone. -/
def State.besidesQueues (s : State) : Dp × Scr × List Ctl := (s.dp, s.scr, s.hp.qctl)

theorem State.Completes.besidesQueues {s t : State} (h : s.Completes t) : t.besidesQueues = s.besidesQueues := by
  rw [h.frame]
  rfl

theorem State.applyQctl_besides (s : State) (c : Ctl) : (s.applyQctl c).besidesQueues = s.besidesQueues := by
  rw [s.applyQctl_eq]
  split
  · rfl
  · exact (State.completes_disableAll ..).besidesQueues

/-- R141: the records of the controls. -/
def State.ctlsDone (s : State) (l : List Ctl) : State := l.foldl (fun s c => s.finish 80 c.seq stOk 0 0) s

theorem State.queueCtls_eq (s : State) : s.queueCtls =
    ((lastCtls s.hp.qctl).foldl State.applyQctl { s with hp := { s.hp with qctl := [] } }).ctlsDone s.hp.qctl := rfl

theorem State.completes_ctlsDone (s : State) (l : List Ctl) : s.Completes (s.ctlsDone l) := .foldl (fun s _ => s.completes_finish ..) l s

theorem State.queueCtls_besides (s : State) : s.queueCtls.besidesQueues = (s.dp, s.scr, []) := by
  rw [s.queueCtls_eq, (State.completes_ctlsDone ..).besidesQueues, foldl_keeps State.besidesQueues State.applyQctl_besides]
  rfl

theorem State.queueCtls_obeys (s : State) (hseq : ∀ c ∈ s.hp.qctl, ∀ c' ∈ s.hp.qctl, c.seq = c'.seq → c = c') {c : Ctl}
    (hc : c ∈ lastCtls s.hp.qctl) : (s.queueCtls.getQ c.target).obeys c := by
  rw [s.queueCtls_eq]
  refine Queue.obeys_of_completes (State.completes_ctlsDone ..) ?_
  refine foldl_reaches (I := fun _ => True) (P := fun t : State => (t.getQ c.target).obeys c) (fun _ _ _ => trivial) (fun t _ => t.applyQctl_obeys c)
    (fun x hx hne t _ h => ?_) _ trivial (.inl hc)
  obtain ⟨hfetched, hoff⟩ := t.applyQctl_other x c.target (fun e => hne (lastCtls_inj hseq hc hx e.symm))
  exact ⟨hoff.trans h.1, fun he y hy => h.2 he y (hfetched y hy)⟩

theorem State.queueCtls_ctlOff (s : State) {q : Nat} (h : ∀ c ∈ s.hp.qctl, c.target ≠ q) : (s.queueCtls.getQ q).ctlOff = (s.getQ q).ctlOff := by
  rw [s.queueCtls_eq, (State.completes_ctlsDone ..).ctlOff]
  refine List.foldlRecOn (motive := fun t : State => (t.getQ q).ctlOff = (s.getQ q).ctlOff) _ _ rfl (fun t ht c hc => ?_)
  exact (t.applyQctl_other c q (h c (mem_lastCtls.1 hc).1).symm).2.trans ht

/-! ### ENGINE_CTL at the boundary -/

/-- R142: a unit as its control leaves it; `used` says that a launch uses it. -/
def Unit.obeys (x : Unit) (c : Ctl) (used : Bool) : Prop :=
  (c.enable = true → x.disabled = false ∧ x.deferred = false) ∧ (c.enable = false → used = true → x.deferred = true) ∧
    (c.enable = false → used = false → x.disabled = true)

theorem State.applyEctl_obeys (s : State) (c : Ctl) : ((s.applyEctl c).dp.getUnit c.target).obeys c (s.unitInUse c.target) := by
  unfold State.applyEctl
  extract_lets used
  rw [State.onDp_dp, Dp.getUnit_setUnit, if_pos rfl]
  refine ⟨fun he => ?_, fun he hu => ?_, fun he hu => ?_⟩
  · rw [if_pos he]
    exact ⟨rfl, rfl⟩
  · rw [if_neg (ne_true_of_eq_false he), if_pos hu]
  · rw [if_neg (ne_true_of_eq_false he), if_neg (ne_true_of_eq_false hu)]

theorem State.applyEctl_other (s : State) (c : Ctl) (u : Nat) (h : u ≠ c.target) : (s.applyEctl c).dp.getUnit u = s.dp.getUnit u :=
  (Dp.getUnit_setUnit ..).trans (if_neg h)

/-- What the controls of engines leave alone. -/
def State.besidesUnits (s : State) : Mem × Scr × List Ctl := (s.dp.mem, s.scr, s.hp.ectl)

/-- R142: the records of the controls. -/
def State.engineCtlsDone (s : State) (l : List Ctl) : State :=
  l.foldl (fun s c => s.finish 80 c.seq stOk 0 0 (!c.enable && s.unitInUse c.target)) s

theorem State.engineCtls_eq (s : State) : s.engineCtls =
    ((lastCtls s.hp.ectl).foldl State.applyEctl { s with hp := { s.hp with ectl := [] } }).engineCtlsDone s.hp.ectl := rfl

theorem State.completes_engineCtlsDone (s : State) (l : List Ctl) : s.Completes (s.engineCtlsDone l) :=
  .foldl (fun s _ => s.completes_finish ..) l s

theorem State.Completes.besidesUnits {s t : State} (h : s.Completes t) : t.besidesUnits = s.besidesUnits := by
  rw [h.frame]
  rfl

theorem State.engineCtls_dp (s : State) :
    s.engineCtls.dp = ((lastCtls s.hp.ectl).foldl State.applyEctl { s with hp := { s.hp with ectl := [] } }).dp := by
  rw [s.engineCtls_eq, (State.completes_engineCtlsDone ..).frame]

theorem State.engineCtls_besides (s : State) : s.engineCtls.besidesUnits = (s.dp.mem, s.scr, []) := by
  rw [s.engineCtls_eq, (State.completes_engineCtlsDone ..).besidesUnits]
  exact foldl_keeps State.besidesUnits (f := State.applyEctl) (fun _ _ => rfl) _ _

theorem State.engineCtls_obeys (s : State) (hseq : ∀ c ∈ s.hp.ectl, ∀ c' ∈ s.hp.ectl, c.seq = c'.seq → c = c') {c : Ctl}
    (hc : c ∈ lastCtls s.hp.ectl) : (s.engineCtls.dp.getUnit c.target).obeys c (s.unitInUse c.target) := by
  rw [s.engineCtls_dp]
  refine foldl_reaches (f := State.applyEctl) (I := fun t : State => t.scr = s.scr)
    (P := fun t : State => (t.dp.getUnit c.target).obeys c (s.unitInUse c.target))
    (fun t _ h => h) (fun t h => ?_) (fun x hx hne t _ h => ?_) _ rfl (.inl hc)
  · have hused : t.unitInUse c.target = s.unitInUse c.target := by
      unfold State.unitInUse State.getPartn State.imageOf
      rw [h]
    exact hused ▸ t.applyEctl_obeys c
  · rw [t.applyEctl_other x c.target (fun e => hne (lastCtls_inj hseq hc hx e.symm))]
    exact h

theorem State.engineCtls_unit (s : State) {u : Nat} (h : ∀ c ∈ s.hp.ectl, c.target ≠ u) : s.engineCtls.dp.getUnit u = s.dp.getUnit u := by
  rw [s.engineCtls_dp]
  refine List.foldlRecOn (motive := fun t : State => t.dp.getUnit u = s.dp.getUnit u) _ _ rfl (fun t ht c hc => ?_)
  exact (t.applyEctl_other c u (h c (mem_lastCtls.1 hc).1).symm).trans ht

/-! ### The descriptors -/

section
variable {q : Fin 81} {seq : Nat} {d : BitVec 512} {s : State}

theorem exec_queueCtl (hs : s.starts q.val seq 0x30 d) (hh : headerOk d = true) (hq : bits d 64 7 < 80) (h72 : bits d 72 440 = 0)
    (hmay : bit d 71 = true ∨ s.ownerOf (bits d 64 7) = none) : exec (.queueCtl q seq) s = .next { s.markStarted q.val seq with
      hp := { (s.markStarted q.val seq).hp with qctl := s.hp.qctl ++ [⟨seq, bits d 64 7, bit d 71⟩] } } := by
  have hexec : exec (.queueCtl q seq) s = execQueueCtl q seq s := rfl
  rw [hexec, execQueueCtl, s.onDesc_starts q.val seq 0x30 d _ _ hs hh (by simp [h72, hq]), if_neg]
  · rfl
  · obtain h | h := hmay <;> simp [h]

theorem exec_engineCtl (hs : s.starts q.val seq 0x31 d) (hh : headerOk d = true) (hu : isStreamUnit (bits d 64 16) = true)
    (h81 : bits d 81 431 = 0) : exec (.engineCtl q seq) s = .next { s.markStarted q.val seq with
      hp := { (s.markStarted q.val seq).hp with ectl := s.hp.ectl ++ [⟨seq, bits d 64 16, bit d 80⟩] } } := by
  have hexec : exec (.engineCtl q seq) s = execEngineCtl q seq s := rfl
  rw [hexec, execEngineCtl, s.onDesc_starts q.val seq 0x31 d _ _ hs hh (by simp [h81, hu])]
  rfl

/-! ### PART_SET -/

theorem extractLsb'_eq_zero_iff {w : Nat} (x : BitVec w) (lo len : Nat) : x.extractLsb' lo len = 0 ↔ bits x lo len = 0 := by
  rw [← BitVec.toNat_inj, BitVec.extractLsb'_toNat]
  simp [bits]

/-- The partitions other than `p`. -/
def otherParts (p : Nat) : List Nat := [0, 1, 2, 3].filter (fun k => k != p)

theorem mem_otherParts {p k : Nat} : k ∈ otherParts p ↔ k ∈ [0, 1, 2, 3] ∧ k ≠ p := by simp [otherParts, -List.mem_cons]

/-- R136: the partitions once `p` has the dies and queues of `d`. -/
def State.repartitioned (s : State) (p : Nat) (dies : BitVec 4) (qm : BitVec 16) : State :=
  ((otherParts p).foldl (fun s k => s.setPartn k (fun x => { x with qmask := x.qmask &&& ~~~qm })) s).setPartn p
    (fun x => { x with dies := dies, qmask := if dies = 0 then 0 else qm })

theorem State.getPartn_repartitioned (s : State) (p : Nat) (dies : BitVec 4) (qm : BitVec 16) :
    ((s.repartitioned p dies qm).getPartn p).dies = dies ∧ ((s.repartitioned p dies qm).getPartn p).qmask = (if dies = 0 then 0 else qm) ∧
    ∀ k ∈ otherParts p, (s.repartitioned p dies qm).getPartn k = { s.getPartn k with qmask := (s.getPartn k).qmask &&& ~~~qm } := by
  have hnodup : (otherParts p).Nodup := List.Nodup.filter _ (by decide)
  refine ⟨?_, ?_, fun k hk => ?_⟩
  · rw [State.repartitioned, State.getPartn_setPartn, if_pos rfl]
  · rw [State.repartitioned, State.getPartn_setPartn, if_pos rfl]
  · rw [State.repartitioned, State.getPartn_setPartn, if_neg (mem_otherParts.1 hk).2]
    exact (get_foldl_once State.getPartn _ (fun s j k => s.getPartn_setPartn j k _) _ hnodup s k).trans (if_pos hk)

/-- PART_SET touches the table of partitions only. -/
theorem State.repartitioned_keeps (s : State) (p : Nat) (dies : BitVec 4) (qm : BitVec 16) :
    (s.repartitioned p dies qm).hp = s.hp ∧ (s.repartitioned p dies qm).dp = s.dp := by
  have h := foldl_keeps (fun s : State => (s.hp, s.dp)) (f := fun s k => s.setPartn k (fun x => { x with qmask := x.qmask &&& ~~~qm }))
    (fun _ _ => rfl) (otherParts p) s
  exact Prod.mk.inj h

/-- R136: some other partition has one of the dies. -/
def State.overlaps (s : State) (p : Nat) (dies : BitVec 4) : Bool := (otherParts p).any (fun k => ((s.getPartn k).dies &&& dies) != 0)

/-- R136: the partition, or another that loses a queue, runs a launch. -/
def State.partBusy (s : State) (p : Nat) (qm : BitVec 16) : Bool := (s.getPartn p).launch.isSome ||
  (otherParts p).any (fun k => (s.getPartn k).launch.isSome && ((s.getPartn k).qmask &&& qm) != 0)

theorem exec_partSet (hs : s.starts q.val seq 0x32 d) (hh : headerOk d = true) (h66 : bits d 66 2 = 0)
    (hdies : bits d 68 4 = 0 ∨ diesValid (bits d 68 4) = true) (h88 : bits d 88 424 = 0) : exec (.partSet q seq) s =
      .next (if s.overlaps (bits d 64 2) (d.extractLsb' 68 4) then s.finish q.val seq stBadField 68 0
        else if s.partBusy (bits d 64 2) (d.extractLsb' 72 16) then s.finish q.val seq stBusy 0 0
        else ((s.repartitioned (bits d 64 2) (d.extractLsb' 68 4) (d.extractLsb' 72 16)).idleChange s.regionIdles s.pkgIdle).finish
          q.val seq stOk 0 0) := by
  have hexec : exec (.partSet q seq) s = execPartSet q seq s := rfl
  rw [hexec, execPartSet, s.onDesc_starts q.val seq 0x32 d _ _ hs hh (by obtain h | h := hdies <;> simp [h66, h88, h])]
  rfl

end

theorem State.overlaps_iff (s : State) (p : Nat) (dies : BitVec 4) :
    s.overlaps p dies = true ↔ ∃ k ∈ [0, 1, 2, 3], k ≠ p ∧ (s.getPartn k).dies &&& dies ≠ 0 := by
  simp only [State.overlaps, List.any_eq_true, mem_otherParts, bne_iff_ne, and_assoc]

theorem State.partBusy_of_idle (s : State) {p : Nat} (hp : p < 4) (qm : BitVec 16) (h : s.launched = false) : s.partBusy p qm = false := by
  simp only [State.launched, List.any_eq_false] at h
  have idle : ∀ k ∈ [0, 1, 2, 3], (s.getPartn k).launch.isSome = false := fun k hk => Bool.eq_false_iff.2 (h k hk)
  have hself : p ∈ [0, 1, 2, 3] := by simp; omega
  rw [State.partBusy, idle p hself, Bool.false_or, List.any_eq_false]
  intro k hk
  rw [idle k (mem_otherParts.1 hk).1]
  exact Bool.false_ne_true

/-- A completion of a queue looks at the host port only. -/
theorem State.finish_hp_congr {s t : State} (h : t.hp = s.hp) (q seq st det : Nat) (v : BitVec 64) (f : Bool) :
    (t.finish q seq st det v f).hp = (s.finish q seq st det v f).hp := by
  unfold State.finish State.setQ
  rw [h]

/-- Settles O32: the controls rule by `State.queueCtls_obeys` and `State.engineCtls_obeys`; a repartitioned package's change of idle states
touches no table (`State.standing_idleChange`). -/
theorem controlsTakeEffectAtTheBoundary : Obligations.ControlsTakeEffectAtTheBoundary := by
  unfold Obligations.ControlsTakeEffectAtTheBoundary
  refine ⟨fun q seq d s hs hh hq h72 hmay => ?_, fun s hseq _ => ?_, fun q seq d s hs hh hu h81 => ?_, fun s hseq => ?_,
    fun q seq d s hs hh h66 hdies h88 => ?_⟩
  · exact ⟨_, exec_queueCtl hs hh hq h72 hmay, rfl, fun k => ⟨s.markStarted_ctlOff q.val seq k, s.markStarted_comps q.val seq k⟩, rfl⟩
  · obtain ⟨hdp, hscr, hnone⟩ : s.queueCtls.dp = s.dp ∧ s.queueCtls.scr = s.scr ∧ s.queueCtls.hp.qctl = [] := by
      simpa [State.besidesQueues] using s.queueCtls_besides
    exact ⟨_, rfl, hnone, fun c hc hlast => s.queueCtls_obeys hseq (mem_lastCtls.2 ⟨hc, hlast⟩), fun q hq => s.queueCtls_ctlOff hq, hdp, hscr⟩
  · exact ⟨_, exec_engineCtl hs hh hu h81, rfl, rfl⟩
  · obtain ⟨hmem, hscr, hnone⟩ : s.engineCtls.dp.mem = s.dp.mem ∧ s.engineCtls.scr = s.scr ∧ s.engineCtls.hp.ectl = [] := by
      simpa [State.besidesUnits] using s.engineCtls_besides
    exact ⟨_, rfl, hnone, fun c hc hlast => s.engineCtls_obeys hseq (mem_lastCtls.2 ⟨hc, hlast⟩),
      fun u hu => s.engineCtls_unit hu, hmem, hscr⟩
  · rw [exec_partSet hs hh h66 hdies h88]
    refine ⟨fun h => congrArg _ (if_pos ((s.overlaps_iff ..).2 h)), fun h hidle => ?_⟩
    have hfree : s.overlaps (bits d 64 2) (d.extractLsb' 68 4) = false :=
      Bool.eq_false_iff.2 (fun e => by obtain ⟨k, hk, hne, hx⟩ := (s.overlaps_iff ..).1 e; exact hx (h k hk hne))
    have hp4 : bits d 64 2 < 4 := bits_lt d 64 2
    rw [hfree, if_neg Bool.false_ne_true, s.partBusy_of_idle hp4 _ hidle, if_neg Bool.false_ne_true]
    obtain ⟨hdies', hqm, hothers⟩ := s.getPartn_repartitioned (bits d 64 2) (d.extractLsb' 68 4) (d.extractLsb' 72 16)
    obtain ⟨hhp, hdp⟩ := s.repartitioned_keeps (bits d 64 2) (d.extractLsb' 68 4) (d.extractLsb' 72 16)
    generalize s.repartitioned (bits d 64 2) (d.extractLsb' 68 4) (d.extractLsb' 72 16) = t at hdies' hqm hothers hhp hdp ⊢
    obtain ⟨hscr, hhp', hmem, hunits, hpart, -⟩ := State.standing_iff.1 (t.standing_idleChange s.regionIdles s.pkgIdle)
    have hget k : ((t.idleChange s.regionIdles s.pkgIdle).finish q.val seq stOk 0 0).getPartn k = t.getPartn k := by
      rw [State.getPartn, State.finish_scr, hscr, State.getPartn]
    refine ⟨_, rfl, ?_, ?_, fun k hk hne => ?_, State.finish_hp_congr (hhp'.trans hhp) .., ?_, ?_, ?_⟩
    · rw [hget, hdies']
    · rw [hget, hqm]
      simp only [extractLsb'_eq_zero_iff]
    · rw [hget, hothers k (mem_otherParts.2 ⟨hk, hne⟩)]
      exact ⟨rfl, rfl⟩
    · rw [State.finish_dp, hmem, hdp]
    · rw [State.finish_dp, hunits, hdp]
    · rw [State.finish_dp, hpart, hdp]

end Sys2Proof.Machine
end

section
/-! Self-tests (R137, R458–R466): a request is decided, runs in passes or while powered, and ends. -/

namespace Sys2Proof.Machine

/-! ### Tests that power up -/

/-- R463: a test whose block is in the set `p` powers up. -/
def Test.on (p : Nat → Bool) (x : Test) : Test := if p x.unit then { x with powered := true } else x

theorem Test.on_eq (p : Nat → Bool) (x : Test) : x.on p = { x with powered := (x.on p).powered } := by
  unfold Test.on
  split <;> rfl

theorem Test.on_unit (p : Nat → Bool) (x : Test) : (x.on p).unit = x.unit := by rw [Test.on_eq]

/-- R463: the oldest test that waits for power. -/
def State.waitsForPower (s : State) : Option Test := s.st.tests.find? (fun t => !t.powered && !(t.underLaunch && s.testLaunched t.unit))

/-- R463, R465: the tests of block `u` power up now. -/
def State.powered (s : State) (u : Nat) : State :=
  s.setTests { s.st with lastUp := s.clk.tb.toNat + 1, tests := s.st.tests.map (Test.on (· == u)) }

theorem State.powerTests_eq (s : State) : s.powerTests = match s.waitsForPower with
    | none => s
    | some t => if s.budgetOk t.code && decide (s.upAt t.code ≤ s.clk.tb.toNat) then s.powered t.unit else s := by
  have hon (u : Nat) : (fun x : Test => if x.unit = u then { x with powered := true } else x) = Test.on (· == u) := by
    funext x
    simp only [Test.on, beq_iff_eq]
  unfold State.powerTests
  simp only [hon]
  rfl

/-- R463: powering tests up touches no count, no queue and no memory. -/
theorem State.powerTests_frame (s : State) : s.powerTests = { s with
    st := { s.st with lastUp := s.powerTests.st.lastUp, tests := s.powerTests.st.tests }
    dp := { s.dp with mem := { s.dp.mem with
      isoRegions := s.powerTests.dp.mem.isoRegions
      isoStacks := s.powerTests.dp.mem.isoStacks } } } := by
  rw [s.powerTests_eq]
  split
  · rfl
  · split <;> rfl

theorem State.powerTests_tests (s : State) : ∃ p, s.powerTests.st.tests = s.st.tests.map (Test.on p) := by
  have none : s.st.tests = s.st.tests.map (Test.on (fun _ => false)) := (List.map_id _).symm
  rw [s.powerTests_eq]
  split
  · exact ⟨_, none⟩
  · split
    · exact ⟨_, rfl⟩
    · exact ⟨_, none⟩

/-- The tests of a block, after some have powered up. -/
theorem find?_map_on (p : Nat → Bool) (l : List Test) (u : Nat) :
    (l.map (Test.on p)).find? (fun y => y.unit == u) = (l.find? (fun y => y.unit == u)).map (Test.on p) := by
  rw [List.find?_map]
  congr 2
  funext x
  exact congrArg (· == u) (Test.on_unit p x)

/-! ### The decision -/

/-- R401: a wake changes the power block and the edges, and none happens where a launch runs. -/
theorem State.testWakes_frame (s : State) (u : Nat) : s.testWakes u = { s with pw := (s.testWakes u).pw, edge := (s.testWakes u).edge } := by
  unfold State.testWakes
  split
  · split
    · rfl
    · exact s.wake_frame _ 0
  · rfl

theorem State.testWakes_launched {s : State} {u : Nat} (h : s.testLaunched u = true) : s.testWakes u = s := by
  unfold State.testWakes
  split
  · exact if_pos h
  · rfl

/-- R459: without a launch on its die, the decision on a test looks at no power state and no edge. -/
theorem State.testRefusal_free (s : State) (w : Pw) (e : Edge) (u code : Nat) (h : s.testLaunched u = false) :
    ({ s with pw := w, edge := e } : State).testRefusal u code = s.testRefusal u code := by
  have h' : ({ s with pw := w, edge := e } : State).testLaunched u = false := h
  unfold State.testRefusal
  simp only [h, h', Bool.and_false, Bool.false_and, Bool.false_eq_true, if_false]
  rfl

theorem State.testRefusal_testWakes (s : State) (u code : Nat) : (s.testWakes u).testRefusal u code = s.testRefusal u code := by
  cases h : s.testLaunched u with
  | true => rw [State.testWakes_launched h]
  | false =>
    rw [State.testWakes_frame]
    exact s.testRefusal_free _ _ u code h

/-- R459: the test that an accepted request becomes. -/
def State.newTest (s : State) (q seq u code : Nat) : Test :=
  { q := q, seq := seq, unit := u, code := code, passes := 0, underLaunch := isRouter u && s.testLaunched u, left := testNs code,
    powered := false, passAt := none }

/-- R459: the package once a request is accepted, before its test may power up. -/
def State.accepts (s : State) (q seq u code : Nat) : State :=
  { (s.testWakes u).markStarted q seq with st := { s.st with tests := s.st.tests ++ [s.newTest q seq u code] } }

section
variable {s : State} {q seq u code : Nat}

theorem State.decideTest_refused {y : Nat} (h : s.testRefusal u code = some y) : s.decideTest q seq u code =
    ({ s.testWakes u with st := { s.st with refuse := satAdd s.st.refuse 1 } }).finish q seq stBusy 0 (BitVec.ofNat 64 (y * 256)) := by
  have hst : (s.testWakes u).st = s.st := by rw [State.testWakes_frame]
  unfold State.decideTest
  simp only [State.testRefusal_testWakes, h, hst]

theorem State.decideTest_accepted (h : s.testRefusal u code = none) : s.decideTest q seq u code = (s.accepts q seq u code).powerTests := by
  have hst : (s.testWakes u).st = s.st := by rw [State.testWakes_frame]
  have hl : (s.testWakes u).testLaunched u = s.testLaunched u := by rw [State.testWakes_frame]; rfl
  unfold State.decideTest
  simp only [State.testRefusal_testWakes, h, hl, State.setQ_st, State.markStarted, hst]
  rfl

/-- R459: a block that is under test takes no other. -/
theorem State.find?_of_accepted (h : s.testRefusal u code = none) : s.st.tests.find? (fun y => y.unit == u) = none := by
  rw [List.find?_eq_none]
  intro y hy hu
  have hin : s.st.tests.any (fun t => t.unit == u) = true := List.any_eq_true.2 ⟨y, hy, hu⟩
  unfold State.testRefusal at h
  extract_lets at h
  split at h
  · exact Option.some_ne_none _ h
  · exact Option.some_ne_none _ h

/-- R459: what the list of tests holds for the block of an accepted request. -/
theorem State.find?_accepted (h : s.testRefusal u code = none) :
    ∃ p, (s.decideTest q seq u code).st.tests.find? (fun y => y.unit == u) = some ((s.newTest q seq u code).on p) := by
  rw [State.decideTest_accepted h]
  obtain ⟨p, hp⟩ := (s.accepts q seq u code).powerTests_tests
  refine ⟨p, ?_⟩
  rw [hp, find?_map_on, State.accepts, List.find?_append, State.find?_of_accepted h]
  simp [State.newTest]

/-- R459: an accepted request moves no time, no launch and no memory. -/
theorem State.decideTest_keeps (h : s.testRefusal u code = none) : (s.decideTest q seq u code).dp.mem.cells = s.dp.mem.cells ∧
    (s.decideTest q seq u code).scr = s.scr ∧ (s.decideTest q seq u code).clk = s.clk ∧
    (s.decideTest q seq u code).st.undecided = s.st.undecided := by
  rw [State.decideTest_accepted h, State.powerTests_frame, State.accepts, State.testWakes_frame]
  exact ⟨rfl, rfl, rfl, rfl⟩

theorem State.decideTest_accepts (h : s.testRefusal u code = none) : testAccepted s (s.decideTest q seq u code) q seq u code := by
  obtain ⟨p, hp⟩ := State.find?_accepted (q := q) (seq := seq) h
  obtain ⟨hcells, hscr, hclk, -⟩ := State.decideTest_keeps (q := q) (seq := seq) h
  refine ⟨_, hp, ?_, ?_, ?_, ?_, hcells, hscr, hclk⟩ <;> rw [Test.on_eq] <;> rfl

end

/-! ### A SELFTEST descriptor -/

section
variable {s : State} {q seq code u : Nat} {d : BitVec 512}

/-- R137, R458: the fields of a SELFTEST that starts. -/
theorem State.selftest_starts (hs : s.starts q seq 0x34 d) (hh : headerOk d = true) (hu : u = bits d 64 16) : s.selftest q seq code =
    if unitExists u = false then s.finish q seq stBadField 64 0
    else if testSuits (bits d 80 8) u = false then s.finish q seq stBadField 80 0
    else if bits d 88 424 ≠ 0 then s.finish q seq stBadField 88 0
    else if bits d 80 8 != code then s
    else if s.st.undecided.any (fun x => x.q == q && x.seq == seq) then s
    else if testWaits s u then { s with st := { s.st with undecided := s.st.undecided ++ [⟨q, seq, u, code⟩] } }
    else s.decideTest q seq u code := by
  subst hu
  unfold State.selftest
  by_cases hu : unitExists (bits d 64 16) = false
  · rw [if_pos hu, s.onDesc_refused q seq 0x34 64 d _ _ hs hh (by simp [hu])]
  rw [if_neg hu, Bool.not_eq_false] at *
  by_cases ht : testSuits (bits d 80 8) (bits d 64 16) = false
  · rw [if_pos ht, s.onDesc_refused q seq 0x34 80 d _ _ hs hh (by simp [hu, ht])]
  rw [if_neg ht, Bool.not_eq_false] at *
  by_cases h88 : bits d 88 424 ≠ 0
  · rw [if_pos h88, s.onDesc_refused q seq 0x34 88 d _ _ hs hh (by simp [hu, ht, h88])]
  · rw [if_neg h88, s.onDesc_starts q seq 0x34 d _ _ hs hh (by simp [hu, ht, not_not.1 h88])]
    rfl

theorem undecided_iff (l : List Undecided) (q seq : Nat) :
    l.any (fun x => x.q == q && x.seq == seq) = false ↔ ∀ x, x ∈ l → ¬ (x.q = q ∧ x.seq = seq) := by
  simp only [List.any_eq_false, Bool.and_eq_true, beq_iff_eq]

theorem State.selftest_answers (s : State) (q seq code : Nat) : testAnswers s q seq code (.next (s.selftest q seq code)) := by
  refine ⟨fun h => ?_, fun d u hs hh hu => ?_⟩
  · unfold State.selftest State.onDesc State.onStart
    rw [h]
  · rw [State.selftest_starts hs hh hu]
    refine ⟨fun h => by rw [if_pos h], fun h h' => by rw [if_neg (by simp [h]), if_pos h'],
      fun h h' h88 => by rw [if_neg (by simp [h]), if_neg (by simp [h']), if_pos h88], fun h h' h88 => ?_⟩
    rw [if_neg (by simp [h]), if_neg (by simp [h']), if_neg (by simp [h88])]
    refine ⟨fun hc => by rw [if_pos (by simpa using hc)], fun hc hun => ?_⟩
    rw [if_neg (by simpa using hc), (undecided_iff ..).2 hun, if_neg Bool.false_ne_true]
    exact ⟨fun hw => by rw [if_pos hw], fun hw y hy => by rw [if_neg (ne_true_of_eq_false hw), State.decideTest_refused hy]⟩

theorem State.selftest_accepts (h : testAsked s q seq code d u) (hr : s.testRefusal u code = none) :
    testAccepted s (s.selftest q seq code) q seq u code := by
  obtain ⟨hs, hh, hu, hunit, hsuits, h88, hcode, hun, hw⟩ := h
  rw [State.selftest_starts hs hh hu, if_neg (by simp [hunit]), if_neg (by simp [hsuits]), if_neg (by simp [h88]), if_neg (by simp [hcode]),
    (undecided_iff ..).2 hun, if_neg Bool.false_ne_true, if_neg (ne_true_of_eq_false hw)]
  exact State.decideTest_accepts hr

end

/-! ### Passes -/

theorem isRouter_regionUid (r : Fin 64) : isRouter (regionUid r.val) = true ∧ regionOf (regionUid r.val) = r.val := by
  revert r
  decide

/-- R463: the region of a router under test is isolated. -/
theorem St.isoRegions_of_powered {t : St} {x : Test} (hx : x ∈ t.tests) (hp : x.powered = true) (hr : isRouter x.unit = true)
    (h : regionOf x.unit < 64) : t.isoRegions.getLsbD (regionOf x.unit) = true := by
  refine foldl_reaches (I := fun _ => True) (P := fun b : BitVec 64 => b.getLsbD (regionOf x.unit) = true) (fun _ _ _ => trivial)
    (fun b _ => ?_) (fun y _ _ b _ hb => ?_) 0 trivial (.inl hx)
  · rw [hp, hr, Bool.and_self, if_pos rfl]
    simp [h]
  · split
    · rw [BitVec.getLsbD_or, hb, Bool.true_or]
    · exact hb

/-- R461: a test that had a pass of `work` ns in the stroke in progress. -/
def State.passed (s : State) (u work : Nat) (x : Test) : Test :=
  if x.unit = u then { x with powered := true, passes := x.passes + 1, left := x.left - work, passAt := some (s.clk.stroke, x.left) } else x

theorem State.passed_unit (s : State) (u work : Nat) (x : Test) : (s.passed u work x).unit = x.unit := by
  unfold State.passed
  split <;> rfl

/-- R461: the package once the pass of test `t` on block `u` has run. -/
def State.passRun (s : State) (u : Nat) (t : Test) : State :=
  (s.advance (s.passAt t.code)).setTests { s.st with
    lastUp := s.passAt t.code + 1
    tests := s.st.tests.map (s.passed u (min t.left (s.passEnd - (s.passAt t.code + 20000)))) }

section
variable {r : Fin 64} {s : State} {t : Test} (hfind : s.st.tests.find? (fun y => y.unit == regionUid r.val && y.underLaunch) = some t)
include hfind

theorem exec_selftestPass : exec (.selftestPass r) s = .next (
    if t.powered || (match t.passAt with
        | some (n, _) => n == s.clk.stroke
        | none => false) || t.left = 0 || !(s.testLaunched (regionUid r.val)) || !(s.servicedRegion r.val) || s.dp.fr.voided || !(s.passFits t.code)
    then s else s.passRun (regionUid r.val) t) := by
  have hexec : exec (.selftestPass r) s = execSelftestPass r s := rfl
  rw [hexec, execSelftestPass, hfind]
  rfl

theorem exec_selftestPass_waits (h : s.servicedRegion r.val = false ∨ t.left = 0 ∨ s.dp.fr.voided = true ∨ s.passFits t.code = false) :
    exec (.selftestPass r) s = .next s := by
  rw [exec_selftestPass hfind]
  refine congrArg _ (if_pos ?_)
  obtain h | h | h | h := h <;> simp [h]

theorem exec_selftestPass_runs (hs : s.servicedRegion r.val = true) (hl : s.testLaunched (regionUid r.val) = true) (hleft : t.left ≠ 0)
    (hv : s.dp.fr.voided = false) (hfit : s.passFits t.code = true) (hp : t.powered = false) (hat : t.passAt = none) :
    exec (.selftestPass r) s = .next (s.passRun (regionUid r.val) t) := by
  rw [exec_selftestPass hfind]
  exact congrArg _ (if_neg (by simp [hs, hl, hleft, hv, hfit, hp, hat]))

end

/-- R461: the test of the block once its pass has run. -/
theorem State.find?_passRun {s : State} {u : Nat} {t : Test} (h : s.st.tests.find? (fun y => y.unit == u) = some t) :
    (s.passRun u t).st.tests.find? (fun y => y.unit == u) = some { t with
      powered := true
      passes := t.passes + 1
      left := t.left - min t.left (s.passEnd - (s.passAt t.code + 20000))
      passAt := some (s.clk.stroke, t.left) } := by
  have hu : t.unit = u := eq_of_beq (List.find?_some h :)
  rw [State.passRun, State.setTests_st, List.find?_map]
  have hcomp : ((fun y : Test => y.unit == u) ∘ s.passed u (min t.left (s.passEnd - (s.passAt t.code + 20000)))) = fun y => y.unit == u :=
    funext fun x => congrArg (· == u) (s.passed_unit ..)
  rw [hcomp, h, Option.map_some, State.passed, if_pos hu]

/-! ### The end of a test -/

/-- R464: only SRAM_M and the tests of a stack leave memory undefined. -/
theorem Dp.testMemory_cells (d : Dp) (u code : Nat) (rows : List (BitVec 64)) (h4 : code ≠ 0x04) (h10 : code ≠ 0x10) (h11 : code ≠ 0x11) :
    (d.testMemory u code rows).mem.cells = d.mem.cells := by
  unfold Dp.testMemory
  simp only [if_neg h4, if_neg h10, beq_eq_false_iff_ne.2 h11, Bool.false_and, Bool.not_false, List.filter_true]

theorem Dp.reinit_mem (d : Dp) (u : Nat) : (d.reinit u).mem = d.mem ∧ (d.reinit u).rlog = d.rlog := by
  unfold Dp.reinit
  split <;> exact ⟨rfl, rfl⟩

theorem logFindings_head (u code : Nat) (l : List Finding) (r : RLog) : (logFindings u code l r).head = r.head + BitVec.ofNat 32 l.length := by
  unfold logFindings
  induction l generalizing r with
  | nil => exact (BitVec.add_zero _).symm
  | cons f l ih =>
    rw [List.foldl_cons, ih, logEntry, List.length_cons, BitVec.add_assoc, BitVec.ofNat_add, BitVec.add_comm (BitVec.ofNat 32 l.length)]
    rfl

/-- R460, R464: what the end of a test comes to: a data path and a self-test block, the descriptor's completion, and power for others. -/
theorem State.endTest_eq (s : State) (t : Test) (found : List Finding) : ∃ (d : Dp) (st : St) (v : BitVec 64),
    s.endTest t found = ((({ s with dp := d } : State).setTests st).finish t.q t.seq stOk 0 v).powerTests ∧
    st.tests = s.st.tests.filter (fun x => x.unit != t.unit) ∧
    (t.code ≠ 0x30 → st.pass = (if found = [] then satAdd s.st.pass 1 else s.st.pass) ∧
      st.fail = (if found = [] then s.st.fail else satAdd s.st.fail 1) ∧ d.rlog = logFindings t.unit t.code found s.dp.rlog) ∧
    (t.code ≠ 0x04 → t.code ≠ 0x10 → t.code ≠ 0x11 → d.mem.cells = s.dp.mem.cells) := by
  unfold State.endTest
  extract_lets slots rows first fix repair n res rlog st₀ st d₀ d s'
  refine ⟨d, st, _, rfl, rfl, fun hcode => ?_, fun h4 h10 h11 => ?_⟩
  · have hrepair : repair = false := beq_eq_false_iff_ne.2 hcode
    have hst : st₀ = s.st := if_neg (ne_true_of_eq_false hrepair)
    have hlog : d.rlog = rlog := (Dp.reinit_mem ..).2
    have hres : res = if found = [] then 0 else 1 := by
      simp only [res, n, hrepair, Bool.false_eq_true, if_false, List.length_eq_zero_iff]
    refine ⟨?_, ?_, hlog.trans (if_neg (ne_true_of_eq_false hrepair))⟩
    all_goals
      simp only [st, hst, hres]
      split <;> rfl
  · rw [(Dp.reinit_mem ..).1, Dp.testMemory_cells _ _ _ _ h4 h10 h11]

/-- R461: a test has done its work. -/
def State.testDone (s : State) (x : Test) : Bool := if x.underLaunch && s.testLaunched x.unit then x.left == 0 else x.powered

section
variable {u : BitVec 16} {found : List Finding} {s : State}

theorem exec_selftestEnd_none (h : s.st.tests.find? (fun t => t.unit == u.toNat) = none) : exec (.selftestEnd u found) s = .next s := by
  have hexec : exec (.selftestEnd u found) s = execSelftestEnd u found s := rfl
  rw [hexec, execSelftestEnd, h]

theorem exec_selftestEnd {x : Test} (h : s.st.tests.find? (fun t => t.unit == u.toNat) = some x) :
    exec (.selftestEnd u found) s = .next (if s.testDone x then s.endTest x found else s) := by
  have hexec : exec (.selftestEnd u found) s = execSelftestEnd u found s := rfl
  rw [hexec, execSelftestEnd, h]
  rfl

end

/-- R460, R464, R466: a test that ends. -/
theorem State.endTest_ends (s : State) (x : Test) (found : List Finding) (t : State) (ht : t = s.endTest x found) :
    (∀ y, y ∈ t.st.tests → y.unit ≠ x.unit) ∧ (t.getQ x.q).fetched.find? (fun y => y.seq == x.seq) = none ∧ t.scr = s.scr ∧
    (x.code ≠ 0x30 → found = [] → t.st.pass = satAdd s.st.pass 1 ∧ t.st.fail = s.st.fail ∧ t.dp.rlog = s.dp.rlog) ∧
    (x.code ≠ 0x30 → found ≠ [] → t.st.fail = satAdd s.st.fail 1 ∧ t.st.pass = s.st.pass ∧
      t.dp.rlog.head = s.dp.rlog.head + BitVec.ofNat 32 found.length) ∧
    (x.code ≠ 0x04 → x.code ≠ 0x10 → x.code ≠ 0x11 → t.dp.mem.cells = s.dp.mem.cells) := by
  obtain ⟨d, st, v, heq, htests, hcounts, hcells⟩ := s.endTest_eq x found
  rw [heq] at ht
  obtain ⟨p, hp⟩ := State.powerTests_tests ((({ s with dp := d } : State).setTests st).finish x.q x.seq stOk 0 v)
  rw [← ht] at hp
  have hframe := ht.trans (State.powerTests_frame _)
  have hpass : t.st.pass = st.pass := by rw [hframe]; rfl
  have hfail : t.st.fail = st.fail := by rw [hframe]; rfl
  have hrlog : t.dp.rlog = d.rlog := by rw [hframe]; rfl
  refine ⟨fun y hy => ?_, ?_, by rw [hframe]; rfl, fun hc hf => ?_, fun hc hf => ?_, fun h4 h10 h11 => ?_⟩
  · rw [hp] at hy
    obtain ⟨z, hz, rfl⟩ := List.mem_map.1 hy
    have hz' : z ∈ st.tests := hz
    rw [htests, List.mem_filter] at hz'
    rw [Test.on_unit]
    exact bne_iff_ne.1 hz'.2
  · have hq : t.getQ x.q = (s.getQ x.q).finish x.seq stOk 0 v false := by
      rw [hframe]
      exact (State.getQ_finish ..).trans (if_pos rfl)
    rw [hq, Queue.finish_fetched, List.find?_eq_none]
    intro y hy
    simpa using (List.mem_filter.1 hy).2
  · obtain ⟨h1, h2, h3⟩ := hcounts hc
    rw [hpass, hfail, hrlog, h1, h2, h3, if_pos hf, if_pos hf, hf]
    exact ⟨rfl, rfl, rfl⟩
  · obtain ⟨h1, h2, h3⟩ := hcounts hc
    rw [hpass, hfail, hrlog, h1, h2, h3, if_neg hf, if_neg hf, logFindings_head]
    exact ⟨rfl, rfl, rfl⟩
  · rw [hframe]
    exact hcells h4 h10 h11

/-! ### Deferred starts -/

/-- R459: S+10 µs has come for the request `x`. -/
def State.due (s : State) (x : Undecided) : State := { s.advance (s.clk.sstart.toNat + 10000) with st := { s.st with
  undecided := s.st.undecided.filter (fun y => !(y.q == x.q && y.seq == x.seq)) } }

theorem State.mem_due (s : State) (x y : Undecided) :
    y ∈ (s.due x).st.undecided ↔ y ∈ s.st.undecided ∧ ¬ (y.q = x.q ∧ y.seq = x.seq) := by
  simp only [State.due, List.mem_filter, Bool.not_eq_true', ← Bool.not_eq_true, Bool.and_eq_true, beq_iff_eq]

section
variable {u : BitVec 16} {s : State}

theorem exec_selftestDeferredStart_decides {x : Undecided} (h : s.st.undecided.find? (fun x => x.unit == u.toNat) = some x) :
    exec (.selftestDeferredStart u) s = .next ((s.due x).decideTest x.q x.seq x.unit x.code) := by
  have hexec : exec (.selftestDeferredStart u) s = execSelftestDeferredStart u s := rfl
  rw [hexec, execSelftestDeferredStart, h]
  rfl

theorem exec_selftestDeferredStart_powers (h : s.st.undecided.find? (fun x => x.unit == u.toNat) = none) :
    exec (.selftestDeferredStart u) s = .next (match s.waitsForPower with
      | some t => if t.unit = u.toNat && s.budgetOk t.code then (s.advance (s.upAt t.code)).powerTests else s
      | none => s) := by
  have hexec : exec (.selftestDeferredStart u) s = execSelftestDeferredStart u s := rfl
  rw [hexec, execSelftestDeferredStart, h]
  rfl

end

/-- R465: at the time a test may power up, it may. -/
theorem State.upAt_advance (s : State) (code : Nat) (hr : s.clk.running = true) (h : s.upAt code < 2 ^ 64) :
    (s.advance (s.upAt code)).upAt code ≤ (s.advance (s.upAt code)).clk.tb.toNat := by
  have hle : s.upAt code ≤ (s.advance (s.upAt code)).clk.tb.toNat := Clk.le_advance s.clk _ hr h
  generalize hn : s.upAt code = n at hle ⊢
  unfold State.upAt at hn ⊢
  change (if (s.st.lastUp = 0 || s.pw.ramp = 0) = true then _ else max _ (s.st.lastUp - 1 + testWatts code * 1000000 / s.pw.ramp.toNat)) ≤ _
  split
  · exact Nat.le_refl _
  · next hc =>
    rw [if_neg hc] at hn
    exact Nat.max_le.2 ⟨Nat.le_refl _, (Nat.le_max_right ..).trans (hn.trans_le hle)⟩

/-- R463, R465: the oldest waiting test powers up when its time has come. -/
theorem State.powerTests_advance {s : State} {t : Test} (h : s.waitsForPower = some t) (hb : s.budgetOk t.code = true)
    (hr : s.clk.running = true) (hup : s.upAt t.code < 2 ^ 64) :
    (s.advance (s.upAt t.code)).powerTests = (s.advance (s.upAt t.code)).powered t.unit := by
  have hwait : (s.advance (s.upAt t.code)).waitsForPower = some t := h
  have hbudget : (s.advance (s.upAt t.code)).budgetOk t.code = true := hb
  rw [State.powerTests_eq, hwait]
  exact if_pos (by rw [hbudget, decide_eq_true (s.upAt_advance t.code hr hup), Bool.and_self])

/-- Settles O55: every code's command is `State.selftest`; a pass, an end and a deferred start are `State.passRun`, `State.endTest_ends` and
`State.powerTests_advance`, or the decision of `State.decideTest`. -/
theorem selfTestsRunWhenSafe : Obligations.SelfTestsRunWhenSafe := by
  unfold Obligations.SelfTestsRunWhenSafe
  refine ⟨fun q seq s => ?_, fun r s t hfind => ⟨exec_selftestPass_waits hfind, fun hs hl hleft hv hfit hp hat hfirst => ?_⟩,
    fun u found s => ⟨exec_selftestEnd_none, fun x hx => ?_⟩,
    fun u s => ⟨fun hun hwait => ?_, fun t hun hwait hu hb hr hup => ?_, fun x hx => ?_⟩⟩
  · have accepted (code : Nat) (d : BitVec 512) (u : Nat) (ha : testAsked s q.val seq code d u) (hr : s.testRefusal u code = none) :
        ∃ t, (.next (s.selftest q.val seq code) : Host.Outcome State Fault Refusal) = .next t ∧ testAccepted s t q.val seq u code :=
      ⟨_, rfl, State.selftest_accepts ha hr⟩
    exact ⟨s.selftest_answers .., accepted 1, s.selftest_answers .., accepted 2, s.selftest_answers .., accepted 3, s.selftest_answers ..,
      accepted 4, s.selftest_answers .., accepted 16, s.selftest_answers .., accepted 17, s.selftest_answers .., accepted 32,
      s.selftest_answers .., accepted 48⟩
  · obtain ⟨hrouter, hregion⟩ := isRouter_regionUid r
    have hrun := State.find?_passRun hfirst
    refine ⟨_, _, exec_selftestPass_runs hfind hs hl hleft hv hfit hp hat, hrun, rfl, rfl, rfl, rfl, ?_, rfl, rfl⟩
    have hunit : t.unit = regionUid r.val := eq_of_beq (List.find?_some hfirst :)
    have hiso := St.isoRegions_of_powered (List.mem_of_find?_eq_some hrun) rfl (by rw [hunit, hrouter]) (by rw [hunit, hregion]; exact r.isLt)
    rwa [hunit, hregion] at hiso
  · rw [exec_selftestEnd hx]
    have hunit : x.unit = u.toNat := eq_of_beq (List.find?_some hx :)
    exact ⟨fun h => congrArg _ (if_neg (ne_true_of_eq_false h)), fun h => ⟨_, congrArg _ (if_pos h), hunit ▸ s.endTest_ends x found _ rfl⟩⟩
  · have hnone : s.waitsForPower = none := hwait
    rw [exec_selftestDeferredStart_powers hun, hnone]
  · have hsome : s.waitsForPower = some t := hwait
    rw [exec_selftestDeferredStart_powers hun, hsome]
    refine ⟨_, congrArg _ ((if_pos (by rw [hb, hu]; simp)).trans (State.powerTests_advance hsome hb hr hup)), ⟨t.on (· == t.unit), ?_, ?_, ?_⟩,
      rfl, rfl, rfl⟩
    · exact List.mem_map.2 ⟨t, List.mem_of_find?_eq_some hsome, rfl⟩
    · rw [Test.on_unit, hu]
    · simp [Test.on]
  · rw [exec_selftestDeferredStart_decides hx]
    have hrefusal : (s.advance (s.clk.sstart.toNat + 10000)).testRefusal x.unit x.code = (s.due x).testRefusal x.unit x.code := rfl
    rw [hrefusal]
    refine ⟨_, rfl, ?_⟩
    cases hr : (s.due x).testRefusal x.unit x.code with
    | some y =>
      rw [State.decideTest_refused hr]
      have hscr : ((s.due x).testWakes x.unit).scr = s.scr := by rw [State.testWakes_frame]; rfl
      exact ⟨s.mem_due x, hscr, fun _ _ => ⟨rfl, rfl⟩⟩
    | none =>
      obtain ⟨-, hscr, -, hundecided⟩ := State.decideTest_keeps (q := x.q) (seq := x.seq) hr
      exact ⟨fun y => hundecided ▸ s.mem_due x y, hscr, fun r h => absurd h (by simp)⟩

end Sys2Proof.Machine
end

section
/-! What line accesses, reports and packets leave of the Flues (R345, R363): the operations in flight, the launches and the queues. -/

namespace Sys2Proof.Machine

/-! ### Reports and accesses -/

theorem unmapped_cle (e : Env) (u access a : Nat) (d : Dp) : (unmapped e u access a d).cle = d.cle := record_cle ..

theorem windowViolation_cle (e : Env) (u a : Nat) (d : Dp) : (windowViolation e u a d).cle = d.cle := by
  unfold windowViolation
  refine (record_cle ..).trans ?_
  split <;> rfl

theorem voidStroke_cle (e : Env) (cause : Nat) (d : Dp) : (voidStroke e cause d).cle = d.cle := by
  unfold voidStroke
  split
  · rfl
  · exact (record_cle ..).trans (foldl_keeps (fun d : Dp => d.cle) (fun d u => trace_cle ..) _ d)

theorem writeReport_cle (e : Env) (cls action unit detail : Nat) (d : Dp) : (writeReport e cls action unit detail d).cle = d.cle :=
  record_cle ..

theorem raiseFault_cle (e : Env) (cls action unit detail : Nat) (d : Dp) : (raiseFault e cls action unit detail d).cle = d.cle := by
  unfold raiseFault
  extract_lets entry d'
  split
  · exact (writeReport_cle ..).trans (voidStroke_cle ..)
  · exact writeReport_cle ..

theorem voidFault_cle (e : Env) (cls cause unit detail : Nat) (d : Dp) : (voidFault e cls cause unit detail d).cle = d.cle := by
  unfold voidFault
  split
  · exact voidStroke_cle ..
  · exact (raiseFault_cle ..).trans (voidStroke_cle ..)

theorem raiseBlot_cle (e : Env) (u src : Nat) (d : Dp) : (raiseBlot e u src d).cle = d.cle := by
  unfold raiseBlot
  split <;> rfl

theorem rowError_cle (e : Env) (key : Nat) (ue : Bool) (d : Dp) : (rowError e key ue d).cle = d.cle := by
  unfold rowError
  dsimp only
  repeat' split
  all_goals rfl

theorem correct_cle (e : Env) (unit a key : Nat) (l : Loc) (d : Dp) : (correct e unit a key l d).cle = d.cle := by
  unfold correct
  extract_lets m₀ m d'
  have h : d'.cle = d.cle := record_cle ..
  split
  · exact (rowError_cle ..).trans h
  · exact h

theorem ueFound_cle (e : Env) (unit path a mc : Nat) (d : Dp) : (ueFound e unit path a mc d).cle = d.cle := by
  unfold ueFound
  extract_lets m₀ m d'
  have h : d'.cle = d.cle := record_cle ..
  repeat' split
  · exact (rowError_cle ..).trans h
  · exact (rowError_cle ..).trans h
  · exact h
  · exact h

theorem ueVoid_cle (e : Env) (unit a mc : Nat) (d : Dp) : (ueVoid e unit a mc d).cle = d.cle := by
  unfold ueVoid
  extract_lets d'
  split
  · exact ueFound_cle ..
  · exact (voidFault_cle ..).trans (ueFound_cle ..)

theorem readHome_cle (e : Env) (u a : Nat) (l : Loc) (d : Dp) : (readHome e u a l d).2.cle = d.cle := by
  unfold readHome
  dsimp only
  split
  · rfl
  · exact correct_cle ..
  · exact ueVoid_cle ..

theorem readLoc_cle (e : Env) (u a : Nat) (l : Loc) (d : Dp) : (readLoc e u a l d).2.cle = d.cle := by
  unfold readLoc
  dsimp only
  split
  · exact readHome_cle ..
  · exact readHome_cle ..

theorem storeMask_cle (a : Nat) (l : Loc) (mask v : Nat) (d : Dp) : (storeMask a l mask v d).cle = d.cle := by
  unfold storeMask
  split <;> rfl

/-- R99, R226: an add-write. -/
theorem addWriteLine_cle (e : Env) (u a : Nat) (addends : List Fp) (d : Dp) : (addWriteLine e u a addends d).cle = d.cle := by
  unfold addWriteLine
  split
  · exact unmapped_cle ..
  · next l _ =>
    split
    · exact unmapped_cle ..
    split
    · exact windowViolation_cle ..
    have h := readHome_cle e u a l (d.crossTo (uidDie u) a l)
    split
    · next hr =>
      rw [hr] at h
      exact h
    · next v d' hr =>
      rw [hr] at h
      extract_lets els d''
      split
      · exact (raiseBlot_cle ..).trans h
      · exact h

/-! ### Lines of a Flue (R345) -/

theorem flRead_cle (e : Env) (d : Nat) (host : Bool) (a : Nat) (x : Dp) : (flRead e d host a x).2.cle = x.cle := by
  unfold flRead
  dsimp only
  split
  · exact unmapped_cle ..
  · split
    · exact readLoc_cle ..
    · split
      · exact readLoc_cle ..
      · exact unmapped_cle ..

theorem flMay_cle (e : Env) (d : Nat) (host : Bool) (a : Nat) (x : Dp) : (flMay e d host a x).2.cle = x.cle := by
  unfold flMay
  dsimp only
  split
  · exact unmapped_cle ..
  split
  · rfl
  split
  · split
    · rfl
    · exact windowViolation_cle ..
  · split
    · exact unmapped_cle ..
    split
    · rfl
    · exact windowViolation_cle ..

theorem flWriteMask_cle (e : Env) (d : Nat) (host : Bool) (a mask v : Nat) (x : Dp) : (flWriteMask e d host a mask v x).2.cle = x.cle := by
  have h := flMay_cle e d host a x
  unfold flWriteMask
  split
  · next hm =>
    rw [hm] at h
    exact h
  · next hm =>
    rw [hm] at h
    exact (storeMask_cle ..).trans h

theorem flWrite_cle (e : Env) (d : Nat) (host : Bool) (a : Nat) (v : BitVec 512) (x : Dp) : (flWrite e d host a v x).2.cle = x.cle :=
  flWriteMask_cle ..

theorem flWrites_cle (e : Env) (d : Nat) (host : Bool) (a : Nat) (l : List (BitVec 512)) (x : Dp) : (flWrites e d host a l x).cle = x.cle :=
  foldl_keeps (fun x : Dp => x.cle) (fun _ _ => flWrite_cle ..) _ x

theorem flReads_cle (e : Env) (d : Nat) (host : Bool) (n a : Nat) (x : Dp) : (flReads e d host n a x).2.cle = x.cle := by
  induction n generalizing a x with
  | zero => rfl
  | succ n ih =>
    have h := flRead_cle e d host a x
    rw [flReads]
    split
    · next hr =>
      rw [hr] at h
      exact h
    · next v y hr =>
      rw [hr] at h
      have g := ih (a + 64) y
      split
      · next hs =>
        rw [hs] at g
        exact g.trans h
      · next hs =>
        rw [hs] at g
        exact g.trans h

theorem flSource_cle (e : Env) (d : Nat) (o : FlOp) (n a : Nat) (x : Dp) : (flSource e d o n a x).2.cle = x.cle := by
  induction n generalizing a x with
  | zero => rfl
  | succ n ih =>
    have h := flReads_cle e d o.host.isSome (o.count / 64) (a + o.off) x
    rw [flSource]
    split
    · next hr =>
      rw [hr] at h
      exact h
    · next l y hr =>
      rw [hr] at h
      have g := ih (a + o.stride) y
      split
      · next hs =>
        rw [hs] at g
        exact g.trans h
      · next hs =>
        rw [hs] at g
        exact g.trans h

theorem flDeliverSlab_cle (e : Env) (d : Nat) (o : FlOp) (k : Nat) (l : List (BitVec 512)) (x : Dp) :
    (flDeliverSlab e d o k l x).cle = x.cle := by
  unfold flDeliverSlab
  extract_lets u f x'
  have h : x'.cle = x.cle := by
    change (if _ then raiseBlot e u 3 x else x).cle = x.cle
    split
    · exact raiseBlot_cle ..
    · rfl
  split
  · refine (foldl_keeps (fun x : Dp => x.cle) (fun x y => ?_) _ x').trans h
    exact foldl_keeps (fun x : Dp => x.cle) (fun x c => addWriteLine_cle ..) _ x
  · refine (foldl_keeps (fun x : Dp => x.cle) (fun x y => ?_) _ x').trans h
    dsimp only
    split
    · exact flWrite_cle ..
    · exact flWrite_cle ..

/-! ### Packets -/

/-- The queues, the launches and the Flues. -/
def State.flueView (s : State) : Hp × Scr × Tab Cle := (s.hp, s.scr, s.dp.cle)

theorem State.flueView_dp (s : State) {x : Dp} (h : x.cle = s.dp.cle) : ({ s with dp := x } : State).flueView = s.flueView := by
  simp only [State.flueView, h]

theorem State.flueView_routePacket (s : State) (d : Nat) (arrived : Option (Nat × Nat)) (k : Packet) :
    (s.routePacket d arrived k).flueView = s.flueView := by
  unfold State.routePacket
  split
  · rfl
  · exact State.flueView_dp (s.setPort (6 * d) (fun x => { x with drop := satAdd x.drop 1 })) (record_cle ..)
  · rfl
  · rfl

theorem State.flueView_originate (s : State) (d unit typ vc dpkg dpod addr : Nat) (tag : BitVec 64) (args : BitVec 256)
    (lines : List (BitVec 512)) : (s.originate d unit typ vc dpkg dpod addr tag args lines).flueView = s.flueView := by
  unfold State.originate
  extract_lets k s'
  refine (State.flueView_routePacket ..).trans ?_
  change (if lines.isEmpty then s else _).flueView = s.flueView
  split
  · rfl
  · exact s.flueView_dp (trace_cle ..)

theorem State.flueView_sendAwaited (s : State) (d u typ vc pkg pod addr tag : Nat) (args : BitVec 256) (lines : List (BitVec 512)) :
    (s.sendAwaited d u typ vc pkg pod addr tag args lines).flueView = s.flueView :=
  (State.flueView_originate ..).trans rfl

theorem State.flueView_flSend (s : State) (d : Nat) (o : FlOp) (rank : Nat) (x : FlArgs) (tag : BitVec 64) :
    (s.flSend d o rank x tag).flueView = s.flueView := State.flueView_originate ..

/-! ### An operation as its trees move (R353–R355) -/

/-- What names an operation: the descriptor it works for, its CG and its number. -/
def FlOp.name (o : FlOp) : Option (Nat × Nat) × Nat × Nat := (o.host, o.cg, o.oseq)

/-- A package and an operation of it, as far as the queues, the launches and the Flues go. -/
def flView (r : State × FlOp) : (Hp × Scr × Tab Cle) × Option (Nat × Nat) × Nat × Nat := (r.1.flueView, r.2.name)

theorem flView_eq {r : State × FlOp} {s : State} {o : FlOp} (hs : r.1.flueView = s.flueView) (ho : r.2.name = o.name) :
    flView r = flView (s, o) := by rw [flView, hs, ho, flView]

theorem State.flView_flSendLines (s : State) (d : Nat) (o : FlOp) (rank : Nat) (x : FlArgs) (addr : Nat) (last : Bool) (n : Nat)
    (l : List (BitVec 512)) : flView (s.flSendLines d o rank x addr last n l) = flView (s, o) := by
  induction n generalizing s o addr l with
  | zero => rfl
  | succ n ih =>
    rw [State.flSendLines]
    split
    · rfl
    · refine (ih ..).trans (flView_eq ?_ rfl)
      exact (State.flueView_sendAwaited ..)

theorem State.flView_flSendPartial (s : State) (d : Nat) (o : FlOp) (t : Nat) (st : FlStep) (lane since : Nat) :
    flView (s.flSendPartial d o t st lane since) = flView (s, o) := by
  unfold State.flSendPartial
  extract_lets n k tr ns r s'
  have hr : r.2.cle = s.dp.cle := by
    unfold r
    split
    · rfl
    · exact flReads_cle ..
  have hs : s'.flueView = s.flueView := s.flueView_dp hr
  split
  · exact flView_eq hs rfl
  · exact (State.flView_flSendLines ..).trans (flView_eq hs rfl)

theorem State.flView_flValue (s : State) (d : Nat) (o : FlOp) (t : Nat) : flView (s.flValue d o t) = flView (s, o) := by
  unfold State.flValue
  extract_lets n k tr r dp since
  have hr : r.2.cle = s.dp.cle := by
    unfold r
    split
    · rfl
    · exact flReads_cle ..
  split
  · rfl
  split
  · split
    · exact flView_eq (s.flueView_dp hr) rfl
    · exact flView_eq (s.flueView_dp ((flDeliverSlab_cle ..).trans hr)) rfl
  · split
    · exact State.flView_flSendPartial ..
    · exact flView_eq rfl rfl

theorem State.flView_flTrees (s : State) (d : Nat) (o : FlOp) (n : Nat) : flView (s.flTrees d o n) = flView (s, o) := by
  induction n generalizing s o with
  | zero => rfl
  | succ n ih =>
    rw [State.flTrees]
    extract_lets steps k r
    split
    · rfl
    split
    · exact (ih ..).trans (State.flView_flValue s d { o with next := o.next + 1 } o.next)
    · split
      · rfl
      · next lanes _ =>
        extract_lets o' s₁ s₂
        have h₁ : s₁.flueView = s.flueView := s.flueView_dp (flWrites_cle ..)
        have h₂ : s₂.flueView = s₁.flueView := foldl_keeps State.flueView (fun s y => State.flueView_flSend ..) _ s₁
        exact (ih ..).trans (flView_eq (h₂.trans h₁) rfl)

theorem State.flView_flBlockOut (s : State) (d : Nat) (o : FlOp) (shard addr : Nat) (last : Bool) (l : List (BitVec 512)) :
    flView (s.flBlockOut d o shard addr last l) = flView (s, o) :=
  foldl_keeps flView (fun _ _ => State.flView_flSendLines ..) _ (s, o)

end Sys2Proof.Machine
end

section
/-! CG_OPEN, CG_CLOSE and COLLECTIVE (R133, R134, R347, R366). -/

namespace Sys2Proof.Machine

/-! ### An operation in flight -/

/-- Flue `i` holds an operation of CG `c` for descriptor `h`. -/
def State.carries (s : State) (i : Nat) (h : Nat × Nat) (c : Nat) : Prop := ∃ o ∈ (s.dp.getCle i).ops, o.host = some h ∧ o.cg = c

/-- A step that touches no queue and no launch, and ends no operation of CG `c` for descriptor `h`. -/
structure State.Furthers (h : Nat × Nat) (c : Nat) (s t : State) : Prop where
  hp : t.hp = s.hp
  scr : t.scr = s.scr
  carries : ∀ i, s.carries i h c → t.carries i h c

section
variable {h : Nat × Nat} {c : Nat} {s t u : State}

theorem State.Furthers.trans (a : State.Furthers h c s t) (b : State.Furthers h c t u) : State.Furthers h c s u :=
  ⟨b.hp.trans a.hp, b.scr.trans a.scr, fun i hi => b.carries i (a.carries i hi)⟩

theorem State.Furthers.of_view (hv : t.flueView = s.flueView) : State.Furthers h c s t := by
  simp only [State.flueView, Prod.mk.injEq] at hv
  obtain ⟨hhp, hscr, hcle⟩ := hv
  refine ⟨hhp, hscr, fun i hi => ?_⟩
  rwa [State.carries, Dp.getCle, hcle]

theorem State.Furthers.foldl {α : Type} {f : State → α → State} (hf : ∀ s x, State.Furthers h c s (f s x)) (l : List α) (s : State) :
    State.Furthers h c s (l.foldl f s) := by
  induction l generalizing s with
  | nil => exact .of_view rfl
  | cons x r ih => exact (hf s x).trans (ih (f s x))

end

/-- R347: the operation as issued. -/
def State.issued (s : State) (d : Nat) (o : FlOp) : FlOp := { o with oseq := ((s.dp.getCle d).oseq.get 0 o.cg).toNat }

theorem State.issueOp_keeps (s : State) (d : Nat) (o : FlOp) (opc : Nat) : (s.issueOp d o opc).hp = s.hp ∧ (s.issueOp d o opc).scr = s.scr := by
  unfold State.issueOp
  extract_lets n s₁ s₂
  have h : (s₂.hp, s₂.scr) = (s.hp, s.scr) := by
    unfold s₂
    split <;> rfl
  exact Prod.mk.inj h

theorem State.ops_issueOp (s : State) (d : Nat) (o : FlOp) (opc i : Nat) : ((s.issueOp d o opc).dp.getCle i).ops =
    if i = d then (s.dp.getCle d).ops ++ [s.issued d o] else (s.dp.getCle i).ops := by
  unfold State.issueOp
  extract_lets n s₁ s₂
  have h : s₂.dp.cle = s.dp.cle := by
    unfold s₂
    split <;> exact trace_cle ..
  have hget (k : Nat) : s₂.dp.getCle k = s.dp.getCle k := by rw [Dp.getCle, h, Dp.getCle]
  rw [Dp.getCle_setCle, hget, hget]
  split <;> rfl

theorem State.lastOp_issueOp (s : State) (d : Nat) (o : FlOp) (opc : Nat) : (s.issueOp d o opc).lastOp d = some (s.issued d o) := by
  rw [State.lastOp, State.ops_issueOp, if_pos rfl, List.getLast?_concat]

theorem State.ops_putOp (s : State) (d : Nat) (o : FlOp) (i : Nat) : ((s.putOp d o).dp.getCle i).ops =
    if i = d then (s.dp.getCle d).ops.map (fun x => if x.cg = o.cg && x.oseq = o.oseq then o else x) else (s.dp.getCle i).ops := by
  unfold State.putOp
  rw [Dp.getCle_setCle]
  split <;> rfl

/-- What is found by the name of the operation put back is that operation. -/
theorem State.find?_putOp {s : State} {d : Nat} {o x : FlOp}
    (h : ((s.putOp d o).dp.getCle d).ops.find? (fun y => y.cg == o.cg && y.oseq == o.oseq) = some x) : x = o := by
  rw [State.ops_putOp, if_pos rfl] at h
  have hname := List.find?_some h
  obtain ⟨y, -, rfl⟩ := List.mem_map.1 (List.mem_of_find?_eq_some h)
  split at hname
  · next hy => rw [if_pos hy]
  · next hy => exact absurd (by simpa using hname) hy

/-- What is found by the name of an operation whose trees have moved works for the same descriptor. -/
theorem State.host_flGo {s : State} {d : Nat} {o x : FlOp}
    (h : ((s.flGo d (s, o)).dp.getCle d).ops.find? (fun y => y.cg == o.cg && y.oseq == o.oseq) = some x) : x.host = o.host := by
  have hview := s.flView_flTrees d o (o.slabs * s.flN o.cg - o.next + 1)
  simp only [flView, FlOp.name, Prod.mk.injEq] at hview
  obtain ⟨-, hhost, hcg, hoseq⟩ := hview
  rw [← hcg, ← hoseq] at h
  rw [State.find?_putOp h, hhost]

section
variable {h : Nat × Nat} {c : Nat} {o : FlOp} (hh : o.host = some h) (hc : o.cg = c)
include hh hc

theorem State.putOp_furthers (s : State) (d : Nat) : State.Furthers h c s (s.putOp d o) := by
  refine ⟨rfl, rfl, fun i ⟨x, hx, hxh, hxc⟩ => ?_⟩
  rw [State.carries, State.ops_putOp]
  split
  · next hi =>
    refine ⟨_, List.mem_map_of_mem (hi ▸ hx), ?_⟩
    split
    · exact ⟨hh, hc⟩
    · exact ⟨hxh, hxc⟩
  · exact ⟨x, hx, hxh, hxc⟩

theorem State.issueOp_furthers (s : State) (d opc : Nat) :
    State.Furthers h c s (s.issueOp d o opc) ∧ (s.issueOp d o opc).carries d h c := by
  obtain ⟨hhp, hscr⟩ := s.issueOp_keeps d o opc
  refine ⟨⟨hhp, hscr, fun i ⟨x, hx, hxh, hxc⟩ => ⟨x, ?_, hxh, hxc⟩⟩, s.issued d o, ?_, hh, hc⟩
  · rw [State.ops_issueOp]
    split
    · next hi => exact List.mem_append_left _ (hi ▸ hx)
    · exact hx
  · rw [State.ops_issueOp, if_pos rfl]
    simp

/-- An operation that has moved is put back. -/
theorem State.putBack_furthers {s : State} {r : State × FlOp} (hr : flView r = flView (s, o)) (d : Nat) :
    State.Furthers h c s (r.1.putOp d r.2) := by
  simp only [flView, FlOp.name, Prod.mk.injEq] at hr
  obtain ⟨hview, hhost, hcg, -⟩ := hr
  exact (State.Furthers.of_view hview).trans (State.putOp_furthers (hhost.trans hh) (hcg.trans hc) r.1 d)

/-- R347: an operation issues, and goes on with its SRC read. -/
theorem State.flIssue_furthers (s : State) (d blocks : Nat) {f : State → FlOp → State}
    (hf : ∀ t o', o'.host = some h → o'.cg = c → State.Furthers h c t (f t o')) :
    State.Furthers h c s (s.flIssue d o blocks f) ∧ (s.flIssue d o blocks f).carries d h c := by
  have hsrc := flSource_cle s.env d o blocks (fSrc o.word) s.dp
  unfold State.flIssue
  split
  · next x hr =>
    rw [hr] at hsrc
    obtain ⟨hissue, hin⟩ := State.issueOp_furthers hh hc { s with dp := x } d (bits o.word 0 8)
    exact ⟨(State.Furthers.of_view (s.flueView_dp hsrc)).trans hissue, hin⟩
  · next l x hr =>
    rw [hr] at hsrc
    extract_lets s'
    obtain ⟨hissue, hin⟩ := State.issueOp_furthers (o := { o with data := l }) hh hc { s with dp := x } d (bits o.word 0 8)
    rw [State.lastOp_issueOp]
    have hgo := hf s' (State.issued { s with dp := x } d { o with data := l }) hh hc
    exact ⟨((State.Furthers.of_view (s.flueView_dp hsrc)).trans hissue).trans hgo, hgo.carries d hin⟩

theorem State.ownBlock_furthers (s : State) (d : Nat) : State.Furthers h c s (s.ownBlock d o) := by
  unfold State.ownBlock
  extract_lets me a s' r
  have hs : s'.flueView = s.flueView := s.flueView_dp (flWrites_cle ..)
  exact State.putBack_furthers hh hc ((State.flView_flBlockOut ..).trans (flView_eq hs rfl)) d

theorem State.startAg_furthers (s : State) (d : Nat) : State.Furthers h c s (s.startAg d o) ∧ (s.startAg d o).carries d h c :=
  State.flIssue_furthers hh hc s d 1 (fun t _ hh' hc' => State.ownBlock_furthers hh' hc' t d)

theorem State.startBcast_furthers (s : State) (d : Nat) : State.Furthers h c s (s.startBcast d o) ∧ (s.startBcast d o).carries d h c := by
  unfold State.startBcast
  split
  · exact State.flIssue_furthers hh hc s d 1 (fun t _ hh' hc' => State.ownBlock_furthers hh' hc' t d)
  · exact State.flIssue_furthers hh hc s d 0 (fun t _ _ _ => .of_view rfl)

/-- R355: trees that may take lanes do, and the operation is put back. -/
theorem State.flGo_furthers (s : State) (d : Nat) : State.Furthers h c s (s.flGo d (s, o)) :=
  State.putBack_furthers hh hc (State.flView_flTrees ..) d

/-- R352: a reduce-scatter of a host operation has no side-band. -/
theorem State.startRs_furthers (s : State) (d : Nat) : State.Furthers h c s (s.startRs d o) ∧ (s.startRs d o).carries d h c := by
  unfold State.startRs
  extract_lets blot
  refine State.flIssue_furthers hh hc s d _ (fun t o' hh' hc' => ?_)
  extract_lets bad t' t''
  have ht : t' = t := if_neg (by simp [hh'])
  have hgo : State.Furthers h c t t'' := ht ▸ State.flGo_furthers (o := { o' with bit := blot || bad }) hh' hc' t' d
  split
  · next x hx =>
    have hname : x.host = o'.host := State.host_flGo (o := { o' with bit := blot || bad }) hx
    rw [if_neg (by simp [hname, hh'])]
    exact hgo
  · exact hgo

end

/-! ### COLLECTIVE -/

/-- R8: without a launch, a job that stops ends none. -/
theorem State.endLaunch_none {s : State} {p : Nat} (h : (s.getPartn p).launch = none) (st detail : Nat) (stopEnded torn : Bool) :
    s.endLaunch p st detail stopEnded torn = s := by
  unfold State.endLaunch
  rw [h]

theorem State.settleStop_quiet {s : State} (h : s.launched = false) : s.settleStop.flueView = s.flueView := by
  have idle : ∀ p ∈ [0, 1, 2, 3], (s.getPartn p).launch = none := by simpa [State.launched] using h
  unfold State.settleStop
  split
  · rfl
  · next n _ =>
    have same : [0, 1, 2, 3].foldl (fun s p => State.endLaunch s p stFault n.toNat false true) s = s :=
      List.foldlRecOn (motive := fun t => t = s) _ _ rfl (fun t ht p hp => by rw [ht, State.endLaunch_none (idle p hp)])
    rw [same]
    rfl

/-- R366: Flue `i`'s share of a collective. -/
def hostShare (q seq n : Nat) (d : BitVec 512) (i : Nat) : FlOp :=
  { opOf (hostWord q n d) with
    host := some (q, seq)
    off := 64 * min (i * ceilDiv (bits d 256 32 / 64) 4) (bits d 256 32 / 64)
    count := 64 * (min ((i + 1) * ceilDiv (bits d 256 32 / 64) 4) (bits d 256 32 / 64) -
      min (i * ceilDiv (bits d 256 32 / 64) 4) (bits d 256 32 / 64)) }

/-- R366: it starts. -/
def State.startShare (q seq n : Nat) (d : BitVec 512) (s : State) (i : Nat) : State :=
  match bits d 64 4 with
  | 0 => s.startAg i (hostShare q seq n d i)
  | 1 => s.startRs i (hostShare q seq n d i)
  | _ => s.startBcast i (hostShare q seq n d i)

theorem State.startHost_eq (s : State) (q seq n : Nat) (d : BitVec 512) :
    s.startHost q seq n d = ([0, 1, 2, 3].foldl (State.startShare q seq n d) s).settleStop := rfl

/-- R134: the word a Flue is given names the queue's CG. -/
theorem fCg_hostWord (q n : Nat) (d : BitVec 512) (hq : q - 16 < 64) : fCg (hostWord q n d) = q - 16 := by
  have hopc : (if bits d 64 4 = 0 then 0x10 else if bits d 64 4 = 1 then 0x11 else 0x12) < 256 := by split <;> (try split) <;> omega
  unfold fCg hostWord
  rw [bits_ofNat (by decide), Nat.shiftRight_eq_div_pow]
  generalize (if bits d 64 4 = 0 then 0x10 else if bits d 64 4 = 1 then 0x11 else 0x12) = opc at hopc ⊢
  generalize 2 ^ 24 / (4096 * 2 ^ hostSlabLog n) = lanes
  split <;> split <;> omega

theorem State.startShare_furthers {q : Nat} (hq : q - 16 < 64) (seq n : Nat) (d : BitVec 512) (s : State) (i : Nat) :
    State.Furthers (q, seq) (q - 16) s (s.startShare q seq n d i) ∧ (s.startShare q seq n d i).carries i (q, seq) (q - 16) := by
  have hc : (hostShare q seq n d i).cg = q - 16 := fCg_hostWord q n d hq
  unfold State.startShare
  split
  · exact State.startAg_furthers rfl hc s i
  · exact State.startRs_furthers rfl hc s i
  · exact State.startBcast_furthers rfl hc s i

/-- R134, R366: a collective that starts without a launch runs on every Flue, and touches no queue and no launch. -/
theorem State.startHost_runs {s : State} {q : Nat} (hq : q - 16 < 64) (seq n : Nat) (d : BitVec 512) (hl : s.launched = false) :
    (s.startHost q seq n d).hp = s.hp ∧ (s.startHost q seq n d).scr = s.scr ∧
      ∀ i, i < 4 → (s.startHost q seq n d).carries i (q, seq) (q - 16) := by
  rw [State.startHost_eq]
  have started := State.Furthers.foldl (fun t i => (State.startShare_furthers hq seq n d t i).1) [0, 1, 2, 3] s
  have quiet : ([0, 1, 2, 3].foldl (State.startShare q seq n d) s).launched = false := by
    rw [State.launched] at hl ⊢
    simp only [State.getPartn, started.scr]
    exact hl
  have settled := State.settleStop_quiet quiet
  have ends : State.Furthers (q, seq) (q - 16) _ _ := .of_view settled
  refine ⟨ends.hp.trans started.hp, ends.scr.trans started.scr, fun i hi => ends.carries i ?_⟩
  refine foldl_reaches (I := fun _ => True) (P := fun t : State => t.carries i (q, seq) (q - 16)) (fun _ _ _ => trivial)
    (fun t _ => (State.startShare_furthers hq seq n d t i).2) (fun j _ _ t _ ht => (State.startShare_furthers hq seq n d t j).1.carries i ht)
    s trivial (.inl ?_)
  simp
  omega

/-- R134: the fields of a COLLECTIVE over `n` ranks, in the order they are looked at. -/
def collectiveFields (n : Nat) (d : BitVec 512) : List (Nat × Bool) :=
  [(64, decide (bits d 64 4 > 2)), (68, bits d 64 4 == 1 && bits d 68 2 == 3), (70, anyBits d 70 26),
    (96, bits d 64 4 == 2 && decide (bits d 96 32 ≥ n)), (128, bits d 128 6 != 0), (192, bits d 192 6 != 0),
    (256, bits d 256 32 % 64 != 0 || bits d 256 32 == 0), (288, anyBits d 288 224)]

/-- R134: the ranges of a COLLECTIVE lie in mapped package memory. -/
def collectiveMapped (m : Mem) (n : Nat) (d : BitVec 512) : Bool :=
  !(decide (bits d 128 64 ≥ 2 ^ 48) || decide (bits d 192 64 ≥ 2 ^ 48) ||
    !(hostRange m (bits d 128 48) ((if bits d 64 4 = 1 then n else 1) * bits d 256 32 / 64)) ||
    !(hostRange m (bits d 192 48) ((if bits d 64 4 = 0 then n else 1) * bits d 256 32 / 64)))

/-- R134: the descriptor of a collective is in flight. -/
def State.hostOpBegun (s : State) (q seq : Nat) : State :=
  { s.markStarted q seq with hp := { (s.markStarted q seq).hp with hostOps := s.hp.hostOps ++ [⟨q, seq⟩] } }

section
variable {q : Fin 81} {seq : Nat} {d : BitVec 512} {s : State}

theorem exec_collective_launched (h : s.launched = true) : exec (.collective q seq) s = .next s := congrArg _ (if_pos h)

theorem exec_collective_closed (hs : s.starts q.val seq 0x22 d) (hl : s.launched = false) (ho : s.torus.cgOpen.contains (q.val - 16) = false) :
    exec (.collective q seq) s = .next (s.finish q.val seq stNoPlace 0 0) := by
  have hexec : exec (.collective q seq) s = execCollective q seq s := rfl
  rw [hexec, execCollective, if_neg (ne_true_of_eq_false hl), s.onStart_starts q.val seq 0x22 d _ hs]
  exact congrArg _ (if_pos (by rw [ho]; rfl))

theorem exec_collective (hs : s.starts q.val seq 0x22 d) (hl : s.launched = false) (ho : s.torus.cgOpen.contains (q.val - 16) = true)
    (hf : badField d (collectiveFields (s.flN (q.val - 16)) d) = none) (hm : collectiveMapped s.dp.mem (s.flN (q.val - 16)) d = true) :
    exec (.collective q seq) s = .next (if s.hostWaits (hostWord q.val (s.flN (q.val - 16)) d) then s
      else (s.hostOpBegun q.val seq).startHost q.val seq (s.flN (q.val - 16)) d) := by
  have hexec : exec (.collective q seq) s = execCollective q seq s := rfl
  rw [collectiveMapped, Bool.not_eq_true'] at hm
  rw [hexec, execCollective, if_neg (ne_true_of_eq_false hl), s.onStart_starts q.val seq 0x22 d _ hs]
  rw [collectiveFields] at hf
  simp only [ho, hf, hm, Bool.not_true, Bool.false_eq_true, if_false]
  rfl

/-- R128: a COLLECTIVE that starts stands on a communication queue. -/
theorem State.starts_comm (hs : s.starts q.val seq 0x22 d) : q.val - 16 < 64 := by
  obtain ⟨-, htyp, -, hstatus, -⟩ := hs
  have := q.isLt
  by_contra hq
  have hkind : qKind q.val = .mgmt := by
    rw [qKind, if_neg (by omega), if_neg (by omega)]
  simp [State.typeStatus, htyp, typeQueue, hkind] at hstatus

end

/-! ### CG_OPEN and CG_CLOSE -/

/-- R133: CG `n` is open; its operation numbers restart if it was closed. -/
def State.cgOpened (s : State) (n : Nat) : State :=
  { s with
    dp := if s.torus.cgOpen.contains n then s.dp else { s.dp with cle := s.dp.cle.map (fun x => (x.1, { x.2 with oseq := x.2.oseq.put 0 n 0 })) }
    torus := { s.torus with cgOpen := NSet.add s.torus.cgOpen n } }

/-- R133: CG `n` is closed. -/
def State.cgShut (s : State) (n : Nat) : State := { s with torus := { s.torus with cgOpen := s.torus.cgOpen.filter (fun x => x != n) } }

theorem State.cgOpened_keeps (s : State) (n : Nat) : (s.cgOpened n).hp = s.hp ∧ (s.cgOpened n).torus.cgs = s.torus.cgs ∧
    (s.cgOpened n).dp.mem = s.dp.mem := by
  refine ⟨rfl, rfl, ?_⟩
  unfold State.cgOpened
  dsimp only
  split <;> rfl

theorem State.mem_cgOpened (s : State) (n k : Nat) : k ∈ (s.cgOpened n).torus.cgOpen ↔ k = n ∨ k ∈ s.torus.cgOpen := NSet.mem_add ..

theorem State.mem_cgShut (s : State) (n k : Nat) : k ∈ (s.cgShut n).torus.cgOpen ↔ k ∈ s.torus.cgOpen ∧ k ≠ n := by
  simp only [State.cgShut, List.mem_filter, bne_iff_ne]

section
variable {q : Fin 81} {seq : Nat} {d : BitVec 512} {s : State}

/-- R133: CG_OPEN with its fields in order. -/
theorem exec_cgOpen (hs : s.starts q.val seq 0x20 d) (hh : headerOk d = true) (h1 : 1 ≤ bits d 64 32) (hn : bits d 64 32 ≤ 262144)
    (h96 : bits d 96 416 = 0) {e : BitVec 256} (he : s.torus.cgs.get 0 (q.val - 16) = e) : exec (.cgOpen q seq) s = .next (
      if (s.ownerOf q.val).isSome || s.hostOpOn q.val then s.finish q.val seq stBusy 0 0
      else if cgValid e && cgSize e == bits d 64 32 then (s.cgOpened (q.val - 16)).finish q.val seq stOk 0 (BitVec.ofNat 64 (cgRank e))
      else (s.cgShut (q.val - 16)).finish q.val seq stNoPlace (if cgValid e then cgSize e else 0) 0) := by
  have hexec : exec (.cgOpen q seq) s = execCgOpen q seq s := rfl
  have hz : bits d 64 32 ≠ 0 := by omega
  rw [hexec, execCgOpen, s.onDesc_starts q.val seq 0x20 d _ _ hs hh (by simp [h96, hz, hn]), ← he]
  rfl

/-- R133: CG_CLOSE of a queue that nothing holds. -/
theorem exec_cgClose (hs : s.starts q.val seq 0x21 d) (hh : headerOk d = true) (h64 : bits d 64 448 = 0) (ho : s.ownerOf q.val = none)
    (hop : s.hostOpOn q.val = false) :
    exec (.cgClose q seq) s = .next (((s.endHostOps (· == q.val)).cgShut (q.val - 16)).finish q.val seq stOk 0 0) := by
  have hexec : exec (.cgClose q seq) s = execCgClose q seq s := rfl
  have hne : ∀ o ∈ s.hp.hostOps, ¬ (o.q == q.val) = true := List.any_eq_false.1 hop
  have hnone : s.hp.hostOps.filter (fun o => o.q == q.val) = [] := List.filter_eq_nil_iff.2 hne
  have hall : s.hp.hostOps.filter (fun o => o.q != q.val) = s.hp.hostOps :=
    List.filter_eq_self.2 (fun o h => by simpa using hne o h)
  have hhp : (s.endHostOps (· == q.val)).hp = s.hp := (s.endHostOps_keeps _).1
  rw [hexec, execCgClose, s.onDesc_starts q.val seq 0x21 d _ _ hs hh (by simp [h64]), ho]
  simp only [Option.isSome_none, Bool.false_eq_true, if_false, hnone, List.foldl_nil, hhp, hall]
  rfl

end

/-- Settles O31: CG_OPEN and CG_CLOSE set the one CG's state; a COLLECTIVE that starts is `State.startHost_runs`. -/
theorem collectivesNeedTheirGroup : Obligations.CollectivesNeedTheirGroup := by
  unfold Obligations.CollectivesNeedTheirGroup
  refine ⟨fun q seq d s hs hh h1 hn h96 => ?_, fun q seq d s hs hh h64 ho hop => ?_, fun q seq d s hs =>
    ⟨exec_collective_launched, exec_collective_closed hs, fun hl ho hh hop hfmt h70 hroot h128 h192 h256 hcnt h288 hsrc hdst hin hout => ?_⟩⟩
  · rw [exec_cgOpen hs hh h1 hn h96 rfl]
    generalize s.torus.cgs.get 0 (q.val - 16) = e
    refine ⟨fun h => congrArg _ (if_pos (by simpa using h)), fun ho hop => ?_⟩
    rw [ho, hop, Option.isSome_none, Bool.or_self, if_neg Bool.false_ne_true]
    by_cases hfit : (cgValid e && cgSize e == bits d 64 32) = true
    · obtain ⟨hhp, hcgs, hmem⟩ := s.cgOpened_keeps (q.val - 16)
      rw [if_pos hfit]
      obtain ⟨hv, hsize⟩ : cgValid e = true ∧ cgSize e = bits d 64 32 := by simpa using hfit
      exact ⟨_, rfl, fun _ _ => ⟨(s.mem_cgOpened ..).2 (.inl rfl), State.finish_hp_congr hhp ..⟩, fun _ h => absurd hsize h,
        fun k hk => (s.mem_cgOpened ..).trans (or_iff_right hk), hcgs, hmem⟩
    · rw [if_neg hfit]
      refine ⟨_, rfl, fun hv hsize => absurd (by simp [hv, hsize]) hfit, fun hv _ => ⟨fun h => ((s.mem_cgShut ..).1 h).2 rfl, ?_⟩,
        fun k hk => (s.mem_cgShut ..).trans (and_iff_left hk), rfl, rfl⟩
      rw [if_pos hv]
      exact State.finish_hp_congr (t := s.cgShut (q.val - 16)) rfl ..
  · refine ⟨_, exec_cgClose hs hh h64 ho hop, fun h => ((State.mem_cgShut ..).1 h).2 rfl, fun k hk =>
      (State.mem_cgShut ..).trans (and_iff_left hk), State.finish_hp_congr rfl .., rfl⟩
  · have hf : badField d (collectiveFields (s.flN (q.val - 16)) d) = none := by
      have hshort : ¬ 2 < bits d 64 4 := Nat.not_lt.2 hop
      rw [badField_body d _ hh]
      simpa [collectiveFields, hshort, h70, h128, h192, h256, hcnt, h288] using And.intro hfmt hroot
    have hm : collectiveMapped s.dp.mem (s.flN (q.val - 16)) d = true := by
      rw [collectiveMapped, decide_eq_false (Nat.not_le.2 hsrc), decide_eq_false (Nat.not_le.2 hdst), hin, hout]
      rfl
    rw [exec_collective hs hl ho hf hm]
    refine ⟨fun h => congrArg _ (if_pos h), fun h => ⟨_, congrArg _ (if_neg (ne_true_of_eq_false h)), ?_⟩⟩
    obtain ⟨hhp, hscr, hcarries⟩ := State.startHost_runs (s := s.hostOpBegun q.val seq) (State.starts_comm hs) seq (s.flN (q.val - 16)) d hl
    refine ⟨?_, ?_, hcarries, hscr⟩
    · rw [hhp]
      exact List.mem_append_right _ (List.mem_singleton.2 rfl)
    · rw [State.getQ, hhp]
      exact s.markStarted_started q.val seq

end Sys2Proof.Machine
end
